-- ==== Sys2Proof/Word.lean ====
section
/-! DEFINITION. The machine's words: bytes, instruction words and 64-bit register words (R3, R22, R145). -/

namespace Sys2Proof

/-- One byte of memory or of a register's storage (R3). -/
abbrev Byte := BitVec 8

/-- One 64-bit register word (R22, R23). -/
abbrev Word := BitVec 64

/-- One 32-bit instruction word or row micro-op (R127, R145). -/
abbrev Code := BitVec 32

end Sys2Proof
end

