-- ==== Sys2Proof/Config.lean ====
section
/-! DEFINITION. Values the spec leaves open. Each is an opaque constant: no proof and no evaluation sees a value of it, so
whatever is proved holds whichever values a part produces. Each takes the state's tick counter, and what else tells its
uses apart (log 2). -/

namespace Sys2Proof.Config

/-- How many core clocks a step takes (R8 calls every figure typical; log 11). -/
opaque stepClocks : Nat → Nat

/-- Whether a dirty L1 line has reached its home L2 by now, with no cwb (R270; log 4). -/
opaque wroteBack : Nat → Nat → Bool

/-- Whether a cached line has reached the array rows by now, with no acquire (R106; log 4). -/
opaque reachedRows : Nat → Nat → Bool

/-- Whether an L1 instruction line has been replaced by now (R77; log 4). -/
opaque lineReplaced : Nat → Nat → Bool

/-- Which line a full cache replaces for the line of an address (R1, R77; log 4). -/
opaque victim : Nat → Nat → Nat

/-- The word tinst holds after a trap of an instruction that could not be fetched (R325; log 12). -/
opaque unfetched : Nat → Code

/-- Whether element `i` of an unordered vector access performs before element `j` at the same place (R100, R207; log 15). -/
opaque earlier : Nat → Nat → Nat → Bool

/-- The element boundary at which a hard pre-emption that is due stops a vector access (R193; log 60). -/
opaque stopPoint : Nat → Nat

/-- The bytes of the vector registers of a strand whose lane group has been quarantined: dead (R21; log 14). -/
opaque deadLanes : Nat → List (Nat × Byte)

/-- The bits of its mask registers (R21; log 14). -/
opaque deadMasks : Nat → List (Nat × Bool)

/-- Whether a translation cache still holds the old byte of a record or residency entry that software has changed (R306,
R307; log 18). -/
opaque cachedRecord : Nat → Nat → Bool

/-- The code of a T2 element whose planes P and N both hold 1 (R118 names no such code; log 16). -/
opaque bothPlanes : Nat → Nat → BitVec 2

/-- The scale byte of block `b` of a Q4 object that is widened (R75 names no scale bytes for elements outside the command;
log 17). -/
opaque widenScale : Nat → Nat → Byte

/-- The code of element `e` of a widened object whose sub-tile could not be read (R75, R324; log 17). -/
opaque widened : Nat → Nat → Byte

/-- The lanes of a compute or dual-contact row that nothing has written in the step (R128), and a shadow mitten's row
between runs (R138); log 19. -/
opaque openRow : Nat → Nat → BitVec 262144

/-- The row a refresh slot's patrol reads in its bank (R383; log 20). -/
opaque patrolRow : Nat → Nat → Nat

/-- The far end of a channel offered exponent coding, at the training at a time and at a set-up of its connection (R368;
log 22). -/
opaque peerCodes : Nat → Nat → Nat → Nat → Bool

/-- Which of the channels that reach a member block `i` of a contribution takes (R358, R364; log 22). -/
opaque route : Nat → Nat → Nat

/-- Nalarn's public key, the two numbers of a point (R406, R409; log 6). -/
opaque nalarnKey : List Byte

/-- The owner's public key whose SHA-384 an owner record holds (R409; log 6). -/
opaque ownerKey : List Byte → List Byte

/-- The private identity key of the part (R407; log 6), and the nonces of its signatures. -/
opaque identityKey : Nat
opaque signNonce : Nat → Nat

end Sys2Proof.Config
end

