-- ==== Sys2Proof/Machine/Sparse.lean ====
section
/-! DEFINITION. Finite maps as lists of (key, value) pairs with strictly rising keys, none of them holding the value that
an unlisted key reads as. Equal maps are equal lists. -/

namespace Sys2Proof.Machine

/-- A map from numbers to `α`, in canonical form when `Sparse.wf` holds. -/
abbrev Sparse (α : Type) := List (Nat × α)

/-- The value of key `n`; `d` is what an unlisted key reads as. -/
def Sparse.get {α : Type} (d : α) (m : Sparse α) (n : Nat) : α :=
  match m with
  | [] => d
  | (k, v) :: r => if k = n then v else Sparse.get d r n

/-- The map without key `n`. -/
def Sparse.erase {α : Type} (m : Sparse α) (n : Nat) : Sparse α :=
  match m with
  | [] => []
  | (k, v) :: r => if k = n then Sparse.erase r n else (k, v) :: Sparse.erase r n

/-- Insertion of a key that is not listed, in rising order. -/
def Sparse.insert {α : Type} (m : Sparse α) (n : Nat) (v : α) : Sparse α :=
  match m with
  | [] => [(n, v)]
  | (k, w) :: r => if n < k then (n, v) :: (k, w) :: r else (k, w) :: Sparse.insert r n v

/-- The map with key `n` holding `v`; the default is not listed. -/
def Sparse.put {α : Type} [DecidableEq α] (d : α) (m : Sparse α) (n : Nat) (v : α) : Sparse α :=
  if v = d then Sparse.erase m n else Sparse.insert (Sparse.erase m n) n v

/-- Keys rise strictly from above `lo`, and no value is `d`. -/
def Sparse.wfFrom {α : Type} [DecidableEq α] (d : α) (lo : Nat) (m : Sparse α) : Bool :=
  match m with
  | [] => true
  | (k, v) :: r => decide (lo ≤ k) && decide (v ≠ d) && Sparse.wfFrom d (k + 1) r

/-- The canonical form. -/
def Sparse.wf {α : Type} [DecidableEq α] (d : α) (m : Sparse α) : Bool := Sparse.wfFrom d 0 m

end Sys2Proof.Machine
end

