-- ==== Sys2Proof/Syntax.lean ====
section
/-! DEFINITION. The instructions of the NL-PA7240: one constructor per row of spec/opcode_table.json.
Strand words (R145-R151), row micro-ops (R127-R131), and the agents' steps and outside events, which have no word.
Register numbers are names, so they are `Fin`; fields the machine computes with are `BitVec`. -/

namespace Sys2Proof

/-- A general register g0-g31 (R22). -/
abbrev GReg := Fin 32
/-- A vector register v0-v63 (R22). -/
abbrev VReg := Fin 64
/-- A mask register k0-k7 (R22). -/
abbrev KReg := Fin 8
/-- A tile register t0-t7 (R22). -/
abbrev TReg := Fin 8
/-- A scale register e0-e15 (R22). -/
abbrev EReg := Fin 16
/-- A base die and its stack, 0-7 (R6). -/
abbrev Die := Fin 8
/-- A module core number, 32 x die + core (R6). -/
abbrev CoreId := Fin 256
/-- A strand of the module, 2 x module core + strand (R6). -/
abbrev StrandId := Fin 512
/-- A farm context of a dispatcher (R29). -/
abbrev FarmCtx := Fin 64
/-- A port group (R6). -/
abbrev PortGroup := Fin 8
/-- A host work queue of one die (R348). -/
abbrev QueueId := Fin 16384

/-- How the fabric names a collective to its members: the roster's digest, and the place in the issue order on it (R394). -/
structure CollName where
  digest : Nat
  nth : Nat
  deriving DecidableEq, Repr

/-- Which part of a contribution a wire block holds: the sending member's index, the chunk, the block's place in the
contribution, and the collective's wire format (R368). -/
structure WirePart where
  member : Nat
  chunk : Nat
  index : Nat
  wf : Nat
  deriving DecidableEq, Repr

/-- A link or port of a port group (R353). -/
structure GroupLink where
  group : PortGroup
  link : Fin 4
  deriving DecidableEq, Repr

/-- Where a message comes from: a group, its port or connection, and the sender's member identifier (R373, R375). -/
structure Sender where
  group : PortGroup
  chan : Nat
  member : Nat
  deriving DecidableEq, Repr

/-- A snoop of the host: the address, and the bytes it then stores there when it takes a line of its own memory to write it
(R112, R345). -/
structure Snoop where
  pa : BitVec 48
  store : Option (List Byte)
  deriving DecidableEq, Repr

/-- A request over MCTP to write a register of a die (R405). -/
structure MctpWrite where
  die : Die
  off : BitVec 20
  w : Word
  deriving DecidableEq, Repr

/-- The observer sets of R99. -/
inductive Scope where
  | strand | core | die | module | system
  deriving DecidableEq, Repr

/-- The second operand of a V-format word by its form (R147): vv, vs or vi. -/
inductive VSrc where
  | vv (r : VReg)
  | vs (r : GReg)
  | vi (imm : BitVec 6)
  deriving DecidableEq, Repr

/-- The queues whose commands are worked in fragments (R245): a core's copy engine, a die's layout engine,
a die's memory-side operations (R272). -/
inductive Engine where
  | copy (c : CoreId)
  | layout (d : Die)
  | mside (d : Die)
  deriving DecidableEq, Repr

/-- Every row of spec/opcode_table.json. Operand names: d, a, b general registers gd, ga, gb; v, x vector registers;
k the mask; dt the density-time bit; s a scope. -/
inductive Instr where
  /-- MODULE_RESET (R406): Module reset sets every strand IDLE and register to its reset value, and the security block's mask ROM verifies boot image slot A, then slot B, against the key digest and MINVER. -/
  | moduleReset
  /-- FIRMWARE_START (R18): Once the image is verified, the security block starts strand 0 of core 0 on each base die in supervisor mode at the verified firmware entry point. -/
  | firmwareStart
  /-- TRAP_ENTRY (R328): After any vsave or vrest of the strand has finished with its registers, a trap saves mode and TM into sstat, writes tcause, tval, tpc and tinst, and jumps to tvec in supervisor mode. -/
  | trapEntry (n : StrandId)
  /-- SERVICE_FORWARD (R333): Once the older instructions have retired, a user-mode trap under service mode writes a service record at TAIL, puts the faulting strand in SVCWAIT and raises the service strand's wake count. -/
  | serviceForward (n : StrandId)
  /-- SERVICE_RESUME (R334): A write of ACT = 1 to a pending service record optionally restores g4 and g5, and resumes the faulting strand at RPC in user mode, or ends its farm membership when RPC is 0. -/
  | serviceResume (n : StrandId)
  /-- SERVICE_REFLECT (R334): A write of ACT = 2 to a pending service record makes the faulting strand take the recorded trap in its own handler. -/
  | serviceReflect (n : StrandId)
  /-- SERVICE_PARK (R334): A write of ACT = 3 to a pending service record sends the faulting strand to IDLE, returning any strip it holds. -/
  | servicePark (n : StrandId)
  /-- HARD_PREEMPTION (R338): When a request has stood for PTMO.TMO microseconds, the strand stops at an element or row boundary, and either leaves its farm or writes its save image and enters the handler with HP = 1. -/
  | hardPreemption (n : StrandId)
  /-- PSET_WRITE (R337): A write to PSET sets the pre-emption request of each named strand that is not IDLE. -/
  | psetWrite (d : Die) (w : Word)
  /-- LPART_WRITE (R20): A supervisor write to lpart sets LPREQ and clears QUAR bits written 1, which also sets the matching LPREQ bits; the new partition acts at each strand's next vsetl. -/
  | lpartWrite (c : CoreId) (w : Word)
  /-- DMBASE_WRITE (R386): A write to DMBASE sets the damage map base and size, resets HEAD and TAIL to 0 and adds the discarded records to LOST. -/
  | dmbaseWrite (d : Die) (w : Word)
  /-- DUPPOOL_WRITE (R143): A write to DUPPOOL names the shadow banks; a bank's bit comes into force only once the bank holds no tier-1 sub-tile. -/
  | duppoolWrite (d : Die) (w : Word)
  /-- CONTROL_REGISTER_WRITE (R9): A write to a control-space register with no row of its own sets RW fields, clears RW1C bits written 1 and ignores read-only fields. -/
  | controlRegisterWrite (d : Die) (off : BitVec 20) (w : Word)
  /-- FARM_START (R30): The farm dispatcher starts an eligible IDLE strand of the farm's core mask in user mode at the entry point, with g4 = ARG, g5 = T and the farm state of R30. -/
  | farmStart (d : Die) (f : FarmCtx) (n : StrandId)
  /-- FARM_COMPLETION_ARRIVAL (R32): When N = T, no strip is returned and every strip has been retired, the dispatcher arrives once at the completion barrier after the retiring stores are visible. -/
  | farmCompletionArrival (d : Die) (f : FarmCtx)
  /-- FARM_ARBITRATION (R277): When a farm context frees, the queue agent takes the ready farm packet at the lowest effective priority level, oldest first. -/
  | farmArbitration (d : Die)
  /-- WALK_WAIT_END (R310): A walk held on a swap-pending or invalidation-pending entry proceeds and pins once the mark clears. -/
  | walkWaitEnd (n : StrandId)
  /-- PIN_WAIT_END (R90): An access that waited because pins had run out, or because the sub-tile's pin count stood at its maximum, pins and proceeds once pins are released. -/
  | pinWaitEnd (n : StrandId)
  /-- POSTED_SLOT_FREE (R33): A posting instruction held in WAIT at posted.COUNT = 256 posts its command once COUNT falls. -/
  | postedSlotFree (n : StrandId)
  /-- ENGINE_QUEUE_SLOT_FREE (R243): An engine command, or an alaunch, held in WAIT on a full engine queue is handed over once an entry frees. -/
  | engineQueueSlotFree (n : StrandId)
  /-- FARM_CONTEXT_WAIT_END (R268): A farm instruction waiting for a free context declares its farm and returns FCTX once a context frees. -/
  | farmContextWaitEnd (n : StrandId)
  /-- BWAIT_RELEASE (R259): A strand waiting in bwait is released when ARRIVED reaches EXPECT or FAIL is set; it acquires, returns its status, or traps 0x0F with gd = g0. -/
  | bwaitRelease (n : StrandId)
  /-- DOZE_WAKE (R189): A dozing strand wakes when its wake count is raised, consuming one raise and returning 1, or on a pre-emption request, returning 2. -/
  | dozeWake (n : StrandId)
  /-- DOZE_TIMEOUT (R189): A doze whose clock limit passes with no raise and no request returns 0. -/
  | dozeTimeout (n : StrandId)
  /-- STREAM_WAIT_END (R202): A stream-trimmed access waiting at m = 0 trims vl to the available bytes and proceeds once avail rises. -/
  | streamWaitEnd (n : StrandId)
  /-- LAUNCH_ACCEPTANCE (R121): The array sequencer takes the next queued launch, reads and validates its microprogram, and translates and pins every operand sub-tile, waiting on MOVING sub-tiles. -/
  | launchAcceptance (d : Die)
  /-- RUN_START (R125): A run of an accepted launch starts in its mitten when the mitten is free, no alock blocks its rows, and both the launch cap and BUDGET allow it. -/
  | runStart (d : Die) (l : Nat) (i : Nat)
  /-- STEP_OVERRUN (R133): When the nominal time of a step would pass 1,000 ns, the micro-op does not execute and the run takes run fault 0x04. -/
  | stepOverrun (d : Die) (m : Nat)
  /-- RUN_OVERRUN (R132): A run that executes more than 16,777,216 micro-ops takes run fault 0x05. -/
  | runOverrun (d : Die) (m : Nat)
  /-- LAUNCH_PERFORMED (R126): Once every run has ended or failed, every written row is sealed and cached copies are invalidated, the launch arrives at its barrier or sets its failure, and posted.COUNT falls. -/
  | launchPerformed (d : Die) (l : Nat)
  /-- REFRESH_SLOT (R134): A due refresh slot occupies its bank for 160 ns at the first moment every mitten of the bank is idle or at a step boundary. -/
  | refreshSlot (d : Die) (bank : Fin 64)
  /-- LOCK_TIMEOUT (R141): A row lock waited on for LKTMO breaks: a holding run fails with fault 0x09 at its next boundary, or an alock entry is freed. -/
  | lockTimeout (d : Die) (m : Nat) (row : Nat)
  /-- HORIZONTAL_ACCESS (R140): An access through L2 to a data row performs after waiting for step boundaries, refresh slots and locks, applying ECC and POISON rules. -/
  | horizontalAccess (n : StrandId)
  /-- ENGINE_FRAGMENT (R245): An engine checks one fragment at source and destination, then performs it, or fails it with a fault record and stops unless SKIP is set. -/
  | engineFragment (e : Engine) (c : Nat)
  /-- ENGINE_COMMAND_DONE (R246): A command that has passed or failed its last fragment writes its completion record, then arrives at BAR or sets FAIL there, adding its bytes to BYTES. -/
  | engineCommandDone (e : Engine) (c : Nat)
  /-- STREAM_INBOUND_FILL (R252): The copy engine writes inbound stream bytes into the ring as room is released and adds them to COUNT. -/
  | streamInboundFill (c : CoreId) (st : Fin 8) (bytes : Nat)
  /-- STREAM_OUTBOUND_DRAIN (R252): The copy engine drains published outbound ring bytes to the object and adds them back to COUNT. -/
  | streamOutboundDrain (c : CoreId) (st : Fin 8) (bytes : Nat)
  /-- COLLECTIVE_CHUNK (R265): The collective agent encodes, sends, decodes and reduces the contributions to one chunk and writes the result to DST. -/
  | collectiveChunk (d : Die) (c : Nat)
  /-- WIRE_BLOCK_RECEIVE (R372): A received wire block is decoded bit for bit and the channel's exponent table is updated in block order. -/
  | wireBlockReceive (d : Die) (c : CollName) (member : WirePart) (g : PortGroup) (chan : Nat) (bytes : List Byte)
  /-- POISON_NOTICE (R395): A poison notice received in place of a contribution excludes its member from that chunk only. -/
  | poisonNotice (d : Die) (c : CollName) (member : Nat) (chunk : Nat)
  /-- CHUNK_DEADLINE (R395): At the chunk deadline a member whose contribution is missing is excluded for the rest of the collective, with a damage record and XCNT + 1. -/
  | chunkDeadline (d : Die) (c : Nat)
  /-- COLLECTIVE_COMPLETE (R266): A finished collective writes its record header with STATUS and CAUSE, arrives at BAR, and frees the slot of a retiring roster. -/
  | collectiveComplete (d : Die) (c : Nat)
  /-- INSTALL (R314): The translation agent waits for pins, optionally zero-fills the location, and sets each ABSENT, ZERO or POISONED sub-tile to TSTATE at its location. -/
  | install (d : Die)
  /-- RELOC (R316): The translation agent moves each TIER1, TIER2 or HOST sub-tile to a new location, entering MOVING once no array pin is held. -/
  | reloc (d : Die)
  /-- EVICT (R314): The translation agent waits for pins and sets each sub-tile to ABSENT, or to ZERO with a reservation, abandoning its contents. -/
  | evict (d : Die)
  /-- MARKP (R314): The translation agent waits for pins and makes each sub-tile POISONED. -/
  | markp (d : Die)
  /-- COUNT (R314): The translation agent adds 1, holding at maximum, to the record's FBCNT or OOCNT. -/
  | count (d : Die)
  /-- FLUSH (R314): The translation agent waits until no pin is held for the asid and drops every cached record and entry of the asid. -/
  | flush (d : Die)
  /-- RELOC_COPY_DONE (R316): When a MOVING sub-tile's copy finishes, its entry becomes swap-pending and new walks wait. -/
  | relocCopyDone (d : Die) (r : Nat)
  /-- RELOC_SWAP (R316): When the other pin count of a swap-pending sub-tile reaches zero, LOC0 takes the destination, the state follows its region, and cached copies are dropped. -/
  | relocSwap (d : Die) (r : Nat)
  /-- RELOC_DEST_WRITE_FAIL (R316): A failed destination write during MOVING returns the sub-tile to its source state and fails the RELOC with cause 0x07. -/
  | relocDestWriteFail (d : Die) (r : Nat)
  /-- QUEUE_TAIL_SNOOP (R350): A host write of a queue's tail line reaches the queue agent as a snoop or back-invalidate and makes the packets below TAIL ready. -/
  | queueTailSnoop (d : Die) (q : QueueId)
  /-- PACKET_FARM (R276): A ready farm packet at the head of its queue is checked, waits for arbitration and a free context, declares its farm with the queue's asid and advances HEAD. -/
  | packetFarm (d : Die) (q : QueueId)
  /-- PACKET_ARRIVE (R276): A ready arrive-only packet at the head of its queue arrives at BAR as a release at SCOPE and advances HEAD. -/
  | packetArrive (d : Die) (q : QueueId)
  /-- WAITBAR_RELEASE (R276): A packet with WAITF waiting at the head proceeds when WAITBAR is released, or fails BAR with cause 0x0F if WAITBAR failed. -/
  | waitbarRelease (d : Die) (q : QueueId)
  /-- QUEUE_ENABLE (R348): QCTL operation 01 reads the queue's context and enables the queue, or sets ERR with cause 0x02 if the context is invalid. -/
  | queueEnable (d : Die) (q : QueueId)
  /-- QUEUE_DISABLE (R348): QCTL operation 10 stops taking packets from the queue after any packet already being taken. -/
  | queueDisable (d : Die) (q : QueueId)
  /-- QUEUE_CLEAR_ERROR (R348): QCTL operation 11 clears the queue's error and resumes it. -/
  | queueClearError (d : Die) (q : QueueId)
  /-- HOST_SNOOP (R345): The snoop agent answers a host snoop from the home L2 or an L1 snoop port, never waiting on translation, faults or migration. -/
  | hostSnoop (pa : Snoop)
  /-- HOST_HDM_ACCESS (R344): A host CXL.mem access acts as a horizontal access; an unmapped or refused address returns poison on a read or drops a write with a damage record. -/
  | hostHdmAccess (pa : BitVec 48) (w : Option (List Byte))
  /-- HOST_BAR0_ACCESS (R343): A host access to BAR0 reaches the control register space of the die it names; an access that is not an aligned 8-byte read or write completes with Completer Abort. -/
  | hostBar0Access (off : Nat) (len : Nat) (w : Option Word)
  /-- HOST_LINK_DOWN (R347): Loss of the host link invalidates cached host lines, fails host-memory checks and in-flight requests with cause 0x12, and stops every queue. -/
  | hostLinkDown
  /-- HOST_LINK_UP (R347): When the host link comes back, host memory becomes reachable again. -/
  | hostLinkUp
  /-- CLUSTER_POWER_GATE (R346): A core cluster whose strands are both IDLE writes back its host-coherent lines and is then power-gated. -/
  | clusterPowerGate (c : CoreId)
  /-- DOFF (R362): PCMD operation DOFF, accepted in TRAIN, MAP, OPEN or FAULT, puts the group in STOP and brings the refusals of R363 into force, or goes straight to UNMAP from TRAIN or MAP. -/
  | doff (g : PortGroup)
  /-- DON (R362): PCMD operation DON, accepted only in OFF, sets TGT, resets the exponent tables and starts training; any other PCMD write is refused with FCAUSE 4. -/
  | don (g : PortGroup) (w : Word)
  /-- LINKS_TRAINED (R362): When a group's links train, it sets UP and enters MAP. -/
  | linksTrained (g : PortGroup) (up : BitVec 4)
  /-- TRAIN_TIMEOUT (R362): A group with no link trained within 1 s enters FAULT with FCAUSE 1. -/
  | trainTimeout (g : PortGroup)
  /-- MAP_COMPLETE (R362): Installation of the window or port table opens the group with PERS := TGT; an empty window or a bad port table sends it to FAULT. -/
  | mapComplete (g : PortGroup)
  /-- LINK_LOST (R357): Loss of an expander link, or of every port, sends an OPEN group to FAULT with FCAUSE 2; window reads then return poison and writes are dropped. -/
  | linkLost (g : GroupLink)
  /-- UALINK_PORT_LOST (R358): A UALink port on which the link layer gives up is lost to the group. -/
  | ualinkPortLost (g : PortGroup) (p : Fin 4)
  /-- CONNECTION_ABANDONED (R372): An abandoned Ultra Ethernet connection fails every block from the first undelivered one, which is resent on a new connection with the table reset. -/
  | connectionAbandoned (g : PortGroup) (chan : Nat)
  /-- DRAIN_COMPLETE (R362): A group in DRAIN with no refused-kind request in flight moves to EVAC in memory personality, or to UNMAP otherwise. -/
  | drainComplete (g : PortGroup)
  /-- DRAIN_TIMEOUT (R364): When the drain timeout passes, items still in flight fail or are rerouted under R364, FCAUSE := 3, and the group leaves DRAIN. -/
  | drainTimeout (g : PortGroup)
  /-- EVAC_COMPLETE (R362): A group in EVAC with PCOUNT = 0 and INFL = 0 moves to UNMAP. -/
  | evacComplete (g : PortGroup)
  /-- UNMAP_COMPLETE (R362): Once the window or port table is removed and the links are down, the group enters OFF with PERS and UP cleared. -/
  | unmapComplete (g : PortGroup)
  /-- LAUNCH_MESSAGE (R374): A launch message from a rack scheduler is written into its target queue's ring if the queue can take it, and answered with a residency report. -/
  | launchMessage (g : Sender) (bytes : List Byte)
  /-- LPDDR_CHANNEL_FAILURE (R378): A failed LPDDR-6 channel returns poisoned lines on every read of its runs and drops every write with a damage record. -/
  | lpddrChannelFailure (c : Fin 64)
  /-- LPDDR_PATROL_SCRUB (R378): Patrol scrub reads each LPDDR-6 line about once a day and stores uncorrectable lines with poison. -/
  | lpddrPatrolScrub (pa : BitVec 48)
  /-- ROSTER_INSTALL (R393): A write to CRINST reads a roster body and installs it, or reports an invalid body, a digest clash, a retiring digest or a full table in CRSTAT. -/
  | rosterInstall (d : Die) (w : Word)
  /-- ROSTER_RETIRE (R393): A write to CRREM makes a digest unknown to later collectives; its slot frees when the last collective using it completes. -/
  | rosterRetire (d : Die) (w : Word)
  /-- MCTP_READ_REGISTER (R405): An out-of-band MCTP request reads one of the permitted telemetry, damage-map, roster, ECC or PSTATE registers, or is answered with an error. -/
  | mctpReadRegister (d : Die) (off : BitVec 20)
  /-- MCTP_WRITE_CAPW (R405): An out-of-band MCTP request writes the module power cap CAPW. -/
  | mctpWriteCapw (w : MctpWrite)
  /-- ATTESTATION_QUOTE (R408): An out-of-band MCTP request returns a quote of nonce, member identifier and measurements, signed with the identity key. -/
  | attestationQuote (nonce : List Byte)
  /-- ADD (R165): gd := ga + gb, wrapping. -/
  | add (d a b : GReg)
  /-- SUB (R165): gd := ga − gb, wrapping. -/
  | sub (d a b : GReg)
  /-- AND (R165): gd := ga AND gb. -/
  | and (d a b : GReg)
  /-- OR (R165): gd := ga OR gb. -/
  | or (d a b : GReg)
  /-- XOR (R165): gd := ga XOR gb. -/
  | xor (d a b : GReg)
  /-- ANDN (R165): gd := ga AND NOT gb. -/
  | andn (d a b : GReg)
  /-- SLL (R165): gd := ga shifted left by gb[5:0]. -/
  | sll (d a b : GReg)
  /-- SRL (R165): gd := ga shifted right logically by gb[5:0]. -/
  | srl (d a b : GReg)
  /-- SRA (R165): gd := ga shifted right arithmetically by gb[5:0]. -/
  | sra (d a b : GReg)
  /-- ROL (R165): gd := ga rotated left by gb[5:0]. -/
  | rol (d a b : GReg)
  /-- SLT (R165): gd := 1 if ga < gb signed, else 0. -/
  | slt (d a b : GReg)
  /-- SLTU (R165): gd := 1 if ga < gb unsigned, else 0. -/
  | sltu (d a b : GReg)
  /-- MIN (R165): gd := the smaller of ga and gb, signed. -/
  | min (d a b : GReg)
  /-- MAX (R165): gd := the larger of ga and gb, signed. -/
  | max (d a b : GReg)
  /-- MINU (R165): gd := the smaller of ga and gb, unsigned. -/
  | minu (d a b : GReg)
  /-- MAXU (R165): gd := the larger of ga and gb, unsigned. -/
  | maxu (d a b : GReg)
  /-- SEQ (R165): gd := 1 if ga = gb, else 0. -/
  | seq (d a b : GReg)
  /-- SNE (R165): gd := 1 if ga ≠ gb, else 0. -/
  | sne (d a b : GReg)
  /-- MUL (R166): gd := low 64 bits of ga × gb. -/
  | mul (d a b : GReg)
  /-- MULHS (R166): gd := high 64 bits of the signed product of ga and gb. -/
  | mulhs (d a b : GReg)
  /-- MULHU (R166): gd := high 64 bits of the unsigned product of ga and gb. -/
  | mulhu (d a b : GReg)
  /-- MULHM (R166): gd := high 64 bits of signed ga times unsigned gb. -/
  | mulhm (d a b : GReg)
  /-- QUOT (R166): gd := ga / gb signed, truncated toward zero and saturated, with no trap on division by zero. -/
  | quot (d a b : GReg)
  /-- QUOTU (R166): gd := ga / gb unsigned, truncated; division by zero gives all ones. -/
  | quotu (d a b : GReg)
  /-- MOD (R166): gd := signed remainder of ga by gb, taking the dividend's sign; division by zero gives ga. -/
  | mod (d a b : GReg)
  /-- MODU (R166): gd := unsigned remainder of ga by gb; division by zero gives ga. -/
  | modu (d a b : GReg)
  /-- CLZ (R167): gd := number of leading zero bits of ga. -/
  | clz (d a : GReg)
  /-- CTZ (R167): gd := number of trailing zero bits of ga. -/
  | ctz (d a : GReg)
  /-- POPC (R167): gd := number of one bits of ga. -/
  | popc (d a : GReg)
  /-- REV8 (R167): gd := ga with its bytes reversed. -/
  | rev8 (d a : GReg)
  /-- FSHR (R167): gd := low 64 bits of (ga:gb) shifted right by s. -/
  | fshr (d a b : GReg) (sh : BitVec 6)
  /-- ADDI (R168): gd := ga + the sign-extended immediate. -/
  | addi (d a : GReg) (imm : BitVec 15)
  /-- ANDI (R168): gd := ga AND the zero-extended immediate. -/
  | andi (d a : GReg) (imm : BitVec 15)
  /-- ORI (R168): gd := ga OR the zero-extended immediate. -/
  | ori (d a : GReg) (imm : BitVec 15)
  /-- XORI (R168): gd := ga XOR the zero-extended immediate. -/
  | xori (d a : GReg) (imm : BitVec 15)
  /-- SLTI (R168): gd := 1 if ga < the sign-extended immediate, signed. -/
  | slti (d a : GReg) (imm : BitVec 15)
  /-- SLTIU (R168): gd := 1 if ga < the sign-extended immediate, compared unsigned. -/
  | sltiu (d a : GReg) (imm : BitVec 15)
  /-- SLLI (R169): gd := ga shifted left by an immediate amount. -/
  | slli (d a : GReg) (sh : BitVec 6)
  /-- SRLI (R169): gd := ga shifted right logically by an immediate amount. -/
  | srli (d a : GReg) (sh : BitVec 6)
  /-- SRAI (R169): gd := ga shifted right arithmetically by an immediate amount. -/
  | srai (d a : GReg) (sh : BitVec 6)
  /-- ROLI (R169): gd := ga rotated left by an immediate amount. -/
  | roli (d a : GReg) (sh : BitVec 6)
  /-- BFX (R170): gd := the sign-extended bit field of ga at position pos and of width w. -/
  | bfx (d a : GReg) (width pos : BitVec 6)
  /-- BFXU (R170): gd := the zero-extended bit field of ga at position pos and of width w. -/
  | bfxu (d a : GReg) (width pos : BitVec 6)
  /-- LUI (R171): gd := sext(imm20 << 12). -/
  | lui (d : GReg) (imm : BitVec 20)
  /-- LMID (R171): gd[43:32] := imm20[11:0], other bits of gd unchanged. -/
  | lmid (d : GReg) (imm : BitVec 12)
  /-- LHI (R171): gd[63:44] := imm20, other bits of gd unchanged. -/
  | lhi (d : GReg) (imm : BitVec 20)
  /-- LDB (R174): Loads a byte at ga + imm and sign-extends it into gd. -/
  | ldb (d a : GReg) (imm : BitVec 15)
  /-- LDH (R174): Loads 2 bytes at ga + imm and sign-extends them into gd. -/
  | ldh (d a : GReg) (imm : BitVec 15)
  /-- LDW (R174): Loads 4 bytes at ga + imm and sign-extends them into gd. -/
  | ldw (d a : GReg) (imm : BitVec 15)
  /-- LDD (R174): Loads 8 bytes at ga + imm into gd. -/
  | ldd (d a : GReg) (imm : BitVec 15)
  /-- LDBU (R174): Loads a byte at ga + imm and zero-extends it into gd. -/
  | ldbu (d a : GReg) (imm : BitVec 15)
  /-- LDHU (R174): Loads 2 bytes at ga + imm and zero-extends them into gd. -/
  | ldhu (d a : GReg) (imm : BitVec 15)
  /-- LDWU (R174): Loads 4 bytes at ga + imm and zero-extends them into gd. -/
  | ldwu (d a : GReg) (imm : BitVec 15)
  /-- STB (R175): Stores the low byte of gb at ga + imm. -/
  | stb (a b : GReg) (imm : BitVec 15)
  /-- STH (R175): Stores the low 2 bytes of gb at ga + imm. -/
  | sth (a b : GReg) (imm : BitVec 15)
  /-- STW (R175): Stores the low 4 bytes of gb at ga + imm. -/
  | stw (a b : GReg) (imm : BitVec 15)
  /-- STD (R175): Stores the 8 bytes of gb at ga + imm. -/
  | std (a b : GReg) (imm : BitVec 15)
  /-- BEQ (R177): Branches by the word offset when ga = gb. -/
  | beq (a b : GReg) (imm : BitVec 15)
  /-- BNE (R177): Branches by the word offset when ga ≠ gb. -/
  | bne (a b : GReg) (imm : BitVec 15)
  /-- BLT (R177): Branches by the word offset when ga < gb, signed. -/
  | blt (a b : GReg) (imm : BitVec 15)
  /-- BGE (R177): Branches by the word offset when ga ≥ gb, signed. -/
  | bge (a b : GReg) (imm : BitVec 15)
  /-- JAL (R178): g1 := address + 4, then jumps by the signed word offset. -/
  | jal (imm : BitVec 25)
  /-- JALR (R178): Jumps to ga + imm, trapping if the target is misaligned, and links address + 4 in gd. -/
  | jalr (d a : GReg) (imm : BitVec 15)
  /-- CRR (R179): Reads control register cr into gd. -/
  | crr (d : GReg) (r : BitVec 12)
  /-- CRW (R179): Writes ga to control register cr under the mode's rights and returns the old value in gd. -/
  | crw (d a : GReg) (r : BitVec 12)
  /-- CRS (R179): Sets the bits of ga in control register cr and returns the old value in gd. -/
  | crs (d a : GReg) (r : BitVec 12)
  /-- CRC (R179): Clears the bits of ga in the RW fields of control register cr and returns the old value in gd. -/
  | crc (d a : GReg) (r : BitVec 12)
  /-- SVC (R185): Retires, then traps with cause 0x0C and tval := ga, forwarded under service mode from user mode. -/
  | svc (a : GReg)
  /-- SRET (R187): In supervisor mode, enters user mode with TM := 0 at address ga. -/
  | sret (a : GReg)
  /-- DOZE (R189): Consumes one raise of the wake count, or waits in WAIT until a raise, a pre-emption request or the clock limit in ga. -/
  | doze (d a : GReg)
  /-- WAKE (R188): Raises the wake counts of the strands of the core named by ga[1:0]. -/
  | wake (a : GReg)
  /-- BRK (R186): Traps with cause 0x0D without retiring. -/
  | brk
  /-- ATSWAP_W (R183): Atomically swaps the 32-bit word at ga with gb, returning the old value sign-extended. -/
  | atswapW (d a b : GReg) (s : Scope) (acq : Bool) (rel : Bool)
  /-- ATADD_W (R183): Atomically adds gb to the 32-bit word at ga, returning the old value. -/
  | ataddW (d a b : GReg) (s : Scope) (acq : Bool) (rel : Bool)
  /-- ATAND_W (R183): Atomically ANDs gb into the 32-bit word at ga, returning the old value. -/
  | atandW (d a b : GReg) (s : Scope) (acq : Bool) (rel : Bool)
  /-- ATOR_W (R183): Atomically ORs gb into the 32-bit word at ga, returning the old value. -/
  | atorW (d a b : GReg) (s : Scope) (acq : Bool) (rel : Bool)
  /-- ATXOR_W (R183): Atomically XORs gb into the 32-bit word at ga, returning the old value. -/
  | atxorW (d a b : GReg) (s : Scope) (acq : Bool) (rel : Bool)
  /-- ATMIN_W (R183): Atomically stores the signed minimum of the 32-bit word at ga and gb, returning the old value. -/
  | atminW (d a b : GReg) (s : Scope) (acq : Bool) (rel : Bool)
  /-- ATMAX_W (R183): Atomically stores the signed maximum of the 32-bit word at ga and gb, returning the old value. -/
  | atmaxW (d a b : GReg) (s : Scope) (acq : Bool) (rel : Bool)
  /-- ATMINU_W (R183): Atomically stores the unsigned minimum of the 32-bit word at ga and gb, returning the old value. -/
  | atminuW (d a b : GReg) (s : Scope) (acq : Bool) (rel : Bool)
  /-- ATMAXU_W (R183): Atomically stores the unsigned maximum of the 32-bit word at ga and gb, returning the old value. -/
  | atmaxuW (d a b : GReg) (s : Scope) (acq : Bool) (rel : Bool)
  /-- CAS_W (R183): Atomically writes gb to the 32-bit word at ga if it equals gd, returning the old value. -/
  | casW (d a b : GReg) (s : Scope) (acq : Bool) (rel : Bool)
  /-- ATSWAP_D (R183): Atomically swaps the 64-bit word at ga with gb, returning the old value. -/
  | atswapD (d a b : GReg) (s : Scope) (acq : Bool) (rel : Bool)
  /-- ATADD_D (R183): Atomically adds gb to the 64-bit word at ga, returning the old value. -/
  | ataddD (d a b : GReg) (s : Scope) (acq : Bool) (rel : Bool)
  /-- ATAND_D (R183): Atomically ANDs gb into the 64-bit word at ga, returning the old value. -/
  | atandD (d a b : GReg) (s : Scope) (acq : Bool) (rel : Bool)
  /-- ATOR_D (R183): Atomically ORs gb into the 64-bit word at ga, returning the old value. -/
  | atorD (d a b : GReg) (s : Scope) (acq : Bool) (rel : Bool)
  /-- ATXOR_D (R183): Atomically XORs gb into the 64-bit word at ga, returning the old value. -/
  | atxorD (d a b : GReg) (s : Scope) (acq : Bool) (rel : Bool)
  /-- ATMIN_D (R183): Atomically stores the signed minimum of the 64-bit word at ga and gb, returning the old value. -/
  | atminD (d a b : GReg) (s : Scope) (acq : Bool) (rel : Bool)
  /-- ATMAX_D (R183): Atomically stores the signed maximum of the 64-bit word at ga and gb, returning the old value. -/
  | atmaxD (d a b : GReg) (s : Scope) (acq : Bool) (rel : Bool)
  /-- ATMINU_D (R183): Atomically stores the unsigned minimum of the 64-bit word at ga and gb, returning the old value. -/
  | atminuD (d a b : GReg) (s : Scope) (acq : Bool) (rel : Bool)
  /-- ATMAXU_D (R183): Atomically stores the unsigned maximum of the 64-bit word at ga and gb, returning the old value. -/
  | atmaxuD (d a b : GReg) (s : Scope) (acq : Bool) (rel : Bool)
  /-- CAS_D (R183): Atomically writes gb to the 64-bit word at ga if it equals gd, returning the old value. -/
  | casD (d a b : GReg) (s : Scope) (acq : Bool) (rel : Bool)
  /-- LDA_B (R176): Acquire load of a byte at ga, zero-extended into gd. -/
  | ldaB (d a : GReg) (s : Scope)
  /-- LDA_H (R176): Acquire load of 2 bytes at ga, zero-extended into gd. -/
  | ldaH (d a : GReg) (s : Scope)
  /-- LDA_W (R176): Acquire load of 4 bytes at ga, zero-extended into gd. -/
  | ldaW (d a : GReg) (s : Scope)
  /-- LDA_D (R176): Acquire load of 8 bytes at ga into gd. -/
  | ldaD (d a : GReg) (s : Scope)
  /-- STL_B (R176): Release store of the low byte of gb at ga. -/
  | stlB (a b : GReg) (s : Scope)
  /-- STL_H (R176): Release store of the low 2 bytes of gb at ga. -/
  | stlH (a b : GReg) (s : Scope)
  /-- STL_W (R176): Release store of the low 4 bytes of gb at ga. -/
  | stlW (a b : GReg) (s : Scope)
  /-- STL_D (R176): Release store of the 8 bytes of gb at ga. -/
  | stlD (a b : GReg) (s : Scope)
  /-- FENCE (R102): Typed fence: earlier accesses of the predecessor classes perform, and their stores become visible at the scope, before later accesses of the successor classes. -/
  | fence (succ : BitVec 4) (s : Scope) (pred : BitVec 4)
  /-- VSETL (R26): Hands over lane groups, then grants a vector length from the request, VLMAX, lane share, power cap and farm strip, writing vl, gd, vbase, vsend and vgrant. -/
  | vsetl (d a : GReg)
  /-- VSETLF (R195): Writes gb to vtype after the pre-emption and format checks, then grants under R26. -/
  | vsetlf (d a b : GReg)
  /-- VSETLC (R194): Grants under R26 from an unsigned immediate request. -/
  | vsetlc (d : GReg) (imm : BitVec 15)
  /-- VLD (R198): Unit-stride vector load, optionally stream-trimmed. -/
  | vld (v : VReg) (a : GReg) (k : KReg) (dt : Bool) (w : Bool)
  /-- VLDS (R198): Strided vector load with byte stride gb. -/
  | vlds (v : VReg) (a b : GReg) (k : KReg) (dt : Bool)
  /-- VLDX (R198): Indexed vector gather with indices from vi. -/
  | vldx (v : VReg) (a : GReg) (x : VReg) (k : KReg) (dt : Bool)
  /-- VLDXO (R198): Indexed vector gather performed in ascending element order. -/
  | vldxo (v : VReg) (a : GReg) (x : VReg) (k : KReg) (dt : Bool)
  /-- VLDC (R197): Coordinate-window vector load of width W = gb. -/
  | vldc (v : VReg) (a b : GReg) (k : KReg) (dt : Bool)
  /-- VLDO (R198): Unit-stride vector load performed in ascending order, optionally stream-trimmed. -/
  | vldo (v : VReg) (a : GReg) (k : KReg) (dt : Bool) (w : Bool)
  /-- VST (R198): Unit-stride vector store, optionally stream-trimmed. -/
  | vst (v : VReg) (a : GReg) (k : KReg) (dt : Bool) (w : Bool)
  /-- VSTS (R198): Strided vector store with byte stride gb. -/
  | vsts (v : VReg) (a b : GReg) (k : KReg) (dt : Bool)
  /-- VSTX (R198): Indexed vector scatter with indices from vi. -/
  | vstx (v : VReg) (a : GReg) (x : VReg) (k : KReg) (dt : Bool)
  /-- VSTXO (R198): Indexed vector scatter performed in ascending element order. -/
  | vstxo (v : VReg) (a : GReg) (x : VReg) (k : KReg) (dt : Bool)
  /-- VSTC (R197): Coordinate-window vector store of width W = gb. -/
  | vstc (v : VReg) (a b : GReg) (k : KReg) (dt : Bool)
  /-- VSTO (R198): Unit-stride vector store performed in ascending order, optionally stream-trimmed. -/
  | vsto (v : VReg) (a : GReg) (k : KReg) (dt : Bool) (w : Bool)
  /-- VLDE (R205): Loads scale bytes into a scale register, unit stride. -/
  | vlde (e : EReg) (a : GReg)
  /-- VLDES (R205): Loads scale bytes into a scale register with stride gb. -/
  | vldes (e : EReg) (a b : GReg)
  /-- VSTE (R205): Stores scale bytes from a scale register, unit stride. -/
  | vste (e : EReg) (a : GReg)
  /-- VSTES (R205): Stores scale bytes from a scale register with stride gb. -/
  | vstes (e : EReg) (a b : GReg)
  /-- VATADD (R206): Vector atomic add at indexed addresses, returning the old values in vd. -/
  | vatadd (v : VReg) (a : GReg) (x : VReg) (k : KReg) (dt : Bool)
  /-- VATMIN (R206): Vector atomic minimum at indexed addresses, returning the old values. -/
  | vatmin (v : VReg) (a : GReg) (x : VReg) (k : KReg) (dt : Bool)
  /-- VATMAX (R206): Vector atomic maximum at indexed addresses, returning the old values. -/
  | vatmax (v : VReg) (a : GReg) (x : VReg) (k : KReg) (dt : Bool)
  /-- VATSWAP (R206): Vector atomic swap at indexed addresses, returning the old values. -/
  | vatswap (v : VReg) (a : GReg) (x : VReg) (k : KReg) (dt : Bool)
  /-- VATAND (R206): Vector atomic AND at indexed addresses, returning the old values. -/
  | vatand (v : VReg) (a : GReg) (x : VReg) (k : KReg) (dt : Bool)
  /-- VATOR (R206): Vector atomic OR at indexed addresses, returning the old values. -/
  | vator (v : VReg) (a : GReg) (x : VReg) (k : KReg) (dt : Bool)
  /-- VADD (R217): Elementwise integer add, wrapping or saturating under SAT. -/
  | vadd (v a : VReg) (b : VSrc) (k : KReg) (dt : Bool)
  /-- VFADD (R219): Elementwise floating-point add, rounded once. -/
  | vfadd (v a : VReg) (b : VSrc) (k : KReg) (dt : Bool)
  /-- VSUB (R217): Elementwise integer subtract. -/
  | vsub (v a : VReg) (b : VSrc) (k : KReg) (dt : Bool)
  /-- VFSUB (R219): Elementwise floating-point subtract. -/
  | vfsub (v a : VReg) (b : VSrc) (k : KReg) (dt : Bool)
  /-- VMUL (R217): Elementwise integer multiply. -/
  | vmul (v a : VReg) (b : VSrc) (k : KReg) (dt : Bool)
  /-- VFMUL (R219): Elementwise floating-point multiply. -/
  | vfmul (v a : VReg) (b : VSrc) (k : KReg) (dt : Bool)
  /-- VMULHS (R217): Elementwise high half of the signed product. -/
  | vmulhs (v a : VReg) (b : VSrc) (k : KReg) (dt : Bool)
  /-- VMULHU (R217): Elementwise high half of the unsigned product. -/
  | vmulhu (v a : VReg) (b : VSrc) (k : KReg) (dt : Bool)
  /-- VMULADD (R217): Elementwise integer vd + a × b. -/
  | vmuladd (v a : VReg) (b : VSrc) (k : KReg) (dt : Bool)
  /-- VFMULADD (R219): Elementwise fused d + a × b, rounded once. -/
  | vfmuladd (v a : VReg) (b : VSrc) (k : KReg) (dt : Bool)
  /-- VMULSUB (R217): Elementwise integer vd − a × b. -/
  | vmulsub (v a : VReg) (b : VSrc) (k : KReg) (dt : Bool)
  /-- VFMULSUB (R219): Elementwise fused d − a × b, rounded once. -/
  | vfmulsub (v a : VReg) (b : VSrc) (k : KReg) (dt : Bool)
  /-- VMIN (R217): Elementwise signed integer minimum. -/
  | vmin (v a : VReg) (b : VSrc) (k : KReg) (dt : Bool)
  /-- VFMIN (R219): Elementwise floating-point minimum under R70's order and NaN rule. -/
  | vfmin (v a : VReg) (b : VSrc) (k : KReg) (dt : Bool)
  /-- VMAX (R217): Elementwise signed integer maximum. -/
  | vmax (v a : VReg) (b : VSrc) (k : KReg) (dt : Bool)
  /-- VFMAX (R219): Elementwise floating-point maximum under R70's order and NaN rule. -/
  | vfmax (v a : VReg) (b : VSrc) (k : KReg) (dt : Bool)
  /-- VMINU (R217): Elementwise unsigned minimum. -/
  | vminu (v a : VReg) (b : VSrc) (k : KReg) (dt : Bool)
  /-- VMAXU (R217): Elementwise unsigned maximum. -/
  | vmaxu (v a : VReg) (b : VSrc) (k : KReg) (dt : Bool)
  /-- VAND (R218): Elementwise bitwise AND. -/
  | vand (v a : VReg) (b : VSrc) (k : KReg) (dt : Bool)
  /-- VOR (R218): Elementwise bitwise OR. -/
  | vor (v a : VReg) (b : VSrc) (k : KReg) (dt : Bool)
  /-- VXOR (R218): Elementwise bitwise XOR. -/
  | vxor (v a : VReg) (b : VSrc) (k : KReg) (dt : Bool)
  /-- VANDN (R218): Elementwise a AND NOT b. -/
  | vandn (v a : VReg) (b : VSrc) (k : KReg) (dt : Bool)
  /-- VSHL (R218): Elementwise left shift. -/
  | vshl (v a : VReg) (b : VSrc) (k : KReg) (dt : Bool)
  /-- VSHR (R218): Elementwise logical right shift. -/
  | vshr (v a : VReg) (b : VSrc) (k : KReg) (dt : Bool)
  /-- VSAR (R218): Elementwise arithmetic right shift. -/
  | vsar (v a : VReg) (b : VSrc) (k : KReg) (dt : Bool)
  /-- VROL (R218): Elementwise rotate left. -/
  | vrol (v a : VReg) (b : VSrc) (k : KReg) (dt : Bool)
  /-- VADDSAT (R217): Elementwise integer add, always clamped. -/
  | vaddsat (v a : VReg) (b : VSrc) (k : KReg) (dt : Bool)
  /-- VSUBSAT (R217): Elementwise integer subtract, always clamped. -/
  | vsubsat (v a : VReg) (b : VSrc) (k : KReg) (dt : Bool)
  /-- VQUOT (R217): Elementwise signed truncated quotient, with defined results on division by zero. -/
  | vquot (v a : VReg) (b : VSrc) (k : KReg) (dt : Bool)
  /-- VQUOTU (R217): Elementwise unsigned truncated quotient. -/
  | vquotu (v a : VReg) (b : VSrc) (k : KReg) (dt : Bool)
  /-- VMOD (R217): Elementwise signed remainder. -/
  | vmod (v a : VReg) (b : VSrc) (k : KReg) (dt : Bool)
  /-- VMODU (R217): Elementwise unsigned remainder. -/
  | vmodu (v a : VReg) (b : VSrc) (k : KReg) (dt : Bool)
  /-- VFDIV (R219): Elementwise floating-point divide. -/
  | vfdiv (v a : VReg) (b : VSrc) (k : KReg) (dt : Bool)
  /-- VFSQRT (R219): Elementwise floating-point square root. -/
  | vfsqrt (v a : VReg) (k : KReg) (dt : Bool)
  /-- VFREC (R221): Elementwise reciprocal estimate to 12 significant bits. -/
  | vfrec (v a : VReg) (k : KReg) (dt : Bool)
  /-- VFRSQ (R221): Elementwise reciprocal square root estimate. -/
  | vfrsq (v a : VReg) (k : KReg) (dt : Bool)
  /-- VFEXP (R221): Elementwise 2^a estimate. -/
  | vfexp (v a : VReg) (k : KReg) (dt : Bool)
  /-- VFLOG (R221): Elementwise log2 estimate. -/
  | vflog (v a : VReg) (k : KReg) (dt : Bool)
  /-- VCEQ (R222): Integer compare equal, writing mask kd. -/
  | vceq (kd : KReg) (a : VReg) (b : VSrc) (k : KReg) (dt : Bool)
  /-- VCNE (R222): Integer compare not equal, writing mask kd. -/
  | vcne (kd : KReg) (a : VReg) (b : VSrc) (k : KReg) (dt : Bool)
  /-- VCLT (R222): Integer compare less than, writing mask kd. -/
  | vclt (kd : KReg) (a : VReg) (b : VSrc) (k : KReg) (dt : Bool)
  /-- VCLE (R222): Integer compare less or equal, writing mask kd. -/
  | vcle (kd : KReg) (a : VReg) (b : VSrc) (k : KReg) (dt : Bool)
  /-- VCLTU (R222): Unsigned compare less than, writing mask kd. -/
  | vcltu (kd : KReg) (a : VReg) (b : VSrc) (k : KReg) (dt : Bool)
  /-- VCLEU (R222): Unsigned compare less or equal, writing mask kd. -/
  | vcleu (kd : KReg) (a : VReg) (b : VSrc) (k : KReg) (dt : Bool)
  /-- VFCEQ (R222): Float compare equal, writing mask kd. -/
  | vfceq (kd : KReg) (a : VReg) (b : VSrc) (k : KReg) (dt : Bool)
  /-- VFCNE (R222): Float compare not equal or unordered, writing mask kd. -/
  | vfcne (kd : KReg) (a : VReg) (b : VSrc) (k : KReg) (dt : Bool)
  /-- VFCLT (R222): Float compare less than, writing mask kd. -/
  | vfclt (kd : KReg) (a : VReg) (b : VSrc) (k : KReg) (dt : Bool)
  /-- VFCLE (R222): Float compare less or equal, writing mask kd. -/
  | vfcle (kd : KReg) (a : VReg) (b : VSrc) (k : KReg) (dt : Bool)
  /-- VSEL (R223): Selects per element between vs1 and the second operand under selector mask ks. -/
  | vsel (v a : VReg) (b : VSrc) (k : KReg) (dt : Bool)
  /-- VMOVE (R223): Copies vs1, a scalar or an immediate into the active elements of vd. -/
  | vmove (v : VReg) (b : VSrc) (k : KReg) (dt : Bool)
  /-- VCVT (R224): Converts each active element from AF to DF with rounding and saturation. -/
  | vcvt (v a : VReg) (k : KReg) (dt : Bool)
  /-- VFSETSIGN (R220): Sets each element's sign bit to that of the second operand. -/
  | vfsetsign (v a : VReg) (b : VSrc) (k : KReg) (dt : Bool)
  /-- VFNEGSIGN (R220): Sets each element's sign bit to the inverse of the second operand's. -/
  | vfnegsign (v a : VReg) (b : VSrc) (k : KReg) (dt : Bool)
  /-- VFXORSIGN (R220): XORs each element's sign bit with the second operand's. -/
  | vfxorsign (v a : VReg) (b : VSrc) (k : KReg) (dt : Bool)
  /-- VQUANT (R225): Converts elements to Q4 codes through an existing scale register. -/
  | vquant (v a : VReg) (e : EReg) (k : KReg) (dt : Bool)
  /-- VPACK (R226): Computes block scales into a scale register and converts the elements to Q4 of code type T. -/
  | vpack (v a : VReg) (ty : BitVec 2) (e : EReg) (k : KReg) (dt : Bool)
  /-- VDEQUANT (R225): Converts Q4 codes to DF through a scale register. -/
  | vdequant (v a : VReg) (e : EReg) (k : KReg) (dt : Bool)
  /-- VBDOT (R227): Block dot product of vs1 and vs2, accumulated into element 0 of vd. -/
  | vbdot (v a b : VReg) (k : KReg) (dt : Bool)
  /-- VFCUN (R222): Float compare unordered, writing mask kd. -/
  | vfcun (kd : KReg) (a : VReg) (b : VSrc) (k : KReg) (dt : Bool)
  /-- VLIFT (R208): Moves elements up by offset o. -/
  | vlift (v a : VReg) (b : VSrc) (k : KReg) (dt : Bool)
  /-- VDROP (R208): Moves elements down by offset o, filling with zero. -/
  | vdrop (v a : VReg) (b : VSrc) (k : KReg) (dt : Bool)
  /-- VPICK (R208): Permutes vs1 by index, giving 0 for indices at or above vl. -/
  | vpick (v a : VReg) (b : VSrc) (k : KReg) (dt : Bool)
  /-- VINDEX (R208): Writes each active element's index. -/
  | vindex (v : VReg) (k : KReg) (dt : Bool)
  /-- VSQUEEZE (R209): Packs the elements selected by ks to the low end of vd. -/
  | vsqueeze (v a : VReg) (k : KReg) (dt : Bool)
  /-- VSPREAD (R209): Spreads consecutive elements of vs1 to the positions selected by ks. -/
  | vspread (v a : VReg) (k : KReg) (dt : Bool)
  /-- VCONF (R210): Writes for each element the index of the latest earlier active element with the same value. -/
  | vconf (v a : VReg) (k : KReg) (dt : Bool)
  /-- VCONFM (R210): Writes a mask of the first active occurrence of each value. -/
  | vconfm (kd : KReg) (a : VReg) (k : KReg) (dt : Bool)
  /-- KAND (R211): Mask bitwise AND. -/
  | kand (kd ka kb : KReg)
  /-- KOR (R211): Mask bitwise OR. -/
  | kor (kd ka kb : KReg)
  /-- KXOR (R211): Mask bitwise XOR. -/
  | kxor (kd ka kb : KReg)
  /-- KANDN (R211): Mask bitwise a AND NOT b. -/
  | kandn (kd ka kb : KReg)
  /-- KPOP (R212): gd := number of set mask bits below vl. -/
  | kpop (d : GReg) (ks : KReg)
  /-- KFIRST (R212): gd := index of the first set mask bit below vl, or all ones. -/
  | kfirst (d : GReg) (ks : KReg)
  /-- VRSUM (R228): Integer sum reduction into element 0. -/
  | vrsum (v a : VReg) (k : KReg) (dt : Bool)
  /-- VRMIN (R228): Signed minimum reduction. -/
  | vrmin (v a : VReg) (k : KReg) (dt : Bool)
  /-- VRMAX (R228): Signed maximum reduction. -/
  | vrmax (v a : VReg) (k : KReg) (dt : Bool)
  /-- VRMINU (R228): Unsigned minimum reduction. -/
  | vrminu (v a : VReg) (k : KReg) (dt : Bool)
  /-- VRMAXU (R228): Unsigned maximum reduction. -/
  | vrmaxu (v a : VReg) (k : KReg) (dt : Bool)
  /-- VRAND (R228): Bitwise AND reduction. -/
  | vrand (v a : VReg) (k : KReg) (dt : Bool)
  /-- VROR (R228): Bitwise OR reduction. -/
  | vror (v a : VReg) (k : KReg) (dt : Bool)
  /-- VRXOR (R228): Bitwise XOR reduction. -/
  | vrxor (v a : VReg) (k : KReg) (dt : Bool)
  /-- VFRSUM (R69): Floating-point sum reduction by the fixed pairwise tree. -/
  | vfrsum (v a : VReg) (k : KReg) (dt : Bool)
  /-- VFROSUM (R70): Ordered floating-point sum reduction. -/
  | vfrosum (v a : VReg) (k : KReg) (dt : Bool)
  /-- VFRMIN (R228): Floating-point minimum reduction. -/
  | vfrmin (v a : VReg) (k : KReg) (dt : Bool)
  /-- VFRMAX (R228): Floating-point maximum reduction. -/
  | vfrmax (v a : VReg) (k : KReg) (dt : Bool)
  /-- TLD (R237): Loads a tile row-major from ga. -/
  | tld (t : TReg) (a : GReg)
  /-- TLDS (R237): Loads a tile with row stride gb. -/
  | tlds (t : TReg) (a b : GReg)
  /-- TLDC (R236): Loads a tile from a coordinate window of G rows per tile row. -/
  | tldc (t : TReg) (a b : GReg)
  /-- TST (R237): Stores a tile row-major at ga. -/
  | tst (t : TReg) (a : GReg)
  /-- TSTS (R237): Stores a tile with row stride gb. -/
  | tsts (t : TReg) (a b : GReg)
  /-- TSTC (R236): Stores a tile to a coordinate window. -/
  | tstc (t : TReg) (a b : GReg)
  /-- MMUL (R240): Matrix product of rows of vs1 by the tile into vd. -/
  | mmul (v a : VReg) (t : TReg)
  /-- MMAC (R240): Matrix product added to vd. -/
  | mmac (v a : VReg) (t : TReg)
  /-- MMULB (R240): Block-scaled matrix product with scale registers ea and eb. -/
  | mmulb (v a : VReg) (t : TReg) (ea eb : EReg)
  /-- MMACB (R240): Block-scaled matrix product added to vd. -/
  | mmacb (v a : VReg) (t : TReg) (ea eb : EReg)
  /-- TMV (R238): Moves a vector register's elements into a tile. -/
  | tmv (t : TReg) (a : VReg)
  /-- VMVT (R238): Moves a tile's elements into a vector register. -/
  | vmvt (v : VReg) (t : TReg)
  /-- OCOPY (R248): Reads its descriptor and hands the copy engine a copy of LEN bytes from SRC to DST. -/
  | ocopy (a : GReg) (s : Scope) (acq : Bool) (rel : Bool)
  /-- OGATHER (R248): Hands the copy engine a gather of rows selected by a U32 index list. -/
  | ogather (a : GReg) (s : Scope) (acq : Bool) (rel : Bool)
  /-- VSAVE (R249): Saves the selected vector, mask, tile and scale registers to an image. -/
  | vsave (a : GReg) (s : Scope) (acq : Bool) (rel : Bool)
  /-- VREST (R249): Restores the selected registers from an image with a matching lane-group count. -/
  | vrest (a : GReg) (s : Scope) (acq : Bool) (rel : Bool)
  /-- VXCORE (R250): Copies register bytes to a scratchpad of a core of the die. -/
  | vxcore (a : GReg) (s : Scope) (acq : Bool) (rel : Bool)
  /-- SOPEN (R252): Opens a copy stream between a scratchpad ring and an object range, returning its number or a failure code. -/
  | sopen (d a : GReg) (s : Scope) (acq : Bool) (rel : Bool)
  /-- SCLOSE (R254): Closes a stream, discarding undrained inbound bytes or waiting for outbound bytes to drain. -/
  | sclose (d a : GReg)
  /-- SADV (R253): Releases or publishes gb stream bytes and returns the new COUNT. -/
  | sadv (d a b : GReg)
  /-- SCLOSE_DRAINED (R254): An sclose waiting on an outbound stream completes once every published byte has drained. -/
  | scloseDrained (n : StrandId)
  /-- LTURN (R256): Layout-engine copy between layouts of one format. -/
  | lturn (a : GReg) (s : Scope) (acq : Bool) (rel : Bool)
  /-- LTILE (R256): Layout-engine copy of a W × H window. -/
  | ltile (a : GReg) (s : Scope) (acq : Bool) (rel : Bool)
  /-- LTRANS (R256): Layout-engine transpose of a window. -/
  | ltrans (a : GReg) (s : Scope) (acq : Bool) (rel : Bool)
  /-- LCONV (R256): Layout-engine format conversion with scales, optionally with fallback widening. -/
  | lconv (a : GReg) (s : Scope) (acq : Bool) (rel : Bool)
  /-- LCONVO (R73): Layout-engine conversion to Q4 with outlier splitting. -/
  | lconvo (a : GReg) (s : Scope) (acq : Bool) (rel : Bool)
  /-- LSCALE (R256): Layout engine writes scale bytes only. -/
  | lscale (a : GReg) (s : Scope) (acq : Bool) (rel : Bool)
  /-- LREPL (R256): Layout engine replicates a pattern into a run of destination sub-tiles. -/
  | lrepl (a : GReg) (s : Scope) (acq : Bool) (rel : Bool)
  /-- BINIT (R258): Atomically initialises a barrier word with EXPECT := gb, clearing ARRIVED, FAIL, CAUSE and BYTES. -/
  | binit (a b : GReg) (s : Scope) (rel : Bool)
  /-- BARRIVE (R258): Arrives at a barrier word as a release. -/
  | barrive (a : GReg) (s : Scope)
  /-- BWAIT (R259): Waits at a barrier word until released, then acquires and returns its status. -/
  | bwait (d a : GReg) (s : Scope)
  /-- BTEST (R259): Tests a barrier word once, without waiting, and returns its status. -/
  | btest (d a : GReg) (s : Scope) (acq : Bool)
  /-- BFAIL (R258): Sets a barrier word's failure with cause gb[7:0], as a release. -/
  | bfail (a b : GReg) (s : Scope)
  /-- ALAUNCH (R261): Reads a launch descriptor and the constant register and posts an array launch to the sequencer. -/
  | alaunch (a : GReg) (s : Scope) (acq : Bool) (rel : Bool)
  /-- ALOCK (R262): Locks the data rows of gb sub-tiles against array work once an entry is free and the rows are not held, and returns a handle. -/
  | alock (d a b : GReg)
  /-- AUNLOCK (R263): Frees an alock entry after the strand's accesses to its rows perform, trapping 0x10 on a broken lock. -/
  | aunlock (a : GReg)
  /-- AFENCE (R108): Waits for the strand's earlier array launches and horizontal accesses before later horizontal accesses. -/
  | afence
  /-- COLL (R264): Looks up the roster and hands the collective agent a collective operation. -/
  | coll (a : GReg) (s : Scope) (acq : Bool) (rel : Bool)
  /-- CPOLL (R267): Returns the progress of a collective this strand issued, or 2^32 when none is in flight. -/
  | cpoll (d a : GReg) (s : Scope) (acq : Bool)
  /-- FARM (R268): Reads a farm descriptor, pins its barrier, waits for a free context and declares the farm, returning FCTX. -/
  | farm (d a : GReg) (s : Scope) (rel : Bool)
  /-- OINV (R308): Invalidates cached copies of an object's record and residency entries after waiting for pins. -/
  | oinv (d a b : GReg)
  /-- CWB (R271): Writes dirty L1 copies of a range back to their home L2. -/
  | cwb (a b : GReg)
  /-- CINV (R271): Writes back and invalidates every cached copy of a range. -/
  | cinv (a b : GReg)
  /-- ICINV (R271): Invalidates L1 instruction lines of a range over the cores its scope names. -/
  | icinv (a b : GReg) (s : Scope)
  /-- FBAR (R271): Holds later fetches until fbar and earlier icinvs of the strand are done. -/
  | fbar
  /-- MSIDE (R272): Posts a memory-side fill, I64 add or FP32 add over a range. -/
  | mside (a : GReg) (s : Scope) (acq : Bool) (rel : Bool)
  /-- SPREFIX (R273): Checks a range as stores and posts writing its lines with zeros and clear poison. -/
  | sprefix (a b : GReg)
  /-- TRET (R330): Returns from a trap to tpc, restoring mode and TM from sstat. -/
  | tret
  /-- SPARK (R274): Parks the issuer, or a target strand that is IDLE or in SVCWAIT, to IDLE. -/
  | spark (d a : GReg)
  /-- SSTART (R274): Starts an IDLE non-farm target strand in supervisor mode at gb with TM = 1. -/
  | sstart (d a b : GReg)
  /-- PREQ (R274): Sets a target strand's pre-emption request and returns its previous value. -/
  | preq (d a : GReg)
  /-- RCOPY (R129): Row micro-op: row X := row Y. -/
  | rcopy (x : BitVec 10) (y : BitVec 10) (b : BitVec 3)
  /-- RNOT (R129): Row micro-op: nA := row Y and row X := NOT row Y. -/
  | rnot (x : BitVec 10) (y : BitVec 10) (b : BitVec 3) (n : Bool)
  /-- RMAJ (R129): Row micro-op: bitwise majority of a triple, written to the triple and to row X. -/
  | rmaj (x : BitVec 10) (b : BitVec 3) (tri : BitVec 4)
  /-- RSET (R129): Row micro-op: row X := all v. -/
  | rset (x : BitVec 10) (b : BitVec 3) (v : Bool)
  /-- RBCST (R129): Row micro-op: row X := all ones or all zeros by a bit of qA. -/
  | rbcst (x : BitVec 10) (y : BitVec 10) (b : BitVec 3) (q : BitVec 4)
  /-- RMWR (R129): Row micro-op: row X := row Y where mask row mA is 1. -/
  | rmwr (x : BitVec 10) (y : BitVec 10) (b : BitVec 3) (m : Bool)
  /-- RSHL (R130): Row micro-op: left shift of row Y into row X by 1, 16 or 1,024 columns within each subarray. -/
  | rshl (x : BitVec 10) (y : BitVec 10) (b : BitVec 3) (dist : BitVec 2)
  /-- RSHR (R130): Row micro-op: right shift of row Y into row X within each subarray. -/
  | rshr (x : BitVec 10) (y : BitVec 10) (b : BitVec 3) (dist : BitVec 2)
  /-- RPCA_ADD (R131): Row micro-op: adds the shifted popcount of X AND Y over each segment to its accumulator. -/
  | rpcaAdd (hi : Bool) (x : BitVec 10) (y : BitVec 10) (b : BitVec 3) (sh : BitVec 3)
  /-- RPCA_SUB (R131): Row micro-op: subtracts the shifted popcount of X AND Y over each segment from its accumulator. -/
  | rpcaSub (hi : Bool) (x : BitVec 10) (y : BitVec 10) (b : BitVec 3) (sh : BitVec 3)
  /-- RACLR (R129): Row micro-op: clears all 256 accumulators. -/
  | raclr
  /-- RACCW (R131): Row micro-op: writes the accumulators into columns 0–511 of row X, optionally clearing them. -/
  | raccw (x : BitVec 10) (b : BitVec 3) (clr : Bool)
  /-- RACCB (R131): Row micro-op: writes the accumulators as 1 KiB to the result region slot, optionally clearing them. -/
  | raccb (y : BitVec 10) (b : BitVec 3) (clr : Bool)
  /-- RLDL (R129): Row micro-op: loads loop counter lA with an immediate. -/
  | rldl (y : BitVec 10) (l : BitVec 2)
  /-- RLDL_Q (R129): Row micro-op: loads loop counter lA from constant qC. -/
  | rldlQ (q : BitVec 4) (l : BitVec 2)
  /-- RLOOP (R131): Row micro-op: decrements lA and branches while it is non-zero. -/
  | rloop (x : BitVec 10) (l : BitVec 2)
  /-- RBT_SET (R129): Row micro-op: branches if a bit of qA is 1. -/
  | rbtSet (x : BitVec 10) (bit : BitVec 5) (q : BitVec 4)
  /-- RBT_CLR (R129): Row micro-op: branches if a bit of qA is 0. -/
  | rbtClr (x : BitVec 10) (bit : BitVec 5) (q : BitVec 4)
  /-- RBSET (R129): Row micro-op: b[B] := operand A's row base + k. -/
  | rbset (k : BitVec 10) (b : BitVec 3) (op : BitVec 2)
  /-- RBSET_K (R129): Row micro-op: b[B] := k. -/
  | rbsetK (k : BitVec 10) (b : BitVec 3)
  /-- RBSTEP (R129): Row micro-op: b[B] := b[B] + k, wrapping at 16 bits. -/
  | rbstep (k : BitVec 10) (b : BitVec 3)
  /-- RSEAL (R137): Row micro-op: seals 1 to 16 rows by regenerating their ECC. -/
  | rseal (x : BitVec 10) (b : BitVec 3) (cnt : BitVec 4)
  /-- RCHECK (R136): Row micro-op: checks rows in ascending order, correcting errors and faulting at the first uncorrectable or poisoned row. -/
  | rcheck (x : BitVec 10) (b : BitVec 3) (cnt : BitVec 4)
  /-- RWAIT (R133): Row micro-op: a step boundary, at which compute and dual-contact rows become invalid. -/
  | rwait
  /-- REND (R137): Row micro-op: seals every unsealed row of the run in sealing steps, and the run ends. -/
  | rend
  /-- RRAISE (R129): Row micro-op: raises run fault 0x0A with software code k. -/
  | rraise (k : BitVec 8)
  /-- SPREFIX_PERFORMED (R273): A posted sprefix is performed once every line of its range has been written with zeros and clear poison at its home, and posted.COUNT falls by 1 and the wake count rises. -/
  | sprefixPerformed (d : Die) (c : Nat)
  /-- QUEUE_AGENT_PREEMPTION_REQUEST (R335): The queue agent's scheduling sets the pre-emption request of a strand. -/
  | queueAgentPreemptionRequest (n : StrandId)
  deriving DecidableEq, Repr

end Sys2Proof
end

