-- ==== Sys2Proof/Machine/State.lean ====
section
/-! DEFINITION. The machine's state as plain data, and its value right after reset. Every piece of state the spec names is
a field here; INVENTORY.md lists each with its rule and its reset value. Fields marked (model) are the model's own. -/

namespace Sys2Proof.Machine

/-- The state of a strand (R17). -/
inductive StrandState where
  | idle | run | wait | svcwait
  deriving DecidableEq, Repr

/-- A trap that has been decided and waits for the strand's vsave and vrest (R249, R328). -/
structure Trap where
  /-- Cause, a code of R325. -/
  cause : Nat
  tval : Word
  tpc : Word
  tinst : Code
  /-- A hard pre-emption (R338). -/
  hard : Bool
  /-- It is taken in the strand's own handler whatever service mode says: a service record reflected it (R334). -/
  own : Bool
  deriving DecidableEq, Repr

/-- A register an ECC error can strike (R384). -/
inductive RegName where
  | g (n : Nat) | cr (n : Nat) | k (n : Nat) | e (n : Nat)
  deriving DecidableEq, Repr

/-- A held pin: the physical address of the sub-tile's residency entry, and the asid it was taken for (R90, R309). -/
structure Pin where
  entry : Nat
  asid : Nat
  deriving DecidableEq, Repr

/-- A strand and the registers it does not share (R17, R22, R23). -/
structure Strand where
  st : StrandState
  pc : Word
  /-- g1-g31; g0 is never read from here (R22). -/
  g : Sparse Word
  /-- The strand's slice of v0-v63: byte b of vr at key 32768 r + b (R22, R280). -/
  v : Sparse Byte
  /-- Poison of element group j of vr at key 64 r + j (R13). -/
  vp : Sparse Bool
  /-- Bit i of kr at key 65536 r + i; k0 is never read from here (R22). -/
  k : Sparse Bool
  /-- Byte b of tr at key 16384 r + b (R22, R235). -/
  t : Sparse Byte
  /-- Poison of row j of tr at key 256 r + j (R235). -/
  tp : Sparse Bool
  /-- Scale byte i of er at key 4096 r + i (R22, R55). -/
  e : Sparse Byte
  vl : Word
  vtype : Word
  vstart : Word
  vbase : Word
  vspace : Word
  vgrant : Word
  vsend : Word
  vfarm : Word
  /-- posted.COUNT, 0 to 256 (R25, R33). -/
  posted : Nat
  /-- tcfg0-tcfg7 (R235). -/
  tcfg : Sparse Word
  sstat : Word
  tcause : Word
  tval : Word
  tpc : Word
  tinst : Word
  tvec : Word
  asid : Word
  ortb : Word
  instret : Word
  /-- The wake count, 0 to 255 (R188). -/
  wakes : Nat
  /-- The pre-emption request (R335). -/
  preq : Bool
  /-- When the request was set (R338). -/
  preqAt : Nat
  /-- The strand holds a strip (R413), and the farm context it was taken from. -/
  strip : Bool
  stripOf : Nat
  /-- The word of the instruction the strand executes, or waits in (model: the instruction register behind tinst, R325). -/
  iw : Code
  /-- The instruction in `iw` was issued and waits (R17, R310); its effect runs again at the next turn. -/
  held : Bool
  /-- When the waiting instruction was issued (R189). -/
  heldAt : Nat
  /-- The pins the waiting instruction holds (R90, R173, R198, R243, R268). -/
  pins : List Pin
  /-- The descriptor a waiting engine instruction has read and checked, none before (R243). -/
  issued : List Word
  /-- The waiting instruction is a farm that has made steps 1 to 3 of R243 and waits for a context (R268, R277). -/
  farmWait : Bool
  /-- The tier-1 rows, each by the physical address of its first byte, that the waiting access waits for (R134, R140). -/
  rowWait : List Nat
  /-- The element of its vector instruction whose request has failed in flight (R364). -/
  failAt : Option Nat
  /-- A decided trap that waits for vsave and vrest (R328). -/
  pend : Option Trap
  /-- The service record a strand in SVCWAIT waits for: the location of its first byte (R333). -/
  svcRec : Option Nat
  /-- Registers with an uncorrectable ECC error (R384); set by the environment. -/
  badRegs : List RegName
  /-- The candidates whose lane results come out wrong at the next rechecked instruction, at its first execution and at its
  re-execution, and the lane group that computes them (R15, R231, R232); set by the environment. -/
  upsets : List (List Nat)
  upsetGroup : Nat
  deriving DecidableEq, Repr

/-- A copy stream's setup and progress (R251-R254). -/
structure Stream where
  isOpen : Bool
  fail : Bool
  /-- DIR: outbound. -/
  outbound : Bool
  /-- COUNT (R251). -/
  count : Nat
  /-- The command that opened it, in the copy engine's queue. -/
  cmd : Nat
  /-- The strand that opened it. -/
  owner : Nat
  base : Nat
  len : Nat
  /-- Bytes of the whole stream, LEN. -/
  total : Nat
  /-- Inbound: bytes landed. Outbound: bytes drained. -/
  moved : Nat
  /-- Inbound: bytes released. Outbound: bytes published. -/
  passed : Nat
  /-- The pins its command took, held until sclose (R309). -/
  pins : List Pin
  deriving DecidableEq, Repr

/-- Who made a translation: the table base, address space and mode captured at issue (R298, R300), and what a fault record
says of the source (R320). -/
structure Agent where
  tb : Word
  asid : Nat
  user : Bool
  /-- The die whose windows 0xFF_FFE0 + c name (R80) and whose fault queue takes the records (R321). -/
  die : Nat
  /-- SOURCE of R320. -/
  source : Nat
  /-- UNIT of R320. -/
  unit : Nat
  /-- PC of R320. -/
  pc : Word
  deriving DecidableEq, Repr

/-- The commands that engines work in fragments (R248-R256, R272, R273). -/
inductive CmdKind where
  | ocopy | ogather | vsave | vrest | vxcore | stream
  | lturn | ltile | ltrans | lconv | lconvo | lscale | lrepl
  | fill | addI64 | addF32 | sprefix
  deriving DecidableEq, Repr

/-- An engine command in its queue (R243-R247). -/
structure Cmd where
  id : Nat
  kind : CmdKind
  /-- The issuing strand. -/
  sid : Nat
  agent : Agent
  scope : Scope
  acq : Bool
  rel : Bool
  /-- The descriptor's eight words (R244). -/
  desc : List Word
  /-- The descriptor's address. -/
  daddr : Word
  /-- Bytes or elements gone through so far, in the command's order. -/
  pos : Nat
  /-- Bytes or elements completed in order before the first failure (PROGRESS of a command that stops, R246). -/
  progress : Nat
  /-- Bytes written so far. -/
  wrote : Nat
  /-- The first failure's cause, 0 for none. -/
  cause : Nat
  faddr : Word
  /-- FLAGS of R246. -/
  flags : Nat
  /-- The last fragment has passed or failed. -/
  finished : Bool
  pins : List Pin
  /-- Register bytes read at issue (R249, R250). -/
  data : List Byte
  /-- Poison of those bytes, one flag for 64 (R249). -/
  dataPoison : List Bool
  /-- Commands that must end before this one reads (R247). -/
  after : List Nat
  /-- A block overflowed in lconv or lconvo with fallback, so the object is being widened (R75, R324). -/
  widening : Bool
  deriving DecidableEq, Repr

/-- Recheck, partition and other state that both strands of a core share (R20, R23, R25). -/
structure Core where
  lpreq : BitVec 8
  own0 : BitVec 8
  own1 : BitVec 8
  quar : BitVec 8
  vcap : BitVec 7
  /-- recheck.EN (R23). -/
  recheck : Bool
  streams : Sparse Stream
  /-- svcmode: SS in [1], EN in [0] (R25). -/
  svcmode : BitVec 2
  svcq : Word
  /-- Records forwarded since reset (R332). -/
  svcSeq : BitVec 32
  /-- cycle minus `State.now` (R181). -/
  cycleOff : Word
  /-- The stochastic rounding generator (R59). -/
  x : Word
  /-- The recheck generator (R231). -/
  y : BitVec 32
  copyQ : List Cmd
  copyNext : Nat
  /-- L1 instruction lines: 64 bytes for line number (address / 64), none for a line not held (R77, R270). -/
  icache : Sparse (List Byte)
  /-- Power-gated cluster (R111, R346). -/
  gated : Bool
  deriving DecidableEq, Repr

/-- A farm context in use (R29, R268). -/
structure Farm where
  total : Nat
  hint : Nat
  /-- N, the next untaken index. -/
  next : Nat
  /-- Returned strips, oldest first. -/
  returned : List (Nat × Nat)
  /-- Strips taken and neither retired nor returned (R32). -/
  out : Nat
  mask : BitVec 32
  /-- Cores a quarantine has cleared from the mask, whose strands take no new strips (R21). -/
  cleared : BitVec 32
  entry : Word
  arg : Word
  bar : Word
  scope : Scope
  agent : Agent
  /-- The pin on BAR (R268). -/
  pins : List Pin
  /-- The completion arrival has been made. -/
  arrived : Bool
  /-- The strand of the die, 2 x core + strand, from which the dispatcher goes on (R279). -/
  scan : Nat
  /-- Declaration order on the die (R29). -/
  order : Nat
  deriving DecidableEq, Repr

/-- An operand sub-tile of a run, as acceptance translated it (R121, R123). -/
structure RunOp where
  /-- Operand number 0 to 3. -/
  num : Nat
  /-- Access: 1 R, 2 W, 3 RW. -/
  access : Nat
  /-- Its residency entry, the object address of its first byte and its size. -/
  pin : Pin
  addr : Word
  size : Nat
  /-- Row base and row count in the mitten. -/
  row : Nat
  rows : Nat
  deriving DecidableEq, Repr

/-- One row of work in the sequencer's own steps (R135): the scrub and the shadow copy before the first micro-op, the
comparison and the sealing at rend. -/
inductive Chore where
  | scrub (row : Nat) | copy (row : Nat) | compare (row : Nat) | sealRow (row : Nat)
  deriving DecidableEq, Repr

/-- How far a run has come (R122, R125, R137, R142). -/
inductive RunStage where
  | waiting | running | ended | failed
  deriving DecidableEq, Repr

/-- The state of a run (R123). -/
structure Run where
  launch : Nat
  index : Nat
  mitten : Nat
  shadow : Option Nat
  ops : List RunOp
  stage : RunStage
  pc : Nat
  b : Sparse (BitVec 16)
  l : Sparse (BitVec 32)
  acc : Sparse (BitVec 32)
  /-- c0-c7, n0, n1 (keys 1008 to 1017) when valid, as numbers of 262,144 bits; m0, m1 (1020, 1021). -/
  rows : Sparse (Option Nat)
  /-- Nominal time of the step so far, in ns (R133). -/
  stepNs : Nat
  /-- Micro-ops executed (R132). -/
  count : Nat
  /-- Data rows written, and those of them that a micro-op wrote whole (R137, R139). -/
  written : List Nat
  whole : List Nat
  /-- Bytes its raccb micro-ops have written (R292). -/
  sent : Nat
  midStep : Bool
  /-- The run must take run fault 0x09 at its next boundary (R141). -/
  broken : Bool
  /-- The shadow mitten's accumulators, and its compute, dual-contact and mask rows (R138). -/
  twinAcc : Sparse (BitVec 32)
  twinRows : Sparse (Option Nat)
  /-- The sequencer's own steps still to be made for the run, row by row (R135). -/
  todo : List Chore
  /-- Its rend has executed (R137). -/
  ending : Bool
  /-- An upset makes the shadow differ from the run at the next comparison (R138); set by the environment. -/
  mismatch : Bool
  deriving DecidableEq, Repr

/-- An array launch (R120-R126). -/
structure Launch where
  id : Nat
  sid : Nat
  agent : Agent
  scope : Scope
  acq : Bool
  rel : Bool
  desc : List Word
  daddr : Word
  /-- q0-q15 (R124). -/
  q : List (BitVec 32)
  /-- Posted commands that must be performed before its first read (R105), as codes of `Cmd.after`. -/
  after : List Nat
  accepted : Bool
  mprog : List Code
  runs : List Run
  pins : List Pin
  /-- A run failed, or acceptance did. -/
  failed : Bool
  deriving DecidableEq, Repr

/-- An alock entry (R139, R262). -/
structure ALock where
  gen : BitVec 32
  /-- The holder, when the entry is in use. -/
  holder : Option Nat
  mitten : Nat
  /-- Its (mitten, row) pairs. -/
  rows : List (Nat × Nat)
  pins : List Pin
  deriving DecidableEq, Repr

/-- A translation agent command (R313-R315). -/
structure TCmd where
  addr : Nat
  /-- Its words, and the table base of its asid, once it has started. -/
  desc : List Word
  started : Bool
  /-- Sub-tiles finished, and the bytes of those a RELOC has moved (R380). -/
  done : Nat
  bytes : Nat
  tb : Word
  /-- FADDR of a request that failed in flight while a sub-tile was MOVING: the command fails behind its swap (R364, R365). -/
  late : Option Word
  deriving DecidableEq, Repr

/-- A relocation under way (R316). -/
structure Reloc where
  id : Nat
  /-- The residency entry, and the record's address. -/
  entry : Nat
  record : Nat
  /-- The sub-tile's number. -/
  sub : Nat
  src : Nat
  dst : Nat
  size : Nat
  swapPending : Bool
  /-- A write has not reached the destination. -/
  destFailed : Bool
  deriving DecidableEq, Repr

/-- A host work queue that has been enabled (R348-R350). -/
structure Queue where
  enabled : Bool
  prio : Nat
  asid : Nat
  ring : Nat
  log2n : Nat
  taila : Nat
  heada : Nat
  tail : Word
  head : Word
  readyAt : Nat
  err : Bool
  errc : Nat
  /-- WAITBAR of the head packet has been read as released. -/
  waited : Bool
  /-- Arbitration has chosen the head farm packet (R277). -/
  chosen : Bool
  deriving DecidableEq, Repr

/-- A port table entry (R361). -/
structure Peer where
  addr : Word
  ports : BitVec 4
  member : Nat
  deriving DecidableEq, Repr

/-- A wire block or poison notice as the fabric names it (R368, R394, R395). -/
structure WireId where
  digest : Nat
  nth : Nat
  member : Nat
  chunk : Nat
  index : Nat
  wf : Nat
  deriving DecidableEq, Repr

/-- A wire block as it came, which waits for the table its code needs (R370): its sequence number, the die it is for, the block
and its bytes. -/
structure Waiting where
  seq : Nat
  die : Nat
  w : WireId
  raw : List Byte
  deriving DecidableEq, Repr

/-- One direction of a channel (R368-R370): the exponent counts, its blocks so far in order, and the updates LAG still holds
back, none for a block that is not coded; then the updates of blocks received ahead of their turn, and the blocks that wait. -/
structure Chan where
  counts : Sparse Nat
  blocks : Nat
  held : List (Option (Sparse Nat))
  ahead : List (Nat × Option (Sparse Nat))
  wait : List Waiting
  deriving DecidableEq, Repr

/-- A wire block given to a channel and not yet delivered as far as the sender knows (R364, R370, R372). -/
structure Block where
  chan : Nat
  /-- Its sequence number, once it has been sent. -/
  seq : Option Nat
  acked : Bool
  /-- The index and the member identifier it goes to. -/
  dest : Nat
  peer : Nat
  w : WireId
  body : List Byte
  deriving DecidableEq, Repr

/-- Who issued a request to a window (R364): a strand, for the element of its vector instruction where it is one, an engine
command, an array launch, a collective, a host queue or the translation agent of a die. -/
inductive Issuer where
  | strand (n : Nat) (elem : Option Nat) | command (e : Engine) (id : Nat) | launch (d id : Nat) | coll (d id : Nat)
  | queue (d q : Nat) | agent (d : Nat)
  deriving DecidableEq, Repr

/-- A request of a kind R363 refuses, in flight when its refusal came into force: its issuer, its address and whether it
writes. -/
structure LateReq where
  issuer : Issuer
  addr : Word
  writes : Bool
  deriving DecidableEq, Repr

/-- The states of a port group (R362). -/
inductive PortState where
  | off | train | map | isOpen | stop | evac | drain | unmap | fault
  deriving DecidableEq, Repr

/-- A port group and its personality controller (R353-R366). -/
structure Port where
  fcause : Nat
  state : PortState
  pers : Nat
  tgt : Nat
  up : BitVec 4
  pcfg : BitVec 5
  /-- PCFG as read at DON. -/
  cfgNow : BitVec 5
  /-- Bytes of the installed window, 0 when there is none (PWIN.CAP, R356). -/
  win : Nat
  /-- Bytes of the window whose requests R363 refuses, 0 when none are. -/
  refused : Nat
  pcount : Nat
  pdrain : Nat
  failed : Nat
  /-- Accesses through residency entries in flight, and requests of refused kinds in flight (R364); set by the environment,
  since an access of this model is one step. -/
  infl : Nat
  lateReqs : List LateReq
  /-- Launch messages received that wait for rows (R364). -/
  msgs : Nat
  ptab : Word
  ptcnt : Nat
  tabNow : Word
  cntNow : Nat
  peers : List Peer
  /-- Capacities of the expanders on its links, in bytes; set by the environment. -/
  expanders : List Nat
  drainSince : Nat
  trainSince : Nat
  /-- An expander link has been lost since OPEN (R357). -/
  linkLost : Bool
  send : Sparse Chan
  recv : Sparse Chan
  /-- How often the connection of a channel has been set up anew since DON (R364, R368). -/
  setups : Sparse Nat
  /-- Blocks not yet sent, or sent and not yet delivered as far as the sender knows, in the order they were given. -/
  flight : List Block
  /-- What the expanders hold while no window is installed: byte o of expander i at key 2^48 i + o, and the poison of its lines
  at key (2^48 i + o) / 64 (R356, R366). -/
  store : Sparse Byte
  storePoison : Sparse Bool
  deriving DecidableEq, Repr

/-- A roster slot (R392, R393). -/
structure Roster where
  digest : Nat
  members : List Nat
  retiring : Bool
  /-- Collectives in flight on it. -/
  issued : Nat
  /-- Collectives issued on it since its installation (R394). -/
  total : Nat
  deriving DecidableEq, Repr

/-- A contribution to one chunk as far as it has arrived: the member's index, the bytes of its blocks in the wire format, by
block number, or a poison notice (R368, R395). -/
structure Contribution where
  member : Nat
  chunk : Nat
  parts : Sparse (List Byte)
  poison : Bool
  deriving DecidableEq, Repr

/-- A block's body, or a poison notice, that came before this device issued its collective (R394, R395). -/
structure Early where
  w : WireId
  body : List Byte
  poison : Bool
  deriving DecidableEq, Repr

/-- A collective in flight (R264-R267, R394-R396). -/
structure Coll where
  id : Nat
  sid : Nat
  agent : Agent
  scope : Scope
  acq : Bool
  rel : Bool
  desc : List Word
  daddr : Word
  pc : Word
  digest : Nat
  members : List Nat
  self : Nat
  /-- Its place in the issue order on its roster (R394). -/
  nth : Nat
  /-- Commands that must end before it reads, as codes of `Cmd.after`. -/
  after : List Nat
  /-- Chunks completed, and when the last was, or the issue. -/
  chunk : Nat
  since : Nat
  /-- The chunk's own contribution has gone out. -/
  sent : Bool
  /-- Members lost for the rest of the collective. -/
  lost : List Nat
  /-- Contributions that have arrived. -/
  got : List Contribution
  /-- (chunk, member) pairs excluded. -/
  excluded : List (Nat × Nat)
  wrote : Nat
  cause : Nat
  pins : List Pin
  deriving DecidableEq, Repr

/-- A base die and its stack. -/
structure DieState where
  farms : Sparse (Option Farm)
  farmOrder : Nat
  -- array sequencer (R143)
  launches : List Launch
  launchNext : Nat
  abudget : BitVec 10
  lktmo : BitVec 20
  duppool : Word
  dupall : Bool
  uecnt : Nat
  cecnt : Nat
  /-- Row-state POISON at key 2560 row + mitten, and SEALED inverted (R139). -/
  rowPoison : Sparse Bool
  rowUnsealed : Sparse Bool
  /-- Alock entries 0-255 (R139). -/
  alocks : Sparse ALock
  /-- When the first access began to wait on a locked row, at the row's key (R141). -/
  lockWait : Sparse (Option Nat)
  /-- Environment: banks with a refresh slot due, and the time a slot in progress ends (R134). -/
  refreshDue : List Nat
  slotEnd : Sparse Nat
  /-- Environment: ECC errors of 128-bit row groups, by offset / 16: 1 correctable, 2 uncorrectable (R136, R140). -/
  rowErrs : Sparse Nat
  /-- Banks whose clear of DUPPOOL waits for a shadow run to end (R143). -/
  dupHold : List Nat
  /-- Tier-1 sub-tiles in each bank, as translation agents placed them (R318). -/
  bankCount : Sparse Nat
  -- translation agent (R312, R376)
  astab : Word
  fqbase : Word
  fqhead : BitVec 13
  fqtail : BitVec 13
  fqovf : Bool
  fqlost : BitVec 32
  fqseq : BitVec 64
  tcmds : List TCmd
  norep : Bool
  free1 : BitVec 32
  relocs : List Reloc
  relocNext : Nat
  -- queue agent (R278, R348)
  qage : BitVec 20
  qcbase : Word
  queues : Sparse (Option Queue)
  msix : Nat
  -- pre-emption (R337)
  ptmo : BitVec 20
  psave : Sparse Word
  -- damage map (R386)
  dmbase : Word
  dmhead : BitVec 17
  dmtail : BitVec 17
  dmovf : Bool
  dmlost : BitVec 32
  dmseq : BitVec 64
  -- power and telemetry (R402, R404)
  pcap : BitVec 12
  pmeas : Word
  tmax : BitVec 8
  memerrU : BitVec 32
  memerrC : BitVec 32
  quars : BitVec 32
  mism : BitVec 32
  xcnt : BitVec 32
  -- collective agent (R392)
  rosters : Sparse (Option Roster)
  crslot : BitVec 8
  crstatus : BitVec 8
  cdead : BitVec 24
  colls : List Coll
  collNext : Nat
  early : List Early
  -- layout engine and memory-side operations
  layoutQ : List Cmd
  sideQ : List Cmd
  cmdNext : Nat
  port : Port
  deriving DecidableEq, Repr

/-- A mark a pending oinv or swap puts on a record or residency entry (R308, R310). -/
structure Mark where
  addr : Nat
  /-- The strand of the oinv, or none for a widening. -/
  owner : Option Nat
  deriving DecidableEq, Repr

/-- Who reaches memory how: a strand through its L1, an engine through the home L2, the sequencer through the rows (R77, R78),
and an agent of the module that keeps the translation caches in step (R306) through the home L2; or any of them without a cached
copy, where the object's lines are not cached (R344). -/
inductive Via where
  | l1 | l2 | row | agent | direct
  deriving DecidableEq, Repr

/-- A byte stored within the step in progress (model: the stores of a step enter memory together at its end). -/
structure Store where
  addr : Nat
  byte : Byte
  via : Via
  deriving DecidableEq, Repr

/-- One part of a boot image (R406). -/
structure Part where
  version : Nat
  bytes : List Byte
  deriving DecidableEq, Repr

/-- A boot image slot of the module flash (R406); its layout is not in the spec (log 6). -/
structure Image where
  pubKey : List Byte
  version : Nat
  parts : List Part
  /-- Where the ROM loads its bytes: (physical address, byte). -/
  load : List Host.Cell
  entry : Word
  /-- Every byte before the signature. -/
  signed : List Byte
  sig : List Byte
  deriving DecidableEq, Repr

/-- Boot progress (R18, R406). -/
inductive Boot where
  | reset | verified (entry : Word) | started | failed
  deriving DecidableEq, Repr

/-- An error that the protection of a die's own memories meets (R404 and the table of protections before R383), as the
environment brings it: one that is corrected, or an uncorrectable one of a vector element group, a tile row, a line of a core's
scratchpad, or a line of an L1 or L2, dirty or not. -/
inductive Flaw where
  | fixed (d : Nat) | group (sid r j : Nat) | tileRow (sid r j : Nat) | pad (c line : Nat) | line (d a : Nat) (dirty : Bool)
  deriving DecidableEq, Repr

/-- One entry of the agenda (model): the agent that moves next (log 1). -/
inductive Turn where
  /-- Strand `sid` = 2 x (32 x die + core) + strand. -/
  | strand (sid : Nat)
  /-- The run in a mitten of a stack, 2560 x stack + mitten. -/
  | run (m : Nat)
  /-- A row of the opcode table that has no word. -/
  | event (i : Instr)
  /-- The transport's acknowledgement of a block of a channel, by its sequence number (R364, R370). -/
  | ack (g chan n : Nat)
  /-- An error of a memory of a die (R404). -/
  | flaw (f : Flaw)
  /-- A translation cache reads the `n` bytes of a record or a residency entry at an address (R140, R306). -/
  | refill (a n : Nat)
  /-- A launch message, fully received, that waits for rows: it stands in `State.waiting` alone (R364). -/
  | message (x : Sender) (bytes : List Byte)
  deriving DecidableEq, Repr

/-- What the module has sent out (model output): host answers, messages and wire blocks, newest first. -/
inductive Output where
  | snoop (pa : Nat) (data : List Byte) (poison : Bool)
  | hdm (pa : Nat) (data : List Byte) (poison : Bool)
  | bar0 (off : Nat) (v : Word)
  | abort (off : Nat)
  | mctp (ok : Bool) (data : List Byte)
  | block (group chan : Nat) (w : WireId) (dest : Nat) (data : List Byte)
  | notice (w : WireId) (dest : Nat)
  | bootFailed
  | report (group chan : Nat) (data : List Byte)
  | msix (die : Nat)
  deriving DecidableEq, Repr

/-- The machine. -/
structure State where
  /-- (model) the strand whose turn it is, and the agents that move next. -/
  cur : Nat
  /-- (model) the run whose micro-op executes, 2560 x stack + mitten. -/
  curRun : Nat
  agenda : List Turn
  /-- (model) turns of agents whose access waits for rows, with each row's first byte: one moves on once its rows let it, before
  the agenda goes on (R107, R134, R140). -/
  waiting : List (Turn × List Nat)
  /-- (model) counts the free values a step has used. -/
  ticks : Nat
  /-- Core clocks since reset (R5, R23). -/
  now : Nat
  /-- Bytes: physical address below 2^48 (R296); scratchpad byte o of core c at 2^48 + 2^21 c + o (R79). -/
  mem : Sparse Byte
  /-- (model) stores of the step in progress, newest first. -/
  log : List Store
  /-- (model) rows that an agent's access of the step in progress waits for, each by its first byte (R134). -/
  noted : List Nat
  /-- (model) the step in progress cannot wait there: it leaves nothing, and is taken again whole (log 46). -/
  undo : Bool
  /-- (model) whose turn the step in progress is, where requests of it are in flight to a window that refuses new ones (R364). -/
  issuer : Option Issuer
  /-- The home L2's byte where the dirty L1 copy of a core differs from it, with the core (R77, R270). -/
  l2 : Sparse (Option (Byte × Nat))
  /-- The array row's byte, or host memory's, where a cached copy differs from it (R106, R347). -/
  arr : Sparse (Option Byte)
  /-- The bytes a translation cache may still hold of a record or residency entry that software changed, oldest first, each
  with the address spaces that have dropped it (R306, R307, R314). -/
  recOld : Sparse (List (Byte × List Nat))
  /-- The (stack, bank) pairs counted for the residency entry at an address (R318), and the groups whose PCOUNT counts it
  (R365). -/
  placed : Sparse (List (Nat × Nat))
  windows : Sparse (List Nat)
  /-- Poison of line number (address / 64) (R96). -/
  poison : Sparse Bool
  strands : Sparse Strand
  cores : Sparse Core
  dies : Sparse DieState
  marks : List Mark
  hostUp : Bool
  badChannels : List Nat
  /-- LPDDR-6 lines (address / 64) with an uncorrectable error the patrol has not met (R378), and window lines an expander
  returns with CXL poison (R357); set by the environment. -/
  badLines : List Nat
  /-- Lines of the module's memory (address / 64) the host holds a copy of (R317, R344); set by the environment. -/
  hostCopies : List Nat
  boot : Boot
  slotA : Option Image
  slotB : Option Image
  configs : List (List Byte)
  cert : List Byte
  measures : List (List Byte)
  member : BitVec 32
  out : List Output
  deriving DecidableEq, Repr

/-- No effect of this spec stops the machine: every trap, run fault and command failure is a next state. The one fault is
raised by the step function alone. -/
inductive Fault where
  /-- Raised by a turn of the agenda that names no strand, run or event of the module (an agenda no schedule of the module
  gives). Safe: the model stops where the hardware does nothing of the kind. -/
  | noSuchTurn
  deriving DecidableEq, Repr

/-- Reasons to refuse an instruction. -/
inductive Refusal where
  /-- Raised by exec's arm of an instruction that has no meaning yet. Safe: nothing is claimed of it. -/
  | notModelled (mnemonic : String)
  deriving DecidableEq, Repr

/-! ## Reset values -/

/-- A strand after module reset (R18, R22, R23, R327); pc is open in IDLE (log 7). -/
def Strand.reset : Strand where
  st := .idle
  pc := 0
  g := []
  v := []
  vp := []
  k := []
  t := []
  tp := []
  e := []
  vl := 0
  vtype := 0
  vstart := 0
  vbase := 0
  vspace := 0
  vgrant := 0
  vsend := 0
  vfarm := 0
  posted := 0
  tcfg := []
  sstat := 7
  tcause := 0
  tval := 0
  tpc := 0
  tinst := 0
  tvec := 0
  asid := 0
  ortb := 0
  instret := 0
  wakes := 0
  preq := false
  preqAt := 0
  strip := false
  stripOf := 0
  iw := 0
  held := false
  heldAt := 0
  pins := []
  issued := []
  farmWait := false
  rowWait := []
  failAt := none
  pend := none
  svcRec := none
  badRegs := []
  upsets := []
  upsetGroup := 0

/-- A closed stream (R251). -/
def Stream.closed : Stream where
  isOpen := false
  fail := false
  outbound := false
  count := 0
  cmd := 0
  owner := 0
  base := 0
  len := 0
  total := 0
  moved := 0
  passed := 0
  pins := []

/-- A core after module reset (R20, R23, R59, R231). -/
def Core.reset : Core where
  lpreq := 0xF0
  own0 := 0
  own1 := 0
  quar := 0
  vcap := 64
  recheck := true
  streams := []
  svcmode := 0
  svcq := 0
  svcSeq := 0
  cycleOff := 0
  x := 0x9E3779B97F4A7C15
  y := 1
  copyQ := []
  copyNext := 0
  icache := []
  gated := false

/-- A port group after module reset (R354, R360). -/
def Port.reset : Port where
  fcause := 0
  state := .off
  pers := 0
  tgt := 0
  up := 0
  pcfg := 0x1A
  cfgNow := 0x1A
  win := 0
  refused := 0
  pcount := 0
  pdrain := 100
  failed := 0
  infl := 0
  lateReqs := []
  msgs := 0
  ptab := 0
  ptcnt := 0
  tabNow := 0
  cntNow := 0
  peers := []
  expanders := []
  drainSince := 0
  trainSince := 0
  linkLost := false
  send := []
  recv := []
  setups := []
  flight := []
  store := []
  storePoison := []

/-- A free alock entry (R139). -/
def ALock.free : ALock where
  gen := 0
  holder := none
  mitten := 0
  rows := []
  pins := []

/-- A die after module reset (R143, R278, R312, R337, R386, R392, R402, R404). -/
def DieState.reset : DieState where
  farms := []
  farmOrder := 0
  launches := []
  launchNext := 0
  abudget := 560
  lktmo := 10000
  duppool := 0
  dupall := false
  uecnt := 0
  cecnt := 0
  rowPoison := []
  rowUnsealed := []
  alocks := []
  lockWait := []
  refreshDue := []
  slotEnd := []
  rowErrs := []
  dupHold := []
  bankCount := []
  astab := 0
  fqbase := 0
  fqhead := 0
  fqtail := 0
  fqovf := false
  fqlost := 0
  fqseq := 0
  tcmds := []
  norep := false
  free1 := 0
  relocs := []
  relocNext := 0
  qage := 64
  qcbase := 0
  queues := []
  msix := 0
  ptmo := 50
  psave := []
  dmbase := 0
  dmhead := 0
  dmtail := 0
  dmovf := false
  dmlost := 0
  dmseq := 0
  pcap := 3000
  pmeas := 0
  tmax := 0
  memerrU := 0
  memerrC := 0
  quars := 0
  mism := 0
  xcnt := 0
  rosters := []
  crslot := 0
  crstatus := 0
  cdead := 10000
  colls := []
  collNext := 0
  early := []
  layoutQ := []
  sideQ := []
  cmdNext := 0
  port := Port.reset

/-- What a byte of memory that nothing has written reads as: a scratchpad holds zero (R79); elsewhere the spec gives no
contents, and the model reads zero (DESIGN CHOICE, unsafe, log 3). -/
def memDefault : Byte := 0

/-- The canonical form of memory: addresses strictly rising, no byte that reads as an unlisted one does. -/
abbrev Memory.wf (m : List Host.Cell) : Bool := Sparse.wf memDefault m

/-- The machine right after reset: every strand IDLE (R18), every register at its reset value, no image verified yet. -/
def State.reset : State where
  cur := 0
  curRun := 0
  agenda := []
  waiting := []
  ticks := 0
  now := 0
  mem := []
  log := []
  noted := []
  undo := false
  issuer := none
  l2 := []
  arr := []
  recOld := []
  placed := []
  windows := []
  poison := []
  strands := []
  cores := []
  dies := []
  marks := []
  hostUp := true
  badChannels := []
  badLines := []
  hostCopies := []
  boot := .reset
  slotA := none
  slotB := none
  configs := []
  cert := []
  measures := []
  member := 0
  out := []

end Sys2Proof.Machine
end

