-- ==== Sys2Proof/Machine/Bits.lean ====
section
/-! DEFINITION. Bit fields, byte order (R2, R3) and small arithmetic shared by the meanings. -/

namespace Sys2Proof.Machine

/-- Bits [lo + n - 1 : lo] of a number (R2). -/
def field (w lo n : Nat) : Nat := w / 2 ^ lo % 2 ^ n

/-- Bits [lo + n - 1 : lo] of a register as a number. -/
def wbits (w : Word) (lo n : Nat) : Nat := field w.toNat lo n

/-- A register with bits [lo + n - 1 : lo] replaced by `v`. -/
def setBits (w : Word) (lo n v : Nat) : Word :=
  BitVec.ofNat 64 (w.toNat - field w.toNat lo n * 2 ^ lo + v % 2 ^ n * 2 ^ lo)

/-- Bit `i` of a number. -/
def bit (w i : Nat) : Bool := w / 2 ^ i % 2 == 1

/-- A number as `n` bytes, the low byte first (R3). -/
def toBytes (n v : Nat) : List Byte :=
  match n with
  | 0 => []
  | n + 1 => BitVec.ofNat 8 v :: toBytes n (v / 256)

/-- The number that bytes hold, the low byte first (R3). -/
def ofBytes (bs : List Byte) : Nat :=
  match bs with
  | [] => 0
  | b :: r => b.toNat + 256 * ofBytes r

/-- Bytes as 64-bit words, the low byte first; a short tail is padded with zeros. -/
def toWords (n : Nat) (bs : List Byte) : List Word :=
  match n with
  | 0 => []
  | n + 1 => BitVec.ofNat 64 (ofBytes (bs.take 8)) :: toWords n (bs.drop 8)

/-- 64-bit words as bytes. -/
def ofWords (ws : List Word) : List Byte :=
  match ws with
  | [] => []
  | w :: r => toBytes 8 w.toNat ++ ofWords r

/-- Word `j` of a descriptor. -/
def wordAt (ws : List Word) (j : Nat) : Word := ws.getD j 0

/-- Sign extension of an `n`-bit number to 64 bits (R162). -/
def sext (v n : Nat) : Word := if bit v (n - 1) then BitVec.ofNat 64 (v % 2 ^ n + (2 ^ 64 - 2 ^ n)) else BitVec.ofNat 64 (v % 2 ^ n)

/-- A counter that holds at its maximum (R143, R404). -/
def satAdd {w : Nat} (c : BitVec w) (n : Nat) : BitVec w :=
  BitVec.ofNat w (Nat.min (c.toNat + n) (2 ^ w - 1))

/-- Division rounding up. -/
def ceilDiv (a b : Nat) : Nat := (a + b - 1) / b

/-- The number of one bits of an 8-bit lane-group set. -/
def popcount8 (b : BitVec 8) : Nat := (List.range 8).countP fun i => b.getLsbD i

end Sys2Proof.Machine
end

