-- ==== Sys2Proof/Machine/Phys.lean ====
section
/-! DEFINITION. Physical memory: the map of R296, tier-1 rows (R116), the stores of a step, poison (R96), row ECC and the
conditions under which a horizontal access waits (R107, R140). -/

namespace Sys2Proof.Machine

/-! ## Units -/

/-- The core of a strand (R6). -/
def coreOf (sid : Nat) : Nat := sid / 2

/-- The base die of a strand (R6). -/
def dieOf (sid : Nat) : Nat := sid / 64

def State.strand (s : State) (n : Nat) : Strand := s.strands.get Strand.reset n
def State.setStrand (s : State) (n : Nat) (x : Strand) : State := { s with strands := s.strands.put Strand.reset n x }
def State.updStrand (s : State) (n : Nat) (f : Strand → Strand) : State := s.setStrand n (f (s.strand n))
def State.core (s : State) (c : Nat) : Core := s.cores.get Core.reset c
def State.setCore (s : State) (c : Nat) (x : Core) : State := { s with cores := s.cores.put Core.reset c x }
def State.updCore (s : State) (c : Nat) (f : Core → Core) : State := s.setCore c (f (s.core c))
def State.die (s : State) (d : Nat) : DieState := s.dies.get DieState.reset d
def State.setDie (s : State) (d : Nat) (x : DieState) : State := { s with dies := s.dies.put DieState.reset d x }
def State.updDie (s : State) (d : Nat) (f : DieState → DieState) : State := s.setDie d (f (s.die d))

/-- The strand whose turn it is. -/
def State.me (s : State) : Strand := s.strand s.cur
/-- A change of the strand whose turn it is. -/
def State.upd (s : State) (f : Strand → Strand) : State := s.updStrand s.cur f
/-- Its core. -/
def State.myCore (s : State) : Core := s.core (coreOf s.cur)
def State.updMyCore (s : State) (f : Core → Core) : State := s.updCore (coreOf s.cur) f
/-- Its die. -/
def State.myDie (s : State) : DieState := s.die (dieOf s.cur)

/-- A fresh number for a free value. -/
def State.tick (s : State) : State := { s with ticks := s.ticks + 1 }

/-! ## The physical address map (R296) -/

/-- Bytes of tier 1 a stack offers to addressing (R116). -/
def tier1Bytes : Nat := 84557168640

/-- Where scratchpad byte `o` of module core `c` is held (R79); physical addresses end below it. -/
def scratchBase : Nat := 281474976710656

def scratchAddr (c o : Nat) : Nat := scratchBase + c * 2097152 + o

/-- What a physical address reaches (R296). -/
inductive Region where
  | tier1 (stack : Nat) | lpddr | cxl (group : Nat) | host
  deriving DecidableEq, Repr

/-- The region of a physical address, or none where R296 maps nothing. A CXL window exists while it is installed. -/
def State.region (s : State) (pa : Nat) : Option Region :=
  if pa < 1099511627776 then
    if pa % 137438953472 < tier1Bytes then some (.tier1 (pa / 137438953472)) else none
  else if 2199023255552 ≤ pa ∧ pa < 2199023255552 + 2048000000000 then some .lpddr
  else if 17592186044416 ≤ pa ∧ pa < 17592186044416 + 8 * 1099511627776 then
    let g := (pa - 17592186044416) / 1099511627776
    if (pa - 17592186044416) % 1099511627776 < (s.die g).port.win then some (.cxl g) else none
  else if 140737488355328 ≤ pa ∧ pa < scratchBase then some .host
  else none

/-- The requests of one issuer, whichever the element. -/
def Issuer.same (x y : Issuer) : Bool :=
  match x, y with
  | .strand n _, .strand m _ => n == m
  | x, y => x == y

/-- A group's refusals pass a request that was in flight when they came into force (R363, R364). -/
def Port.passes (p : Port) (i : Issuer) : Bool := p.lateReqs.any fun r => r.issuer.same i

/-- The turn in progress is of an issuer whose requests a group's refusals pass: they are in flight, or one of its elements has
failed in flight and the others have passed their checks (R364). -/
def State.inFlight (s : State) (g : Nat) : Bool :=
  match s.issuer with
  | none => false
  | some i => (s.die g).port.passes i || (match i with
    | .strand n _ => (s.strand n).failAt.isSome
    | _ => false)

/-- The address lies in a window whose requests are refused (R363). -/
def State.windowRefused (s : State) (pa : Nat) : Bool :=
  let g := (pa - 17592186044416) / 1099511627776
  17592186044416 ≤ pa && pa < 17592186044416 + 8 * 1099511627776
    && (pa - 17592186044416) % 1099511627776 < (s.die g).port.refused && !s.inFlight g

/-- The die whose L2 is a line's home (R78, R296). -/
def homeDie (pa : Nat) : Nat := if pa < 1099511627776 then pa / 137438953472 else pa / 4096 % 8

/-- The LPDDR-6 channel of an address (R377). -/
def channelOf (pa : Nat) : Nat := (pa - 2199023255552) / 4096 % 64

/-- The mitten row number of a tier-1 address within its stack: 2560 x data row + mitten (R116). -/
def rowKey (pa : Nat) : Nat := pa % 137438953472 / 32768

def isTier1 (pa : Nat) : Bool := pa < 1099511627776 && pa % 137438953472 < tier1Bytes

/-- Host memory (R296). -/
def isHost (pa : Nat) : Bool := 140737488355328 ≤ pa && pa < scratchBase

/-- The physical address of byte 0 of a data row (R116). -/
def rowAddr (stack mitten row : Nat) : Nat := stack * 137438953472 + (row * 2560 + mitten) * 32768

/-! ## Bytes -/

/-- The latest store to an address within the step. -/
def lookupLog (l : List Store) (a : Nat) : Option Byte :=
  match l with
  | [] => none
  | e :: r => if e.addr = a then some e.byte else lookupLog r a

/-- The byte every coherent reader sees (R98). -/
def State.readByte (s : State) (a : Nat) : Byte :=
  match lookupLog s.log a with
  | some b => b
  | none => s.mem.get memDefault a

/-- The byte of a record or residency entry that a cache may still hold for an address space: the oldest it has not dropped
(R306, R307, R314; log 18). -/
def State.oldByte (s : State) (asid a : Nat) : Byte :=
  match (s.recOld.get [] a).find? fun v => !v.2.contains asid with
  | some v => v.1
  | none => s.readByte a

/-- `n` such bytes from an address up. -/
def State.oldBytes (s : State) (asid a n : Nat) : List Byte := (List.range n).map fun i => s.oldByte asid (a + i)

/-- A cache may hold other contents than memory's for some byte of [a, a + n). -/
def State.stale (s : State) (a n : Nat) : Bool := s.recOld.any fun p => decide (a ≤ p.1) && decide (p.1 < a + n)

/-- Translation caches drop what they hold of the bytes [a, a + n) (R306-R308). -/
def State.dropCached (s : State) (a n : Nat) : State :=
  { s with recOld := s.recOld.filter fun p => p.1 < a || a + n ≤ p.1 }

/-- Translation caches drop what they hold for one address space (R314 FLUSH). -/
def State.dropAsid (s : State) (asid : Nat) : State :=
  { s with recOld := s.recOld.map fun p => (p.1, p.2.map fun v => (v.1, if v.2.contains asid then v.2 else asid :: v.2)) }

/-- `n` bytes from an address up. -/
def State.readBytes (s : State) (a n : Nat) : List Byte :=
  match n with
  | 0 => []
  | n + 1 => s.readByte a :: s.readBytes (a + 1) n

/-- A little-endian number of `n` bytes (R3). -/
def State.readNum (s : State) (a n : Nat) : Nat := ofBytes (s.readBytes a n)

/-- A store of one byte, which enters memory at the end of the step. -/
def State.storeByte (s : State) (via : Via) (a : Nat) (b : Byte) : State := { s with log := ⟨a, b, via⟩ :: s.log }

/-- Stores of consecutive bytes. -/
def State.storeBytes (s : State) (via : Via) (a : Nat) (bs : List Byte) : State :=
  match bs with
  | [] => s
  | b :: r => (s.storeByte via a b).storeBytes via (a + 1) r

/-- The stale copies of a line, gone once the line is written back or dropped. -/
def dropLine {α : Type} (m : Sparse (Option α)) (line : Nat) : Sparse (Option α) := m.filter fun p => p.1 / 64 != line

/-- The lines of keys in ascending order, each once. -/
def linesUp (ks : List Nat) : List Nat := (ks.map (· / 64)).foldr (fun l ls => if ls.head? = some l then ls else l :: ls) []

/-- Lines leave a cache of `room` lines until it holds those that `mine` counts, at most `fuel` of them; `pick` names each. -/
def fitCache {α : Type} (room : Nat) (pick : Nat → Nat) (mine : Nat → α → Bool) (fuel : Nat) (m : Sparse (Option α)) :
    Sparse (Option α) :=
  match fuel with
  | 0 => m
  | fuel + 1 =>
    let ls := linesUp ((m.filter fun p => match p.2 with
      | some x => mine p.1 x
      | none => false).map (·.1))
    if ls.length ≤ room then m else fitCache room pick mine fuel (dropLine m (ls.getD (pick fuel % ls.length) 0))

/-- Lines of an L1 data cache of 256 KiB, and of the L2 of a die of 192 MiB (R1, R77). -/
def l1Lines : Nat := 4096
def l2Lines : Nat := 3145728

/-- The stale home L2 bytes after one store: a store through an L1 leaves the home L2 as it was, every other one reaches it or
passes it (R77, R78); a scratchpad has no copies (R79). -/
def State.l2After (s : State) (e : Store) : Sparse (Option (Byte × Nat)) :=
  if scratchBase ≤ e.addr then s.l2
  else match e.via with
  | .l1 => s.l2.put none e.addr
      (some (((s.l2.get none e.addr).map (·.1)).getD (s.mem.get memDefault e.addr), coreOf s.cur))
  | .row => s.l2.erase e.addr
  | .direct => s.l2.erase e.addr
  | _ => dropLine s.l2 (e.addr / 64)

/-- The stale bytes of rows and host memory after one store: only the sequencer's reach the rows themselves (R106), and to host
memory those of agents and of lines that are not cached (R344). -/
def State.arrAfter (s : State) (e : Store) : Sparse (Option Byte) :=
  if scratchBase ≤ e.addr then s.arr
  else match e.via with
  | .row => s.arr.erase e.addr
  | .direct => s.arr.erase e.addr
  | via => if via = .agent ∧ isHost e.addr then s.arr.erase e.addr
    else if (isTier1 e.addr || isHost e.addr) ∧ s.arr.get none e.addr = none then
      s.arr.put none e.addr (some (s.mem.get memDefault e.addr))
    else s.arr

/-- The old bytes a translation cache may hold after one store: until it drops them, but not of what an agent of the module
changes (R306, R307). Where some address space has dropped the newest of them, the byte the store replaces is one more. -/
def State.recAfter (s : State) (e : Store) : Sparse (List (Byte × List Nat)) :=
  if scratchBase ≤ e.addr then s.recOld
  else match e.via with
  | .row => s.recOld
  | .agent => s.recOld.erase e.addr
  | _ =>
    let old := s.recOld.get [] e.addr
    if old.all fun v => v.2 != [] then s.recOld.put [] e.addr (old ++ [(s.mem.get memDefault e.addr, [])]) else s.recOld

/-- The stale home L2 bytes once no core's L1 data cache holds more dirty lines than it has room for (R1, R77; log 4). -/
def fitL1 (tick : Nat) (m : Sparse (Option (Byte × Nat))) : Sparse (Option (Byte × Nat)) :=
  if m.length ≤ l1Lines then m
  else (List.range 256).foldl
    (fun m c => fitCache l1Lines (fun i => Config.victim tick (4 * (256 * i + c) + 1)) (fun _ x => x.2 == c) m.length m) m

/-- The stale bytes of rows and host memory once no die's L2 holds more changed lines than it has room for, those that only
an L1 holds not counted (R1, R77; log 4). -/
def fitL2 (tick : Nat) (l2 : Sparse (Option (Byte × Nat))) (m : Sparse (Option Byte)) : Sparse (Option Byte) :=
  if m.length ≤ l2Lines then m
  else (List.range 8).foldl
    (fun m d => fitCache l2Lines (fun i => Config.victim tick (4 * (256 * i + d) + 3))
      (fun k _ => homeDie k == d && !(l2.any fun q => q.1 / 64 == k / 64)) m.length m) m

/-- Every cache holds at most what it has room for: a full one has written lines back by the end of a step (R1; log 4). -/
def State.fit (s : State) : State :=
  let l2 := fitL1 s.ticks s.l2
  { s with l2 := l2, arr := fitL2 s.ticks l2 s.arr }

/-- One store reaching memory. -/
def State.commitOne (s : State) (e : Store) : State :=
  { s with
    mem := s.mem.put memDefault e.addr e.byte
    l2 := s.l2After e
    arr := s.arrAfter e
    recOld := s.recAfter e }

/-- The stores of a step reaching memory, oldest first. -/
def State.commitAll (s : State) (l : List Store) : State :=
  match l with
  | [] => s
  | e :: r => (s.commitAll r).commitOne e

/-- The end of a step: `t` is what the step computed from `s`, and its stores enter the memory of `s`. -/
def commit (s t : State) : State := { ({ t with mem := s.mem } : State).commitAll t.log with log := [] }

/-- A step that computes `f`. -/
def run (f : State → State) (s : State) : Host.Outcome State Fault Refusal := .next (commit s (f s))

/-! ## Poison and the second tier's failures (R96, R357, R378) -/

/-- The line of an address reads as poisoned: its own flag, its row's POISON (R140), a failed channel (R378), a lost
expander link or CXL poison (R357). -/
def State.poisoned (s : State) (a : Nat) : Bool :=
  s.poison.get false (a / 64)
    || (isTier1 a && (s.die (a / 137438953472)).rowPoison.get false (rowKey a))
    || match s.region a with
       | some .lpddr => s.badChannels.contains (channelOf a) || s.badLines.contains (a / 64)
       | some (.cxl g) => (s.die g).port.linkLost || s.badLines.contains (a / 64)
       | _ => false

/-- Any line of [a, a + n) reads as poisoned. -/
def State.anyPoison (s : State) (a n : Nat) : Bool :=
  (List.range (if n = 0 then 0 else (a + n - 1) / 64 - a / 64 + 1)).any fun i => s.poisoned (64 * (a / 64 + i))

/-- Bytes [a, a + n) become lines without poison (R311). -/
def State.clearLines (s : State) (a n : Nat) : State :=
  { s with poison := s.poison.filter fun p => p.1 < a / 64 || (a + n - 1) / 64 < p.1
           badLines := s.badLines.filter fun l => l < a / 64 || (a + n - 1) / 64 < l }

/-- The flag of one line (R96). -/
def State.setPoison (s : State) (a : Nat) (p : Bool) : State :=
  { s with poison := s.poison.put false (a / 64) p, badLines := s.badLines.filter (· != a / 64) }

/-! ## Rows (R136, R139, R140) -/

/-- The effect of a read on the ECC of the 128-bit groups from number `g` (offset / 16), `n` of them: a correctable error is
corrected and counted, an uncorrectable one poisons the row and is counted (R140 item 6). -/
def DieState.eccRead (d : DieState) (g n : Nat) : DieState :=
  match n with
  | 0 => d
  | n + 1 =>
    let e := d.rowErrs.get 0 g
    let d' := if e = 0 then d
      else if e = 1 then { d with rowErrs := d.rowErrs.erase g, cecnt := Nat.min (d.cecnt + 1) 4294967295 }
      else { d with rowPoison := d.rowPoison.put false (g / 2048) true, uecnt := Nat.min (d.uecnt + 1) 4294967295 }
    d'.eccRead (g + 1) n

/-- The effect of a write on the ECC of the groups it covers: each becomes correct (R140 item 6). -/
def DieState.eccWrite (d : DieState) (g n : Nat) : DieState :=
  { d with rowErrs := d.rowErrs.filter fun p => p.1 < g || g + n ≤ p.1 }

/-- The number of 128-bit groups that bytes [a, a + n) cover. -/
def groupsOf (a n : Nat) : Nat := if n = 0 then 0 else (a + n - 1) / 16 - a / 16 + 1

/-- The ECC effect of a read of [a, a + n), which lies in one row where it is tier 1. -/
def State.eccRead (s : State) (a n : Nat) : State :=
  if isTier1 a then
    let d := a / 137438953472
    if (s.die d).rowErrs = [] then s else s.updDie d fun x => x.eccRead (a % 137438953472 / 16) (groupsOf a n)
  else s

/-- The ECC effect of a write of [a, a + n). -/
def State.eccWrite (s : State) (a n : Nat) : State :=
  if isTier1 a then
    let d := a / 137438953472
    if (s.die d).rowErrs = [] then s else s.updDie d fun x => x.eccWrite (a % 137438953472 / 16) (groupsOf a n)
  else s

/-- A running run that holds the lock of a row: the row lies in one of its W or RW operands (R107, R139). -/
def Run.locks (r : Run) (mitten row : Nat) : Bool :=
  r.stage == .running && r.mitten == mitten
    && r.ops.any fun o => o.access ≥ 2 && o.row ≤ row && row < o.row + o.rows

/-- The number of the 128-bit group of an address in the whole of tier 1. -/
def groupKey (a : Nat) : Nat := a / 16

/-- The ECC effect of one read access of the bytes at `as`: each 128-bit group it covers is checked once (R140 item 6). -/
def State.eccReadAll (s : State) (as : List Nat) : State :=
  if (s.dies.all fun p => p.2.rowErrs.isEmpty) = true then s
  else (as.map groupKey).eraseDups.foldl (fun t g => t.eccRead (16 * g) 16) s

/-- A running run that is mid-step in a mitten, its shadow included (R140 item 1). -/
def Run.busyIn (r : Run) (mitten : Nat) : Bool :=
  r.stage == .running && r.midStep && (r.mitten == mitten || r.shadow == some mitten)

/-- Some alock of another strand holds the row (R140 item 4). -/
def DieState.alocked (d : DieState) (mitten row : Nat) (holder : Option Nat) : Bool :=
  d.alocks.any fun p => p.2.holder.isSome && p.2.holder != holder && p.2.rows.contains (mitten, row)

/-- A lock stands in the way of the holder's horizontal access to a tier-1 address. -/
def State.rowLocked (s : State) (a : Nat) (holder : Option Nat) : Bool :=
  isTier1 a &&
    (let d := s.die (a / 137438953472)
     let m := rowKey a % 2560
     let row := rowKey a / 2560
     d.launches.any (fun l => l.runs.any fun r => r.locks m row) || d.alocked m row holder)

/-- Every mitten of a bank is idle or at a step boundary (R134). -/
def DieState.bankQuiet (d : DieState) (b : Nat) : Bool :=
  d.launches.all fun l => l.runs.all fun r =>
    !(r.stage == .running && r.midStep && (r.mitten / 40 == b || (match r.shadow with
      | some m => m / 40 == b
      | none => false)))

/-- A due slot of its bank goes before accesses to the mitten: one that can start now, and at a boundary of a run in the mitten
any (R134; log 46). -/
def DieState.slotFirst (d : DieState) (mitten : Nat) : Bool :=
  d.refreshDue.contains (mitten / 40)
    && (d.bankQuiet (mitten / 40)
      || d.launches.any fun l => l.runs.any fun r => r.stage == .running && (r.mitten == mitten || r.shadow == some mitten))

/-- A horizontal access to a tier-1 address waits: mid-step, refresh slot, or lock (R107, R134, R140). -/
def State.rowWaits (s : State) (a : Nat) (holder : Option Nat) : Bool :=
  isTier1 a &&
    (let d := s.die (a / 137438953472)
     let m := rowKey a % 2560
     d.launches.any (fun l => l.runs.any fun r => r.busyIn m)
       || d.slotFirst m
       || s.now < d.slotEnd.get 0 (m / 40)
       || s.rowLocked a holder)

/-- The first byte of the row of an address. -/
def rowOf (a : Nat) : Nat := a / 32768 * 32768

/-- The rows of [a, a + n), each by its first byte. -/
def rowsOf (a n : Nat) : List Nat :=
  if n = 0 then [] else (List.range ((a + n - 1) / 32768 - a / 32768 + 1)).map fun i => rowOf a + 32768 * i

/-- A locked row's timeout starts counting with the first access that waits on it (R141). -/
def State.startLockWait (s : State) (a : Nat) (holder : Option Nat) : State :=
  if s.rowLocked a holder then
    s.updDie (a / 137438953472) fun d =>
      if d.lockWait.get none (rowKey a) = none then { d with lockWait := d.lockWait.put none (rowKey a) (some s.now) } else d
  else s

/-- An access begins to wait on a row; an agent's is noted for the end of its turn, where a strand keeps its rows itself. -/
def State.noteWait (s : State) (a : Nat) (holder : Option Nat) : State :=
  let t := s.startLockWait a holder
  if holder = none ∧ s.rowWaits a none ∧ !s.noted.contains (rowOf a) then { t with noted := rowOf a :: t.noted } else t

/-- An access of a step that has gone too far to wait in it: where its row lets no access through, the step is undone and taken
again once it does, so that nothing is observed before a record of it stands (R107, R321, R389; log 46). -/
def State.needRow (s : State) (a : Nat) : State := if s.rowWaits a none then { s.noteWait a none with undo := true } else s

/-- Accesses of such a step to the rows of several addresses. -/
def State.needRows (s : State) (as : List Nat) : State := as.foldl State.needRow s

/-- What a step that is undone leaves: the timeouts of the locks it met (R141). -/
def State.startWaits (s : State) (as : List Nat) : State := as.foldl (fun (t : State) a => t.startLockWait a none) s

/-- An agent's step, once the rows at `as` let it (R107, R140, R141). -/
def State.whenFree (s : State) (as : List Nat) (k : State) : State :=
  if as.any fun a => s.rowWaits a none then as.foldl (fun (t : State) a => t.noteWait a none) s else k

end Sys2Proof.Machine
end

