-- ==== Sys2Proof/Machine/Ops.lean ====
section
/-! DEFINITION. Named operations over registers and memory: register reads and writes, damage and fault records, leaving a
farm, entering IDLE, taking a trap and returning from one. -/

namespace Sys2Proof.Machine

/-! ## Registers (R22) -/

/-- A general register: g0 reads zero. -/
def Strand.getG (x : Strand) (r : GReg) : Word := if r = 0 then 0 else x.g.get 0 r.val

/-- A write of a general register: g0 ignores it. -/
def Strand.setG (x : Strand) (r : GReg) (w : Word) : Strand := if r = 0 then x else { x with g := x.g.put 0 r.val w }

/-- A mask bit: k0 reads all ones. -/
def Strand.getK (x : Strand) (r : KReg) (i : Nat) : Bool := if r = 0 then true else x.k.get false (65536 * r.val + i)

/-- A write of a mask bit: k0 ignores it. -/
def Strand.setK (x : Strand) (r : KReg) (i : Nat) (b : Bool) : Strand :=
  if r = 0 then x else { x with k := x.k.put false (65536 * r.val + i) b }

/-- Supervisor mode: sstat.MODE (R327). -/
def Strand.supervisor (x : Strand) : Bool := x.sstat.getLsbD 0

/-- sstat.TM (R327). -/
def Strand.tm (x : Strand) : Bool := x.sstat.getLsbD 2

/-- vfarm.FM (R25). -/
def Strand.inFarm (x : Strand) : Bool := x.vfarm.getLsbD 63

/-- vfarm.FCTX (R25). -/
def Strand.fctx (x : Strand) : Nat := (wbits x.vfarm 0 6)

/-- A pre-emption request the strand honours at a vsetl or doze (R335). -/
def Strand.preemptPending (x : Strand) : Bool := x.preq && !x.tm

/-- The strand's instruction no longer waits: its pins and what it has read so far go (R90, R309). -/
def Strand.unhold (x : Strand) : Strand :=
  { x with held := false, pins := [], issued := [], farmWait := false, rowWait := [], failAt := none }

/-- The next instruction: pc + 4, one more retired (R181). -/
def Strand.retire (x : Strand) : Strand := { x.unhold with pc := x.pc + 4, instret := x.instret + 1, st := .run }

/-- A step that changes only the strand whose turn it is, and retires its instruction. -/
def strandOp (f : Strand → Strand) (s : State) : Host.Outcome State Fault Refusal := run (fun s => s.upd fun x => (f x).retire) s

/-- The marks of a strand's oinv cleared (R308). -/
def State.unmark (s : State) (n : Nat) : State := { s with marks := s.marks.filter fun m => m.owner != some n }

/-- The instruction stays where it is and its effect runs again at the strand's next turn, without a state of R17 of its
own: a walk, a pin, a row or a fence it waits for (R107, R309, R310). -/
def State.hold (s : State) : State :=
  s.upd fun x => { x with held := true, heldAt := if x.held then x.heldAt else s.now }

/-- The strand waits in WAIT at its instruction (R17). -/
def State.waitHere (s : State) : State :=
  s.upd fun x => { x with st := .wait, held := true, heldAt := if x.held then x.heldAt else s.now }

/-! ## Stores by agents -/

/-- Bytes an agent writes at consecutive physical addresses: an address that R296 maps to nothing takes none, a failed
channel or a lost window drops them (R357, R378); `raw` does not report the drop. -/
def State.rawWrite (s : State) (a : Nat) (bs : List Byte) : State :=
  match bs with
  | [] => s
  | b :: r =>
    let dropped := match s.region a with
      | none => true
      | some .lpddr => s.badChannels.contains (channelOf a)
      | some (.cxl g) => (s.die g).port.linkLost
      | some .host => !s.hostUp
      | some (.tier1 _) => false
    ((if dropped then s else s.storeByte .agent a b).rawWrite (a + 1) r)

/-! ## The damage map (R386-R389) -/

/-- What a damage record says (R387). -/
structure Damage where
  kind : Nat
  cause : Nat
  srck : Nat
  phys : Bool
  asid : Nat
  opmask : Nat
  afc : Nat
  swc : Nat
  unit : Nat
  aux : Nat
  addr : Nat
  len : Nat
  pc : Nat
  desc : Nat
  deriving DecidableEq, Repr

/-- The record's words (R387). -/
def Damage.words (r : Damage) (seq : Nat) : List Word :=
  [BitVec.ofNat 64 (r.kind + r.cause * 256 + r.srck * 65536 + r.phys.toNat * 16777216 + r.asid * 4294967296
      + r.opmask * 17592186044416 + r.afc * 281474976710656 + r.swc * 72057594037927936),
   BitVec.ofNat 64 (r.unit + r.aux % 4294967296 * 4294967296),
   BitVec.ofNat 64 r.addr, BitVec.ofNat 64 r.len, BitVec.ofNat 64 r.pc, BitVec.ofNat 64 r.desc, BitVec.ofNat 64 seq, 0]

/-- log2 of the records a damage ring holds, when the ring is enabled (R386). -/
def DieState.dmLog (d : DieState) : Option Nat :=
  let n := (wbits d.dmbase 0 5)
  if 6 ≤ n ∧ n ≤ 16 then some n else none

/-- Where the next damage record of a die goes; none when the ring is full or disabled (R386, R389). -/
def DieState.dmSlot (d : DieState) : Option Nat :=
  d.dmLog.bind fun n =>
    if (d.dmtail - d.dmhead).toNat = 2 ^ n then none else some (wbits d.dmbase 12 36 * 4096 + 64 * (d.dmtail.toNat % 2 ^ n))

/-- A damage record of die `k` (R389): written at TAIL, or counted as lost when the ring is full or disabled. A row it waits for
is noted, and the turn that reports the event waits with it (R107). -/
def State.damage (s : State) (k : Nat) (r : Damage) : State :=
  let d := s.die k
  match d.dmSlot with
  | some a =>
    (((s.needRow a).rawWrite a (ofWords (r.words d.dmseq.toNat))).eccWrite a 64).updDie k fun x =>
      { x with dmseq := x.dmseq + 1, dmtail := x.dmtail + 1 }
  | none => s.updDie k fun x => { x with dmseq := x.dmseq + 1, dmlost := satAdd x.dmlost 1, dmovf := true }

/-- A record of killed work of a strand (R388). -/
def killedWork (x : Strand) (sid cause aux : Nat) : Damage where
  kind := 2
  cause := cause
  srck := 2
  phys := false
  asid := wbits x.asid 0 12
  opmask := 0
  afc := 0
  swc := 0
  unit := sid
  aux := aux
  addr := 0
  len := 0
  pc := x.pc.toNat
  desc := 0

/-- A record of tainted data that names one physical line (R388). -/
def lineDamage (cause srck unit pa : Nat) : Damage where
  kind := 1
  cause := cause
  srck := srck
  phys := true
  asid := 0
  opmask := 0
  afc := 0
  swc := 0
  unit := unit
  aux := 0
  addr := pa / 64 * 64
  len := 64
  pc := 0
  desc := 0

/-- The damage record of a write a failed channel or a lost window drops (R357, R378, R388). -/
def State.noteDropped (s : State) (a : Nat) : State :=
  match s.region a with
  | some .lpddr => if s.badChannels.contains (channelOf a) then s.damage (channelOf a / 8) (lineDamage 9 6 (channelOf a) a) else s
  | some (.cxl g) => if (s.die g).port.linkLost then s.damage g (lineDamage 9 4 g a) else s
  | _ => s

/-- Bytes an agent writes, with a damage record for each line a failed channel or a lost window drops. -/
def State.physWrite (s : State) (a : Nat) (bs : List Byte) : State :=
  let lines := if bs = [] then 0 else (a + bs.length - 1) / 64 - a / 64 + 1
  (List.range lines).foldl (fun t i => t.noteDropped (if i = 0 then a else 64 * (a / 64 + i))) ((s.rawWrite a bs).eccWrite a bs.length)

/-! ## The fault queue (R320-R322) -/

/-- What a failed check says beside its cause: FLAGS, STATE and SUBTILE of R320. -/
structure Fail where
  cause : Nat
  /-- FLAGS: [0] WRITE, [1] NOCAP, [2] INVREC, [3] INVENT. -/
  flags : Nat
  state : Nat
  sub : Nat
  deriving DecidableEq, Repr

/-- A failed check that calls for no fault record. -/
def Fail.plain (cause : Nat) : Fail := ⟨cause, 0, 0, 0⟩

/-- The failure calls for a fault record (R321). -/
def Fail.recorded (f : Fail) : Bool := f.cause == 7 || (f.cause == 8 && (bit f.flags 2 || bit f.flags 3))

/-- Where the next fault record of a die goes; none when the queue is full (R320, R322). -/
def DieState.fqSlot (d : DieState) : Option Nat :=
  if (d.fqtail - d.fqhead).toNat = 4096 then none else some (wbits d.fqbase 18 30 * 262144 + 64 * (d.fqtail.toNat % 4096))

/-- A fault record of die `k` at TAIL, or one more lost when the queue is full (R320-R322). A row it waits for is noted, and the
turn that reports the failure waits with it (R107). -/
def State.faultRecord (s : State) (k : Nat) (f : Fail) (addr asid unit source pc : Nat) : State :=
  let d := s.die k
  match d.fqSlot with
  | none => s.updDie k fun x => { x with fqseq := x.fqseq + 1, fqlost := satAdd x.fqlost 1, fqovf := true }
  | some a =>
    let w0 := f.cause + f.state % 256 * 256 + f.flags * 65536 + source * 16777216 + unit % 256 * 4294967296
      + asid % 4096 * 281474976710656
    ((s.needRow a).physWrite a
        (ofWords [BitVec.ofNat 64 w0, BitVec.ofNat 64 addr, BitVec.ofNat 64 (f.sub % 268435456), BitVec.ofNat 64 pc,
          BitVec.ofNat 64 d.fqseq.toNat, 0, 0, 0])).updDie k fun x =>
      { x with fqseq := x.fqseq + 1, fqtail := x.fqtail + 1 }

/-- The fault record of a failed check made for an agent, where R321 calls for one. -/
def State.recordFail (s : State) (ag : Agent) (f : Fail) (addr : Word) : State :=
  if f.recorded then s.faultRecord ag.die f addr.toNat ag.asid ag.unit ag.source ag.pc.toNat else s

/-- The agent a strand's own accesses are made for (R298, R320). -/
def State.agentOf (s : State) (sid : Nat) : Agent :=
  let x := s.strand sid
  { tb := x.ortb, asid := (wbits x.asid 0 12), user := !x.supervisor, die := dieOf sid, source := 1 + sid % 2,
    unit := coreOf sid, pc := x.pc }

/-! ## Farms: leaving, strips (R30-R32, R413, R414) -/

/-- A farm strand of a die that names a context (R32). -/
def State.members (s : State) (d f : Nat) : Nat :=
  s.strands.countP fun p => dieOf p.1 == d && p.2.inFarm && p.2.fctx == f

/-- A context is freed once its arrival has been made and no strand names it (R32). -/
def State.freeFarm (s : State) (d f : Nat) : State :=
  match (s.die d).farms.get none f with
  | some x => if x.arrived ∧ s.members d f = 0 then s.updDie d fun y => { y with farms := y.farms.put none f none } else s
  | none => s

/-- A strip that has been worked to its end (R31). -/
def Strand.stripDone (x : Strand) : Bool := x.vbase + x.vl == x.vsend

/-- A change of a farm in use. -/
def State.updFarm (s : State) (d f : Nat) (g : Farm → Farm) : State :=
  s.updDie d fun y => match y.farms.get none f with
    | some x => { y with farms := y.farms.put none f (some (g x)) }
    | none => y

/-- A strip given out is retired, or comes back with the elements `back` (R31). -/
def Farm.settle (back : List (Nat × Nat)) (x : Farm) : Farm := { x with out := x.out - 1, returned := x.returned ++ back }

/-- The strand gives up the strip it holds: retired when finished, else returned, in the farm it was taken from (R31, R413;
log 58). -/
def State.dropStrip (s : State) (n : Nat) : State :=
  let x := s.strand n
  if x.strip then
    (s.setStrand n { x with strip := false }).updFarm (dieOf n) x.stripOf
      (Farm.settle (if x.stripDone then [] else [(x.vbase.toNat, x.vsend.toNat)]))
  else s

/-- Membership of a farm ends (R30-R32); from a context that holds no farm nothing is returned (R414). -/
def State.leaveFarm (s : State) (n : Nat) : State :=
  let x := s.strand n
  if x.inFarm then
    let t := if ((s.die (dieOf n)).farms.get none x.fctx).isSome then s.dropStrip n else s
    (t.updStrand n fun y => { y with vfarm := 0 }).freeFarm (dieOf n) x.fctx
  else s

/-- Lane groups that strand `i` of a core holds (R20). -/
def Core.own (c : Core) (i : Nat) : BitVec 8 := if i = 0 then c.own0 else c.own1

/-- The groups strand `i` holds from now on (R21). -/
def Core.setOwn (c : Core) (i : Nat) (o : BitVec 8) : Core := if i = 0 then { c with own0 := o } else { c with own1 := o }

/-- Entry to IDLE: the farm is left, lane groups and the request go (R17, R21, R31, R335). -/
def State.enterIdle (s : State) (n : Nat) : State :=
  ((s.leaveFarm n).updStrand n fun x =>
      { x.unhold with st := .idle, preq := false, pend := none, svcRec := none, strip := false }).updCore
    (coreOf n) fun c => c.setOwn (n % 2) 0

/-- A strand that leaves IDLE finds its cluster powered (R111, R346). -/
def State.powerOn (s : State) (n : Nat) : State := s.updCore (coreOf n) fun c => { c with gated := false }

/-- A transfer of control of strand `n` to `t`: in a farm, address 0 ends the membership without a fetch (R30). -/
def State.goTo (s : State) (n : Nat) (t : Word) : State :=
  if (s.strand n).inFarm ∧ t = 0 then (s.updStrand n fun x => { x with pc := 0 }).enterIdle n
  else s.updStrand n fun x => { x.unhold with pc := t, st := .run }

/-- A transfer of control by the strand whose turn it is, whose instruction retires. -/
def State.jump (s : State) (t : Word) : State := (s.upd fun x => { x with instret := x.instret + 1 }).goTo s.cur t

/-! ## Traps (R325-R334) -/

/-- A command of the strand's core still uses the strand's registers: an unfinished vsave or vrest (R249). -/
def State.saving (s : State) (n : Nat) : Bool :=
  (s.core (coreOf n)).copyQ.any fun c => c.sid == n && !c.finished && (c.kind == .vsave || c.kind == .vrest)

/-- Trap entry: mode and TM saved, the trap registers written, the handler entered in supervisor mode (R328). -/
def Strand.enter (x : Strand) (t : Trap) : Strand :=
  let sv := BitVec.ofNat 64 (5 + 2 * ((wbits x.sstat 0 1)) + 8 * ((wbits x.sstat 2 1))
    + (if t.cause = 0x0B then 128 * t.hard.toNat else 128 * (wbits x.sstat 7 1)))
  { x.unhold with
    sstat := sv
    tcause := BitVec.ofNat 64 t.cause
    tval := t.tval
    tpc := t.tpc
    tinst := t.tinst.setWidth 64
    pc := x.tvec &&& 0xFFFFFFFFFFFFFFFC#64
    preq := if t.cause = 0x0B then false else x.preq
    st := .run
    pend := none
    svcRec := none }

/-- The scratchpad byte address of a core's service queue header (R331). -/
def Core.svcHeader (c : Core) : Nat := (wbits c.svcq 6 15) * 64

/-- log2 of the records the service queue holds, when it is enabled and fits the scratchpad (R331). -/
def Core.svcLog (c : Core) : Option Nat :=
  let n := (wbits c.svcq 20 4)
  if 1 ≤ n ∧ n ≤ 8 ∧ c.svcHeader + 64 * (2 ^ n + 1) ≤ 2097152 then some n else none

/-- The location of the next service record of core `c`, when the queue is not full (R331). -/
def State.svcSlot (s : State) (c : Nat) : Option Nat :=
  let k := s.core c
  match k.svcLog with
  | some n =>
    let hdr := scratchAddr c k.svcHeader
    let head := s.readNum hdr 8
    let tail := s.readNum (hdr + 8) 8
    if (tail + 2 ^ 64 - head) % 2 ^ 64 < 2 ^ n then some (hdr + 64 + 64 * (tail % 2 ^ n)) else none
  | none => none

/-- A trap of strand `n` that service mode forwards (R19). -/
def State.forwards (s : State) (n : Nat) (cause : Nat) : Bool :=
  let k := s.core (coreOf n)
  k.svcmode.getLsbD 0 && !(s.strand n).supervisor && (n % 2 != (if k.svcmode.getLsbD 1 then 1 else 0))
    && cause != 0x0B && cause != 0x13 && (s.svcSlot (coreOf n)).isSome

/-- A raise of a strand's wake count (R188). -/
def Strand.raise (x : Strand) : Strand := { x with wakes := Nat.min (x.wakes + 1) 255 }

/-- A forwarded trap: the service record, then TAIL, SVCWAIT and the service strand's wake count (R332, R333). -/
def State.forward (s : State) (n : Nat) (t : Trap) : State :=
  let c := coreOf n
  let k := s.core c
  let x := s.strand n
  match s.svcSlot c with
  | some slot =>
    let hdr := scratchAddr c k.svcHeader
    let w0 := t.cause + 256 * (n % 2) + k.svcSeq.toNat * 4294967296
    let s1 := s.storeBytes .l2 slot (ofWords [BitVec.ofNat 64 w0, t.tval, t.tpc, t.tinst.setWidth 64, t.tpc,
      x.getG 4, x.getG 5, 0])
    let s2 := s1.storeBytes .l2 (hdr + 8) (toBytes 8 (s.readNum (hdr + 8) 8 + 1))
    let s3 := s2.setCore c { k with svcSeq := k.svcSeq + 1 }
    let s4 := s3.setStrand n { x.unhold with st := .svcwait, pend := none, svcRec := some slot }
    s4.updStrand (2 * c + (if k.svcmode.getLsbD 1 then 1 else 0)) Strand.raise
  | none => s

/-- A double trap: a damage record and IDLE, no trap register changed (R329). -/
def State.doubleTrap (s : State) (n : Nat) (t : Trap) : State :=
  (s.damage (dieOf n) (killedWork (s.strand n) n t.cause 0)).enterIdle n

/-- Entry to the strand's own handler, which waits for its vsave and vrest (R249, R328). -/
def State.enterTrap (s : State) (n : Nat) (t : Trap) : State :=
  if s.saving n then s.updStrand n fun y => { y.unhold with pend := some t, svcRec := none, st := .run }
  else s.updStrand n fun y => y.enter t

/-- Taking a trap, the one way every trap of a strand goes: forwarded to the service strand, a double trap, or entered,
which waits for the strand's vsave and vrest (R19, R249, R328, R329). -/
def State.takeTrap (s : State) (n : Nat) (t : Trap) : State :=
  let x := s.strand n
  if s.forwards n t.cause then s.forward n t
  else if x.supervisor ∧ x.tm ∧ t.hard = false then s.doubleTrap n t
  else s.enterTrap n t

/-- A synchronous trap of the strand whose turn it is, at its own address (R162, R325). -/
def State.trap (s : State) (cause : Nat) (tval : Word) : State :=
  s.takeTrap s.cur ⟨cause, tval, s.me.pc, s.me.iw, false, false⟩

/-- The trap of a failed check of the strand whose turn it is, with its fault record (R321). -/
def State.trapFail (s : State) (f : Fail) (tval : Word) : State :=
  (s.recordFail (s.agentOf s.cur) f tval).trap f.cause tval

/-- A privileged instruction: its effect in supervisor mode, cause 0x03 in user mode (R16). -/
def State.privileged (s : State) (f : State → State) : State := if s.me.supervisor then f s else s.trap 3 0

/-- sstat after a return: MODE from PMODE, TM from PTM (R330). -/
def returnStatus (w : Word) : Word := BitVec.ofNat 64 (w.toNat - (wbits w 0 1) - 4 * (wbits w 2 1) + (wbits w 1 1) + 4 * (wbits w 3 1))

/-- Return from a trap (R330). -/
def State.trapReturn (s : State) : State :=
  let x := s.me
  if x.tpc.toNat % 4 ≠ 0 then s.trap 5 x.tpc
  else (s.upd fun y => { y with sstat := returnStatus y.sstat }).jump x.tpc

/-! ## Queues of commands -/

/-- The commands of an engine, oldest first. -/
def State.cmds (s : State) (e : Engine) : List Cmd :=
  match e with
  | .copy c => (s.core c.val).copyQ
  | .layout d => (s.die d.val).layoutQ
  | .mside d => (s.die d.val).sideQ

def State.setCmds (s : State) (e : Engine) (l : List Cmd) : State :=
  match e with
  | .copy c => s.updCore c.val fun k => { k with copyQ := l }
  | .layout d => s.updDie d.val fun k => { k with layoutQ := l }
  | .mside d => s.updDie d.val fun k => { k with sideQ := l }

/-- The command with a number. -/
def State.cmd (s : State) (e : Engine) (i : Nat) : Option Cmd := (s.cmds e).find? fun c => c.id == i

def State.putCmd (s : State) (e : Engine) (c : Cmd) : State := s.setCmds e ((s.cmds e).map fun x => if x.id = c.id then c else x)

def State.dropCmd (s : State) (e : Engine) (i : Nat) : State := s.setCmds e ((s.cmds e).filter fun x => x.id != i)

/-- A command stops at a cause. -/
def Cmd.stop (c : Cmd) (cause : Nat) (faddr : Word) : Cmd :=
  { c with cause := if c.cause = 0 then cause else c.cause, faddr := if c.cause = 0 then faddr else c.faddr, finished := true }

end Sys2Proof.Machine
end

