-- ==== Sys2Proof/Machine/Operands.lean ====
section
/-! DEFINITION. What scalar operands stand for: immediates, shift amounts, quotients and bit counts (R165-R171). -/

namespace Sys2Proof.Machine

/-- A signed 15-bit immediate (R168). -/
def simm (i : BitVec 15) : Word := i.signExtend 64

/-- An unsigned 15-bit immediate (R168). -/
def uimm (i : BitVec 15) : Word := i.setWidth 64

/-- 1 or 0. -/
def truth (b : Bool) : Word := if b then 1 else 0

/-- The largest and smallest signed 64-bit values, as quotients saturate to them (R166). -/
def maxS64 : Word := 0x7FFFFFFFFFFFFFFF
def minS64 : Word := 0x8000000000000000

/-- The signed quotient, truncated and saturated (R166). -/
def quotS (a b : Word) : Word :=
  if b = 0 then (if a.msb then minS64 else maxS64)
  else
    let t := a.toInt.tdiv b.toInt
    if t > 9223372036854775807 then maxS64 else BitVec.ofInt 64 t

/-- The unsigned quotient (R166). -/
def quotU (a b : Word) : Word := if b = 0 then BitVec.allOnes 64 else BitVec.ofNat 64 (a.toNat / b.toNat)

/-- The signed remainder of the quotient before saturation (R166). -/
def modS (a b : Word) : Word := if b = 0 then a else BitVec.ofInt 64 (a.toInt - b.toInt * a.toInt.tdiv b.toInt)

/-- The unsigned remainder (R166). -/
def modU (a b : Word) : Word := if b = 0 then a else BitVec.ofNat 64 (a.toNat % b.toNat)

/-- Bits [127:64] of a product taken exactly (R166). -/
def highHalf (p : Int) : Word := BitVec.ofInt 64 (p / 18446744073709551616)

/-- Leading zeros (R167). -/
def leadingZeros (a : Word) : Nat := if a = 0 then 64 else 63 - a.toNat.log2

/-- Trailing zeros (R167). -/
def trailingZeros (a : Word) : Nat :=
  match (List.range 64).find? fun i => a.getLsbD i with
  | some i => i
  | none => 64

/-- One bits (R167). -/
def onesCount (a : Word) : Nat := (List.range 64).countP fun i => a.getLsbD i

/-- Bytes reversed (R167). -/
def bytesReversed (a : Word) : Word := BitVec.ofNat 64 (ofBytes (toBytes 8 a.toNat).reverse)

/-- The funnel shift (R167). -/
def funnel (a b : Word) (sh : Nat) : Word := BitVec.ofNat 64 ((a.toNat * 2 ^ 64 + b.toNat) / 2 ^ sh)

/-- The smaller and the larger as signed values (R165). -/
def minS (a b : Word) : Word := if a.slt b then a else b
def maxS (a b : Word) : Word := if a.slt b then b else a

/-- The smaller and the larger as unsigned values (R165). -/
def minU (a b : Word) : Word := if a.ult b then a else b
def maxU (a b : Word) : Word := if a.ult b then b else a

/-- A signed bit field: copies of bit 63 enter above it (R170). -/
def fieldS (a : Word) (pos width : Nat) : Word := sext (a.sshiftRight pos).toNat width

/-- An unsigned bit field (R170). -/
def fieldU (a : Word) (pos width : Nat) : Word := BitVec.ofNat 64 (a.toNat / 2 ^ pos % 2 ^ width)

end Sys2Proof.Machine
end

