-- ==== Sys2Proof/Machine/Flags.lean ====
section
/-! DEFINITION. The machine has no arithmetic flags: what conditions its instructions are the fields of sstat (R327), of
vtype (R24) and of vspace (R82), the compare results of masks (R222), and the clocks of its timeouts. They are read here. -/

namespace Sys2Proof.Machine

/-- Core clocks in `n` microseconds at 1.9 GHz (R5). -/
def usClocks (n : Nat) : Nat := 1900 * n

/-- A timeout field, where 0 acts as 1 (R143, R337, R360, R392). -/
def atLeastOne (n : Nat) : Nat := if n = 0 then 1 else n

/-- The rounding modes of vtype.RM (R24). -/
inductive Rounding where
  | rne | rtz | rdn | rup
  deriving DecidableEq, Repr

/-- vtype's fields (R24). -/
def Strand.df (x : Strand) : Nat := wbits x.vtype 0 4
def Strand.af (x : Strand) : Nat := wbits x.vtype 4 4
def Strand.bf (x : Strand) : Nat := wbits x.vtype 8 4
/-- The block length BL names: 8, 16, 32 or 64 elements (R24). -/
def blockLen (c : Nat) : Nat := 8 * 2 ^ (c % 4)
def Strand.bl (x : Strand) : Nat := blockLen (wbits x.vtype 12 2)
/-- The mode a two-bit RM code names (R24). -/
def roundingOf (c : Nat) : Rounding :=
  match c % 4 with
  | 0 => .rne
  | 1 => .rtz
  | 2 => .rdn
  | _ => .rup
def Strand.rm (x : Strand) : Rounding := roundingOf (wbits x.vtype 14 2)
def Strand.sr (x : Strand) : Bool := x.vtype.getLsbD 16
def Strand.sat (x : Strand) : Bool := x.vtype.getLsbD 17

/-- vspace.SPACE (R82). -/
def Strand.space (x : Strand) : Nat := wbits x.vspace 0 2

/-- A release at this scope waits for the strand's posted commands (R35). -/
def scopeWide (c : Scope) : Bool :=
  match c with
  | .strand => false
  | .core => false
  | _ => true

/-- A release by the strand whose turn it is must wait (R35). -/
def State.releaseWaits (s : State) (c : Scope) (rel : Bool) : Bool := rel && scopeWide c && s.me.posted != 0

/-- The scope a code 0 to 4 names (R99); larger codes are refused before they get here. -/
def scopeCode (n : Nat) : Scope :=
  match n with
  | 0 => .strand
  | 1 => .core
  | 2 => .die
  | 3 => .module
  | _ => .system

end Sys2Proof.Machine
end

