-- ==== Sys2Proof/Machine/Walk.lean ====
section
/-! DEFINITION. Object records, residency entries and the walk (R296-R311), and the loads and stores a walk leads to. -/

namespace Sys2Proof.Machine

/-- The bits of an element of a format code (R42); 0 for the reserved code. -/
def fmtBits (f : Nat) : Nat :=
  match f with
  | 0x0 | 0x4 | 0x5 | 0xA => 8
  | 0x1 | 0x6 | 0x7 | 0xB => 16
  | 0x2 | 0x8 | 0xC => 32
  | 0x3 | 0xD => 64
  | 0x9 => 4
  | 0xE => 2
  | _ => 0

/-! ## Records (R299-R302) -/

/-- An object record's fields (R299). -/
structure Rec where
  v : Bool
  relst : Nat
  kind : Nat
  sublog : Nat
  rank : Nat
  layout : Nat
  fmt : Nat
  perm : Nat
  x : List Nat
  rta : Nat
  tw : Nat
  th : Nat
  ola : Nat
  oln : Nat
  /-- Every field marked zero is zero. -/
  zeros : Bool
  deriving DecidableEq, Repr

/-- The fields of a record's eight words (R299). -/
def parseRec (ws : List Word) : Rec :=
  let w0 := wordAt ws 0
  let w6 := wordAt ws 6
  let w7 := wordAt ws 7
  let xs := (List.range 5).map fun i => wordAt ws (i + 1)
  { v := w0.getLsbD 63
    relst := wbits w0 24 2
    kind := wbits w0 22 2
    sublog := wbits w0 17 5
    rank := wbits w0 14 3
    layout := wbits w0 12 2
    fmt := wbits w0 8 4
    perm := wbits w0 0 7
    x := xs.map fun w => wbits w 0 42
    rta := wbits w6 0 48
    tw := wbits w6 48 5
    th := wbits w6 53 5
    ola := wbits w7 0 48
    oln := wbits w7 48 16
    zeros := wbits w0 56 7 == 0 && wbits w0 26 6 == 0 && wbits w0 7 1 == 0 && xs.all (fun w => wbits w 42 22 == 0)
      && wbits w6 58 6 == 0 }

/-- Extent `i`, 1 beyond the rank. -/
def Rec.ext (r : Rec) (i : Nat) : Nat := if i < r.rank then r.x.getD i 0 else 1

/-- The extent product. -/
def Rec.count (r : Rec) : Nat := r.ext 0 * r.ext 1 * r.ext 2 * r.ext 3 * r.ext 4

/-- Element bits. -/
def Rec.bits (r : Rec) : Nat := fmtBits r.fmt

/-- The sub-tile size S. -/
def Rec.subSize (r : Rec) : Nat := 2 ^ r.sublog

/-- Tiles along each of the two inner dimensions, and along both (R302). -/
def Rec.tilesX (r : Rec) : Nat := ceilDiv (r.ext 0) (2 ^ r.tw)
def Rec.tilesN (r : Rec) : Nat := r.tilesX * ceilDiv (r.ext 1) (2 ^ r.th)

/-- The byte size B (R302). -/
def Rec.size (r : Rec) : Nat :=
  if r.layout = 1 then r.tilesN * 2 ^ (r.tw + r.th) * r.bits / 8 * (r.ext 2 * r.ext 3 * r.ext 4)
  else ceilDiv (r.count * r.bits) 8

/-- The number of sub-tiles n (R302). -/
def Rec.subCount (r : Rec) : Nat := ceilDiv r.size r.subSize

/-- The physical position of element `e` in canonical order, counted in elements (R302). -/
def Rec.place (r : Rec) (e : Nat) : Nat :=
  if r.layout = 1 then
    let c0 := e % r.ext 0
    let c1 := e / r.ext 0 % r.ext 1
    let u := e / (r.ext 0 * r.ext 1)
    (u * r.tilesN + c1 / 2 ^ r.th * r.tilesX + c0 / 2 ^ r.tw) * 2 ^ (r.tw + r.th) + c1 % 2 ^ r.th * 2 ^ r.tw + c0 % 2 ^ r.tw
  else e

/-- A format a bit-plane record may have (R117). -/
def planeFmt (f : Nat) : Bool := [0xE, 0x9, 0x0, 0xA, 0x4, 0x5, 0x1, 0xB, 0x7, 0x6].contains f

/-- The address is mapped (R296), or lies in a window that answers with R363's refusals. -/
def State.mapped (s : State) (a : Nat) : Bool := (s.region a).isSome || s.windowRefused a

/-- A record is valid (R301). The alignments that R299 and R300 name for OLA and for KIND 11's RTA are none of R301's conditions
(log 73). -/
def State.recValid (s : State) (r : Rec) : Bool :=
  r.v && r.zeros && r.fmt != 0xF && r.relst < 2 && 1 ≤ r.rank && r.rank ≤ 5
    && (List.range 5).all (fun i => if i < r.rank then 1 ≤ r.x.getD i 0 else r.x.getD i 0 == 0)
    && r.size ≤ 1099511627776
    && (r.layout == 1 || (r.tw == 0 && r.th == 0))
    && (r.oln != 0 || r.ola == 0)
    && (r.oln == 0 || (r.fmt == 9 && r.ext 0 ≤ 4294967296 && s.mapped r.ola))
    && (if r.kind < 2 then
          12 ≤ r.sublog && r.sublog ≤ 28 && r.rta % 16 == 0 && s.mapped r.rta
            && (if r.layout = 1 then
                  2 ≤ r.rank && 2 ^ r.tw * r.bits % 512 == 0 && 2 ^ (r.tw + r.th) * r.bits ≤ r.subSize * 8
                else if r.layout ≥ 2 then
                  planeFmt r.fmt && 32768 * r.bits ≤ r.subSize && r.subSize ≤ 16777216
                    && (r.layout == 2 || [1024, 2048, 4096, 8192, 16384, 32768, 65536, 131072, 262144].contains (r.ext 0))
                else true)
        else
          r.layout == 0 && r.rank == 1 && r.sublog == 0 && r.ola == 0 && r.oln == 0
            && (if r.kind = 2 then r.fmt == 0xD && r.ext 0 ≤ 131072 && r.rta < 8 else r.rta + r.size ≤ 281474976710656))

/-! ## Residency entries (R303, R304) -/

/-- A residency entry's fields (R303). -/
structure Ent where
  loc1 : Nat
  loc0 : Nat
  gen : Nat
  state : Nat
  zeros : Bool
  deriving DecidableEq, Repr

/-- The fields of an entry's two words. -/
def parseEnt (w0 w1 : Word) : Ent :=
  { loc1 := wbits w1 16 48, loc0 := wbits w0 16 48, gen := wbits w0 8 8, state := wbits w0 0 3
    zeros := wbits w1 0 16 == 0 && wbits w0 3 5 == 0 }

/-- The two words of an entry. -/
def Ent.words (e : Ent) : List Word :=
  [BitVec.ofNat 64 (e.state + e.gen % 256 * 256 + e.loc0 * 65536), BitVec.ofNat 64 (e.loc1 * 65536)]

def State.readEnt (s : State) (a : Nat) : Ent :=
  parseEnt (BitVec.ofNat 64 (s.readNum a 8)) (BitVec.ofNat 64 (s.readNum (a + 8) 8))

/-- The residency state code of a region: TIER1, TIER2 or HOST (R304). -/
def tierOf (r : Region) : Nat :=
  match r with
  | .tier1 _ => 2
  | .lpddr => 3
  | .cxl _ => 3
  | .host => 4

/-- A location is valid for a sub-tile of the object: 4 KiB aligned and in one region, or for a bit-plane sub-tile in tier 1
whole data rows of one mitten up to row 1,007 (R304). -/
def State.locValid (s : State) (r : Rec) (loc : Nat) : Bool :=
  match s.region loc with
  | some (.tier1 k) =>
    if r.layout ≥ 2 then loc % 32768 == 0 && rowKey loc / 2560 + r.subSize / 32768 ≤ 1008
    else loc % 4096 == 0 && s.region (loc + r.subSize - 1) == some (.tier1 k)
  | some g => loc % 4096 == 0 && s.region (loc + r.subSize - 1) == some g
  | none => false

/-- The state code a location would have. -/
def State.locTier (s : State) (loc : Nat) : Nat :=
  match s.region loc with
  | some g => tierOf g
  | none => 0

/-- An entry is valid (R304). -/
def State.entValid (s : State) (r : Rec) (e : Ent) : Bool :=
  e.zeros && (e.state == 5 || e.loc1 == 0) &&
    match e.state with
    | 0 => e.loc0 == 0
    | 1 => e.loc0 == 0 || (s.locValid r e.loc0 && (s.locTier e.loc0 == 2 || s.locTier e.loc0 == 3))
    | 2 => s.locValid r e.loc0 && s.locTier e.loc0 == 2
    | 3 => s.locValid r e.loc0 && s.locTier e.loc0 == 3
    | 4 => s.locValid r e.loc0 && s.locTier e.loc0 == 4
    | 5 => s.locValid r e.loc0 && s.locValid r e.loc1
    | 6 => e.loc0 == 0 || s.locValid r e.loc0
    | _ => false

/-- The banks of a stack that a tier-1 sub-tile lies in (R14, R116). -/
def banksOf (r : Rec) (loc : Nat) : List Nat :=
  if r.layout ≥ 2 then [rowKey loc % 2560 / 40]
  else (List.range ((loc + r.subSize - 1) / 32768 - loc / 32768 + 1)).map fun i => (rowKey loc + i) % 2560 / 40

/-- The CXL window an address lies in. -/
def State.windowOf (s : State) (pa : Nat) : Option Nat :=
  match s.region pa with
  | some (.cxl g) => some g
  | _ => none

/-- The entry has a location in group `g`'s window (R365). -/
def State.entInWindow (s : State) (e : Ent) (g : Nat) : Bool :=
  s.windowOf e.loc0 == some g || (e.state == 5 && s.windowOf e.loc1 == some g)

/-- The (stack, bank) pairs whose rows a residency entry's sub-tile holds, a move's destination and a POISONED sub-tile's
location included: it stays in its bank until it is moved out or evicted (R318). -/
def entBanks (r : Rec) (e : Ent) : List (Nat × Nat) :=
  let at_ (loc : Nat) := if isTier1 loc then (banksOf r loc).map fun b => (loc / 137438953472, b) else []
  match e.state with
  | 2 => at_ e.loc0
  | 5 => at_ e.loc0 ++ at_ e.loc1
  | 6 => if e.loc0 = 0 then [] else at_ e.loc0
  | _ => []

/-- `k` added to the counts of some banks, or taken off them. -/
def State.countBanks (s : State) (ps : List (Nat × Nat)) (f : Nat → Nat) : State :=
  ps.foldl (fun (t : State) p =>
    t.updDie p.1 fun d => { d with bankCount := d.bankCount.put 0 p.2 (f (d.bankCount.get 0 p.2)) }) s

/-- The groups whose windows an entry has a location in (R365). -/
def State.entWindows (s : State) (e : Ent) : List Nat := (List.range 8).filter fun g => s.entInWindow e g

/-- The PCOUNT of some groups changed (R365). -/
def State.countWindows (s : State) (gs : List Nat) (f : Nat → Nat) : State :=
  gs.foldl (fun (t : State) g => t.updDie g fun d => { d with port := { d.port with pcount := f d.port.pcount } }) s

/-- The agents' counts follow one residency entry: what was counted for it before goes, what it holds now comes, for each bank
the tier-1 sub-tiles (R318) and for each window PCOUNT (R365; log 57). -/
def State.placeEnt (s : State) (r : Rec) (a : Nat) (e : Ent) : State :=
  let t := (s.countBanks (s.placed.get [] a) (· - 1)).countBanks (entBanks r e) (· + 1)
  let u := (t.countWindows (s.windows.get [] a) (· - 1)).countWindows (s.entWindows e) (· + 1)
  { u with placed := u.placed.put [] a (entBanks r e), windows := u.windows.put [] a (s.entWindows e) }

/-- An entry written by a translation agent, GEN advanced (R303, R306). -/
def State.writeEnt (s : State) (r : Rec) (a : Nat) (e : Ent) : State :=
  (s.placeEnt r a e).physWrite a (ofWords ({ e with gen := e.gen + 1 } : Ent).words)

/-- A placement the translation agent refuses: a bank whose DUPPOOL bit is 1 (R138, R318). -/
def State.dupRefused (s : State) (r : Rec) (loc : Nat) : Bool :=
  isTier1 loc && (banksOf r loc).any fun b => (s.die (loc / 137438953472)).duppool.getLsbD b

/-! ## The walk (R305) -/

/-- Where bits of a canonical byte lie: a physical byte, with the destination a MOVING sub-tile also writes (R317); the same of
an object without H, whose bytes in host memory lie in lines that are not cached (R344); of a device object, of which nothing is
cached (R184); or a ZERO sub-tile's zeros (R88). -/
inductive Place where
  | mem (pa : Nat) (mirror : Option Nat)
  | host (pa : Nat) (mirror : Option Nat)
  | device (pa : Nat) (mirror : Option Nat)
  | zero
  deriving DecidableEq, Repr

/-- The physical byte of a place. -/
def Place.addr (p : Place) : Option Nat :=
  match p with
  | .mem a _ => some a
  | .host a _ => some a
  | .device a _ => some a
  | .zero => none

/-- The physical bytes a write of a place reaches, a move's destination included. -/
def Place.addrs (p : Place) : List Nat :=
  match p with
  | .mem a m => a :: m.toList
  | .host a m => a :: m.toList
  | .device a m => a :: m.toList
  | .zero => []

/-- Bits [shift + width - 1 : shift] of a place. -/
structure Piece where
  place : Place
  shift : Nat
  width : Nat
  deriving DecidableEq, Repr

/-- A ZERO sub-tile a write must allocate (R311). -/
structure Alloc where
  entry : Nat
  record : Rec
  loc : Nat
  deriving DecidableEq, Repr

/-- What an access reaches. -/
inductive Reach where
  | bytes (ps : List Piece)
  | ctrl (die off : Nat)
  deriving DecidableEq, Repr

/-- A check that passed: what it reaches, the residency entries it pins, and the sub-tiles a write allocates. -/
structure Hit where
  reach : Reach
  entries : List Nat
  allocs : List Alloc
  /-- Where a write to a moving bit-plane sub-tile also goes: its destination has a layout of its own. -/
  mirrors : List Piece
  deriving DecidableEq, Repr

/-- What a check waits for: a mark's end (R310), a free pin (R309), or the row of the record or residency entry it reads
(R107, R140). -/
inductive Await where
  | mark | pin | row (a : Nat)
  deriving DecidableEq, Repr

/-- The rows a check waits for, each by its first byte. -/
def Await.rows (w : Await) : List Nat :=
  match w with
  | .row a => [rowOf a]
  | _ => []

/-- The outcome of a check: passed, failed, or held. -/
inductive Chk (α : Type) where
  | ok (a : α)
  | fail (f : Fail)
  | wait (w : Await)
  deriving DecidableEq, Repr

/-- The strand that an agent's accesses are its own of, none for an engine's (R140 item 4). -/
def Agent.holder (ag : Agent) : Option Nat :=
  if ag.source = 1 ∨ ag.source = 2 then some (2 * ag.unit + (ag.source - 1)) else none

/-- What an access needs (R85, R97, R300). -/
structure Acc where
  /-- Permission bits: 0 R, 1 W, 2 X, 3 A, 4 M, 5 H, 6 N. -/
  perms : List Nat
  writes : Bool
  /-- It may reach device memory (R97). -/
  device : Bool
  /-- It may reach control registers (R300). -/
  ctrl : Bool
  /-- It may reach bit-plane layouts (R84). -/
  planes : Bool
  /-- Its pins are an array launch's (R309). -/
  array : Bool
  deriving DecidableEq, Repr

def Acc.load : Acc := ⟨[0], false, true, false, false, false⟩
def Acc.store : Acc := ⟨[1], true, true, false, false, false⟩
def Acc.atomic : Acc := ⟨[4], true, true, false, false, false⟩
def Acc.fetch : Acc := ⟨[2], false, false, false, false, false⟩
def Acc.engRead : Acc := ⟨[0], false, false, false, false, false⟩
def Acc.engWrite : Acc := ⟨[1], true, false, false, false, false⟩

/-- The object number and the offset of an object address (R80). -/
def objNum (o : Word) : Nat := wbits o 40 24
def objOff (o : Word) : Nat := wbits o 0 40

/-- A scratchpad window's object number (R80). -/
def isWindow (o : Word) : Bool := objNum o ≥ 0xFFFFE0

/-- The physical address of record `n` of a table base, when the base gives it one (R297, R301). -/
def recAddr (tb : Word) (n : Nat) : Option Nat :=
  let l := wbits tb 56 8
  if 4 ≤ l ∧ l ≤ 24 ∧ n < 2 ^ l then some (wbits tb 6 42 * 64 + 64 * n) else none

/-- An INVREC failure (R305, R320). -/
def invRec (writes : Bool) : Fail := ⟨8, 4 + writes.toNat, 0xFF, 0⟩

/-- One field of a record or residency entry that software has changed: a walk may use the old or the new one (R307). -/
def State.oneOf {α : Type} (s : State) (a i : Nat) (old new : α) : α := if Config.cachedRecord s.ticks (64 * a + i) then old else new

/-- A record of which a cache may hold other contents than memory's: each field old or new (R307). -/
def State.mixRec (s : State) (a : Nat) (o n : Rec) : Rec where
  v := s.oneOf a 0 o.v n.v
  relst := s.oneOf a 1 o.relst n.relst
  kind := s.oneOf a 2 o.kind n.kind
  sublog := s.oneOf a 3 o.sublog n.sublog
  rank := s.oneOf a 4 o.rank n.rank
  layout := s.oneOf a 5 o.layout n.layout
  fmt := s.oneOf a 6 o.fmt n.fmt
  perm := s.oneOf a 7 o.perm n.perm
  x := (List.range 5).map fun i => s.oneOf a (8 + i) (o.x.getD i 0) (n.x.getD i 0)
  rta := s.oneOf a 13 o.rta n.rta
  tw := s.oneOf a 14 o.tw n.tw
  th := s.oneOf a 15 o.th n.th
  ola := s.oneOf a 16 o.ola n.ola
  oln := s.oneOf a 17 o.oln n.oln
  zeros := s.oneOf a 18 o.zeros n.zeros

/-- The record at an address as a walk for an address space reads it. Caches hold no invalid record (R306), and a record
changed otherwise than in PERM and RELST may be taken as invalid (R307). -/
def State.walkedRec (s : State) (asid a : Nat) : Rec :=
  let n := parseRec (toWords 8 (s.readBytes a 64))
  if !s.stale a 64 then n
  else
    let o := parseRec (toWords 8 (s.oldBytes asid a 64))
    if !s.recValid o then n
    else if { o with perm := n.perm, relst := n.relst } = n then s.mixRec a o n
    else s.oneOf a 19 { n with v := false } (s.mixRec a o n)

/-- The entry at an address as a walk for an address space reads it, of a record `r`: caches hold no invalid entry (R305-R307). -/
def State.walkedEnt (s : State) (r : Rec) (asid a : Nat) : Ent :=
  let n := s.readEnt a
  if !s.stale a 16 then n
  else
    let w := toWords 2 (s.oldBytes asid a 16)
    let o := parseEnt (wordAt w 0) (wordAt w 1)
    if !s.entValid r o then n
    else
      { loc1 := s.oneOf a 20 o.loc1 n.loc1, loc0 := s.oneOf a 21 o.loc0 n.loc0, gen := s.oneOf a 22 o.gen n.gen
        state := s.oneOf a 23 o.state n.state, zeros := s.oneOf a 24 o.zeros n.zeros }

/-- The entries of a record's residency table. -/
def Rec.hasEntry (r : Rec) (e : Nat) : Bool := decide (r.rta ≤ e) && decide (e < r.rta + 16 * r.subCount)

/-- A mark on an address of record `r` holds a walk, unless its holder has a pin the marked operation waits for: on an entry
the same oinv marks, or for a widening on any entry of the object (R76, R310). -/
def State.marked (s : State) (r : Rec) (a : Nat) (holds : List Nat) : Bool :=
  s.marks.any fun m => m.addr == a && !(holds.any fun e => match m.owner with
    | some o => s.marks.contains ⟨e, some o⟩
    | none => r.hasEntry e)

/-- Sub-tile entries with a swap pending (R316). -/
def State.swapPending (s : State) (e : Nat) : Bool := s.dies.any fun p => p.2.relocs.any fun r => r.entry == e && r.swapPending

/-- The record of an ordinary object number, or the failure of the walk before its alignment check (R305). -/
def State.walkRec (s : State) (ag : Agent) (o : Word) (writes : Bool) (holds : List Nat) : Chk Rec :=
  if objNum o = 0 then .fail (.plain 8)
  else match recAddr ag.tb (objNum o) with
  | none => .fail (invRec writes)
  | some ra =>
    if s.windowRefused ra then .fail ⟨7, writes.toNat, 0, 0⟩
    else if s.rowWaits ra ag.holder then .wait (.row ra)
    else
      let r := s.walkedRec ag.asid ra
      if s.marked r ra holds then .wait .mark
      else if s.recValid r then .ok r
      else .fail (invRec writes)

/-- The strand waits in an alaunch that has read its descriptor: its pins are an array launch's (R243, R309). -/
def Strand.launching (x : Strand) : Bool :=
  x.issued != [] && field x.iw.toNat 25 7 == 0x73 && field x.iw.toNat 0 5 == 0

/-- The pins of a list on an entry. -/
def pinsOn (l : List Pin) (e : Nat) : Nat := l.countP fun p => p.entry == e

/-- Every pin a holder other than an array launch has on an entry (R309). -/
def State.otherPins (s : State) (e : Nat) : Nat :=
  let ofList (l : List Pin) := pinsOn l e
  let cmds (l : List Cmd) := (l.map fun c => ofList c.pins).sum
  (s.cores.map fun p => cmds p.2.copyQ + (p.2.streams.map fun q => ofList q.2.pins).sum).sum
    + (s.strands.map fun p => if p.2.launching then 0 else ofList p.2.pins).sum
    + (s.dies.map fun p => cmds p.2.layoutQ + cmds p.2.sideQ + (p.2.colls.map fun c => ofList c.pins).sum
        + (p.2.farms.map fun f => match f.2 with | some x => ofList x.pins | none => 0).sum
        + (p.2.alocks.map fun a => ofList a.2.pins).sum).sum

/-- Every pin array launches have on an entry, those of an alaunch that waits included (R309). -/
def State.arrayPins (s : State) (e : Nat) : Nat :=
  (s.dies.map fun p => (p.2.launches.map fun l => pinsOn l.pins e).sum).sum
    + (s.strands.map fun p => if p.2.launching then pinsOn p.2.pins e else 0).sum

/-- The pin count of an entry that an access adds to stands at its maximum (R309). -/
def State.pinsFull (s : State) (array : Bool) (e : Nat) : Bool :=
  decide (65535 ≤ if array then s.arrayPins e else s.otherPins e)

/-- The row keys of the tier-1 rows of a sub-tile (R116, R117). -/
def Rec.rowKeys (r : Rec) (loc : Nat) : List Nat :=
  if !isTier1 loc then []
  else if r.layout ≥ 2 then (List.range (r.subSize / 32768)).map fun i => rowKey loc + 2560 * i
  else (List.range ((loc + r.subSize - 1) / 32768 - loc / 32768 + 1)).map fun i => rowKey loc + i

/-- The rows of a sub-tile, each by its first byte. -/
def Rec.rowsAt (r : Rec) (loc : Nat) : List Nat := (r.rowKeys loc).map fun key => loc / 137438953472 * 137438953472 + 32768 * key

/-- The rows of tier 1 a residency entry's sub-tile holds or has reserved. -/
def Ent.rows (e : Ent) (r : Rec) : List Nat :=
  match e.state with
  | 0 => []
  | 1 => if e.loc0 = 0 then [] else r.rowsAt e.loc0
  | 5 => r.rowsAt e.loc0 ++ r.rowsAt e.loc1
  | 6 => []
  | _ => r.rowsAt e.loc0

/-- What sub-tile `j` of a record is for an access: where its byte 0 lies, the destination of a move, zeros, or an
allocation first (R88, R305, R311). A holder that has pinned the sub-tile needs no second pin (R90). -/
def State.walkEnt (s : State) (ag : Agent) (a : Acc) (r : Rec) (j : Nat) (holds : List Nat) :
    Chk (Nat × Option Nat × Bool × Option Alloc) :=
  let ea := r.rta + 16 * j
  let writes := a.writes
  let w := writes.toNat
  if s.windowRefused ea then .fail ⟨7, w, 0, j⟩
  else if s.rowWaits ea ag.holder then .wait (.row ea)
  else
    let e := s.walkedEnt r ag.asid ea
    if !s.entValid r e then .fail ⟨8, 8 + w, e.state, j⟩
    else if s.marked r ea holds || ((s.swapPending ea || (a.array && e.state == 5)) && !holds.contains ea) then .wait .mark
    else if s.pinsFull a.array ea && !holds.contains ea then .wait .pin
    else match e.state with
    | 0 => .fail ⟨7, w, 0, j⟩
    | 1 =>
      if !writes then .ok (0, none, true, none)
      else if e.loc0 = 0 ∨ r.relst = 1 ∨ s.dupRefused r e.loc0 ∨ s.windowRefused e.loc0 then .fail ⟨7, 3, 1, j⟩
      else match (r.rowsAt e.loc0).find? fun k => s.rowWaits k ag.holder with
        | some k => .wait (.row k)
        | none => .ok (e.loc0, none, false, some ⟨ea, r, e.loc0⟩)
    | 5 => if s.region e.loc0 = some .host ∧ !s.hostUp then .fail ⟨0x12, w, 5, j⟩ else .ok (e.loc0, some e.loc1, false, none)
    | 6 => .fail ⟨9, w, 6, j⟩
    | st => if st = 4 ∧ !s.hostUp then .fail ⟨0x12, w, 4, j⟩ else .ok (e.loc0, none, false, none)

/-- Bits [b, b + n) of element `k` of a bit-plane sub-tile at `loc`: plane bits in tier 1, canonical bytes elsewhere (R117,
R118). -/
def Rec.planePieces (r : Rec) (loc k b n : Nat) : List Piece :=
  if isTier1 loc then
    let g := r.subSize / (32768 * r.bits)
    (List.range n).map fun i =>
      let row := if r.layout = 2 then r.bits * (k / 262144) + b + i else g * (b + i) + k / 262144
      ⟨.mem (loc + 83886080 * row + k % 262144 / 8) none, k % 8, 1⟩
  else [⟨.mem (loc + (k * r.bits + b) / 8) none, (k * r.bits + b) % 8, n⟩]

/-- The pieces of `cw` canonical bits at bit `p`, in a sub-tile at `base` that moves to `mirror`, and those of the destination
where it has a layout of its own. -/
def Rec.chunkPieces (r : Rec) (base : Nat) (mirror : Option Nat) (zero : Bool) (p cw : Nat) : List Piece × List Piece :=
  let el := p / r.bits
  let ph := r.place el * r.bits + p % r.bits
  let off := ph / 8 % r.subSize
  if zero then ([⟨.zero, ph % 8, cw⟩], [])
  else if r.layout ≥ 2 then
    let k := el % (r.subSize * 8 / r.bits)
    (r.planePieces base k (p % r.bits) cw, match mirror with
      | some m => r.planePieces m k (p % r.bits) cw
      | none => [])
  else ([⟨.mem (base + off) (mirror.map (· + off)), ph % 8, cw⟩], [])

/-- The pieces of `n` canonical chunks of `cw` bits from canonical bit `p` up, through residency. -/
def State.walkPieces (s : State) (ag : Agent) (a : Acc) (r : Rec) (holds : List Nat) (p cw n : Nat) : Chk Hit :=
  match n with
  | 0 => .ok ⟨.bytes [], [], [], []⟩
  | n + 1 =>
    let j := (r.place (p / r.bits) * r.bits + p % r.bits) / 8 / r.subSize
    match s.walkEnt ag a r j holds with
    | .fail f => .fail f
    | .wait p => .wait p
    | .ok (base, mirror, zero, alloc) =>
      match s.walkPieces ag a r holds (p + cw) cw n with
      | .ok ⟨.bytes ps, es, als, ms⟩ =>
        let c := r.chunkPieces base mirror zero p cw
        let ea := r.rta + 16 * j
        .ok ⟨.bytes (c.1 ++ ps), if es.contains ea then es else ea :: es,
          match alloc with
          | some a => if als.any (·.entry == ea) then als else a :: als
          | none => als, c.2 ++ ms⟩
      | x => x

/-- Pieces of whole bytes at physical addresses from `a` up. -/
def bytePieces (a n : Nat) : List Piece := (List.range n).map fun i => ⟨.mem (a + i) none, 0, 8⟩

/-- Pieces of `nbits` bits from bit `b` of the bytes at `a`: whole bytes, or bits within one byte. -/
def rawPieces (a b nbits : Nat) : List Piece :=
  if nbits < 8 then [⟨.mem a none, b, nbits⟩] else bytePieces a (nbits / 8)

/-- A piece of an object without H: a line of host memory it reaches, as a move's destination too, is not cached (R344). -/
def Piece.uncached (p : Piece) : Piece :=
  match p.place with
  | .mem a m => if (a :: m.toList).any isHost then { p with place := .host a m } else p
  | _ => p

/-- A piece of a device object (R97, R184). -/
def Piece.device (p : Piece) : Piece :=
  match p.place with
  | .mem a m => { p with place := .device a m }
  | _ => p

/-- How the record has a piece reached: a device object's without caching, and cached host memory only with H (R184, R344). -/
def Rec.piece (r : Rec) (p : Piece) : Piece := if r.kind = 1 then p.device else if bit r.perm 5 then p else p.uncached

/-- What an access of record `r` reaches. -/
def Rec.hit (r : Rec) (h : Hit) : Hit :=
  match h.reach with
  | .bytes ps => { h with reach := .bytes (ps.map r.piece), mirrors := h.mirrors.map r.piece }
  | .ctrl _ _ => h

/-- A check of an access of record `r`, with what the access reaches. -/
def Rec.reach (r : Rec) (c : Chk Hit) : Chk Hit :=
  match c with
  | .ok h => .ok (r.hit h)
  | x => x

/-- The walk of an access of `nbits` bits at bit `b` of the byte at object address `o`, which must be a multiple of `align`
(R305, R89, R172). `holds` names the entries its holder has pinned already. That an element of 8 bits or more may reach a Q4 or T2
object's half-filled last byte, as R172 has it for scalar accesses, is the model's choice for the others (log 29). -/
def State.walk (s : State) (ag : Agent) (a : Acc) (holds : List Nat) (o : Word) (align b nbits : Nat) : Chk Hit :=
  let off := objOff o
  if objNum o = 0 then .fail (.plain 8)
  else if isWindow o then
    if o.toNat % align ≠ 0 then .fail (.plain 5)
    else if 8 * off + b + nbits > 8 * 2097152 then .fail (.plain 6)
    else if a.perms.any fun p => p != 0 && p != 1 && p != 4 then .fail (.plain 8)
    else .ok ⟨.bytes (rawPieces (scratchAddr (32 * ag.die + (objNum o - 0xFFFFE0)) off) b nbits), [], [], []⟩
  else match s.walkRec ag o a.writes holds with
  | .fail f => .fail f
  | .wait p => .wait p
  | .ok r =>
    let limit := if nbits < 8 then r.count * r.bits else 8 * ceilDiv (r.count * r.bits) 8
    if o.toNat % align ≠ 0 then .fail (.plain 5)
    else if 8 * off + b + nbits > limit then .fail (.plain 6)
    else if r.kind = 3 ∧ ((List.range (if nbits < 8 then 1 else nbits / 8)).any fun i =>
        (s.region (r.rta + off + i)).isNone && !s.windowRefused (r.rta + off + i)) then .fail (.plain 6)
    else if a.perms.any (fun p => !bit r.perm p) then .fail (.plain 8)
    else if r.layout ≥ 2 ∧ !a.planes then .fail (.plain 8)
    else if (r.kind = 1 ∨ r.kind = 2) ∧ !a.device then .fail (.plain 8)
    else if r.kind ≥ 2 ∧ ag.user then .fail (.plain 8)
    else if r.kind = 2 then
      if a.ctrl ∧ nbits = 64 then .ok ⟨.ctrl r.rta off, [], [], []⟩ else .fail (.plain 8)
    else if r.kind = 3 then
      if s.windowRefused (r.rta + off) then .fail ⟨7, a.writes.toNat, 0, 0⟩
      else if s.region (r.rta + off) = some .host ∧ !s.hostUp then .fail (.plain 0x12)
      else r.reach (.ok ⟨.bytes (rawPieces (r.rta + off) b nbits), [], [], []⟩)
    else
      let cw := if r.bits < 8 then r.bits else if nbits < 8 then nbits else 8
      r.reach (s.walkPieces ag a r holds (8 * off + b) cw (nbits / cw))

/-- The pieces a hit reaches. -/
def Hit.pieces (h : Hit) : List Piece :=
  match h.reach with
  | .bytes ps => ps
  | .ctrl _ _ => []

/-! ## Performing (R98, R311) -/

/-- The physical ranges of a sub-tile at `loc`: the rows of a bit-plane sub-tile in tier 1, else one range (R117). -/
def Rec.ranges (r : Rec) (loc : Nat) : List (Nat × Nat) :=
  if isTier1 loc ∧ r.layout ≥ 2 then (List.range (r.subSize / 32768)).map fun i => (loc + 83886080 * i, 32768)
  else [(loc, r.subSize)]

/-- The rows of a tier-1 sub-tile cleared of POISON, and sealed where `sealed` says so (R139, R314, R319). -/
def State.clearRows (s : State) (r : Rec) (loc : Nat) (sealed : Bool) : State :=
  if isTier1 loc then
    s.updDie (loc / 137438953472) fun d => (r.rowKeys loc).foldl (fun (d : DieState) key =>
      { d with
        rowPoison := d.rowPoison.put false key false
        rowUnsealed := if sealed then d.rowUnsealed.put false key false else d.rowUnsealed }) d
  else s

/-- A sub-tile's bytes set to zero, its lines and rows without poison, and a bit-plane sub-tile's rows sealed (R311, R319). That
the rows of LINEAR and TILED sub-tiles lose their poison too is the model's reading (log 56). -/
def State.zeroSub (s : State) (r : Rec) (loc : Nat) : State :=
  ((r.ranges loc).foldl (fun (t : State) p => (t.physWrite p.1 (List.replicate p.2 0)).clearLines p.1 p.2) s).clearRows r loc
    (decide (2 ≤ r.layout))

/-- The fill of a ZERO sub-tile's reservation, and its entry's new state (R311). -/
def State.allocate (s : State) (a : Alloc) : State :=
  let e := s.readEnt a.entry
  if e.state ≠ 1 then s
  else
    let t := s.zeroSub a.record a.loc
    t.writeEnt a.record a.entry { e with state := t.locTier a.loc }

/-- Allocations of a write, in order. -/
def State.allocateAll (s : State) (l : List Alloc) : State := l.foldl State.allocate s

/-- The value of a piece. -/
def State.readPiece (s : State) (p : Piece) : Nat :=
  match p.place.addr with
  | some a => (s.readByte a).toNat / 2 ^ p.shift % 2 ^ p.width
  | none => 0

/-- The value pieces hold together, the first lowest. -/
def State.readPieces (s : State) (ps : List Piece) : Nat :=
  match ps with
  | [] => 0
  | p :: r => s.readPiece p + 2 ^ p.width * s.readPieces r

/-- Some piece lies in a poisoned line (R96). -/
def State.piecesPoisoned (s : State) (ps : List Piece) : Bool :=
  ps.any fun p => p.place.addr.any s.poisoned

/-- Some piece lies in a row a horizontal access must wait for (R107, R140). -/
def State.piecesWait (s : State) (ps : List Piece) (holder : Option Nat) : Bool :=
  ps.any fun p => p.place.addrs.any fun a => s.rowWaits a holder

/-- The bytes pieces reach, a move's destination included. -/
def piecesAt (ps : List Piece) : List Nat :=
  ps.flatMap fun p => p.place.addrs

/-- The wait of an access on a locked row starts its timeout (R141). -/
def State.notePieces (s : State) (ps : List Piece) (holder : Option Nat) : State :=
  (piecesAt ps).foldl (fun t a => t.noteWait a holder) s

/-- The rows an access waits for, each by its first byte. -/
def State.waitedRows (s : State) (ps : List Piece) (holder : Option Nat) : List Nat :=
  (((piecesAt ps).filter fun a => s.rowWaits a holder).map rowOf).eraseDups

/-- The wait of a strand's check: its timeout starts, and the row stands in rowWait (R140, R141). -/
def State.awaitRow (s : State) (w : Await) : State :=
  (match w with
    | .row a => s.startLockWait a (some s.cur)
    | _ => s).upd fun x => { x with rowWait := w.rows }

/-- The wait of an agent's check. -/
def State.noteAwait (s : State) (w : Await) : State :=
  match w with
  | .row a => s.noteWait a none
  | _ => s

/-- A strand's instruction whose check waits is held. -/
def State.holdFor (s : State) (w : Await) : State := (s.awaitRow w).hold

/-- An access that has passed its checks waits for rows: its timeouts start, its pins stay, and it runs again at the strand's
next turn (R90, R140, R141, R173). -/
def State.holdRows (s : State) (ps : List Piece) (pins : List Pin) : State :=
  ((s.notePieces ps (some s.cur)).upd fun x => { x with pins := pins, rowWait := s.waitedRows ps (some s.cur) }).hold

/-- The ECC effect of reading pieces (R140). -/
def State.eccPieces (s : State) (ps : List Piece) : State :=
  s.eccReadAll (ps.filterMap fun p => p.place.addr)

/-- What an access that reads and writes reads: a ZERO sub-tile is filled first, so none of its lines carries poison (R88, R311). -/
def State.opened (s : State) (h : Hit) : State := (s.allocateAll h.allocs).eccPieces h.pieces

/-- Some line that a check's access reads carries poison. -/
def State.readsPoison (s : State) (h : Hit) : Bool := (s.opened h).piecesPoisoned h.pieces

/-- The pins the strand whose turn it is keeps while its instruction waits, as the entries its walk may pass marks on (R310). -/
def State.myHolds (s : State) : List Nat := s.me.pins.map (·.entry)

/-- The pins a check of the strand whose turn it is takes. -/
def State.pinsOf (s : State) (es : List Nat) : List Pin := es.map fun e => ⟨e, wbits s.me.asid 0 12⟩

/-- A write of a byte has been dropped: a move to it has lost a destination write (R316). -/
def Reloc.lose (a : Nat) (r : Reloc) : Reloc := if r.dst ≤ a ∧ a < r.dst + r.size then { r with destFailed := true } else r

/-- Every move that a dropped write concerns. -/
def State.destLost (s : State) (a : Nat) : State :=
  { s with dies := s.dies.map fun p => (p.1, { p.2 with relocs := p.2.relocs.map (Reloc.lose a) }) }

/-- A store of `v`'s low bits into one byte's piece. A failed channel or a lost window drops it (R357, R378). -/
def State.writeByteBits (s : State) (via : Via) (a shift width v : Nat) : State :=
  let dropped : Bool := match s.region a with
    | none => decide (a < scratchBase)
    | some .lpddr => s.badChannels.contains (channelOf a)
    | some (.cxl g) => (s.die g).port.linkLost
    | some .host => !s.hostUp
    | _ => false
  if dropped then s.destLost a
  else
    let old := (s.readByte a).toNat
    (s.storeByte via a (BitVec.ofNat 8 (old - old / 2 ^ shift % 2 ^ width * 2 ^ shift + v % 2 ^ width * 2 ^ shift))).eccWrite a 1

/-- The way of a store to a byte of an object without H: to host memory it leaves no cached line (R344). -/
def Via.uncached (via : Via) (a : Nat) : Via := if isHost a then .direct else via

/-- A store into a piece: a MOVING sub-tile's write reaches source and destination (R317). -/
def State.writePiece (s : State) (via : Via) (p : Piece) (v : Nat) : State :=
  match p.place with
  | .mem a none => s.writeByteBits via a p.shift p.width v
  | .mem a (some m) => (s.writeByteBits via a p.shift p.width v).writeByteBits via m p.shift p.width v
  | .host a none => s.writeByteBits (via.uncached a) a p.shift p.width v
  | .host a (some m) => (s.writeByteBits (via.uncached a) a p.shift p.width v).writeByteBits (via.uncached m) m p.shift p.width v
  | .device a none => s.writeByteBits .direct a p.shift p.width v
  | .device a (some m) => (s.writeByteBits .direct a p.shift p.width v).writeByteBits .direct m p.shift p.width v
  | .zero => s

/-- A store of `v` into pieces, the first lowest. -/
def State.writePieces (s : State) (via : Via) (ps : List Piece) (v : Nat) : State :=
  match ps with
  | [] => s
  | p :: r => (s.writePiece via p v).writePieces via r (v / 2 ^ p.width)

/-- The damage records of the lines of pieces that a failed channel or lost window drops (R357, R378), one for each line. -/
def State.noteDroppedPieces (s : State) (ps : List Piece) : State :=
  ((piecesAt ps).foldl (fun (acc : State × List Nat) a =>
    if acc.2.contains (a / 64) then acc else (acc.1.noteDropped a, a / 64 :: acc.2)) (s, [])).1

end Sys2Proof.Machine
end

