-- ==== Sys2Proof/Machine/Image.lean ====
section
/-! DEFINITION. Register images: the layout of vsave and vrest (R249) and of the hard pre-emption image (R339), tile shapes
(R235), and lines written with their poison. -/

namespace Sys2Proof.Machine

/-! ## Tiles (R235) -/

/-- A tile configuration's fields (R235). -/
def tileFmt (c : Word) : Nat := wbits c 24 4
def tileRows (c : Word) : Nat := wbits c 8 9
def tileCols (c : Word) : Nat := wbits c 0 8 + 1

/-- The configuration is valid (R235). -/
def tileValid (c : Word) : Bool :=
  1 ≤ tileRows c && tileRows c ≤ 256 && tileFmt c != 0xE && tileFmt c != 0xF
    && tileRows c * tileCols c * fmtBits (tileFmt c) ≤ 8 * 16384
    && (tileFmt c != 9 || tileCols c % 2 == 0)

/-- Bytes of one row of a valid configuration. -/
def tileRowBytes (c : Word) : Nat := tileCols c * fmtBits (tileFmt c) / 8

/-- The configuration of a tile register. -/
def Strand.tile (x : Strand) (t : Nat) : Word := x.tcfg.get 0 t

/-! ## Registers as bytes (R249) -/

/-- A register an image can hold. -/
inductive ImgReg where
  | v (n : Nat) | k (n : Nat) | t (n : Nat) | e (n : Nat)
  deriving DecidableEq, Repr

/-- The registers the selection words name, with their sizes, for `h` lane groups (R249). -/
def imageRegs (h p0 p1 : Nat) : List (ImgReg × Nat) :=
  let sel (n w : Nat) := (List.range n).filter fun i => bit w i
  (sel 64 p0).map (fun n => (ImgReg.v n, 4096 * h)) ++ (sel 8 p1).map (fun n => (ImgReg.k n, 1024 * h))
    ++ (sel 8 (p1 / 256)).map (fun n => (ImgReg.t n, 16384)) ++ (sel 16 (p1 / 65536)).map (fun n => (ImgReg.e n, 4096))

/-- The bytes of the registers a selection names. -/
def imageSize (l : List (ImgReg × Nat)) : Nat := (l.map Prod.snd).sum

/-- The register and the byte within it at an offset behind the header. -/
def imageAt (l : List (ImgReg × Nat)) (o : Nat) : Option (ImgReg × Nat) :=
  match l with
  | [] => none
  | (r, n) :: rest => if o < n then some (r, o) else imageAt rest (o - n)

/-- A mask bit as stored; k0 reads all ones (R22). -/
def Strand.maskBit (x : Strand) (k i : Nat) : Bool := if k = 0 then true else x.k.get false (65536 * k + i)

/-- Eight mask bits as a byte. -/
def Strand.maskByte (x : Strand) (k o : Nat) : Byte :=
  BitVec.ofNat 8 ((List.range 8).map fun i => (x.maskBit k (8 * o + i)).toNat * 2 ^ i).sum

/-- Byte `o` of a register. -/
def Strand.imgByte (x : Strand) (r : ImgReg) (o : Nat) : Byte :=
  match r with
  | .v n => x.v.get 0 (32768 * n + o)
  | .k n => x.maskByte n o
  | .t n => x.t.get 0 (16384 * n + o)
  | .e n => x.e.get 0 (4096 * n + o)

/-- Byte `o` of a register written. -/
def Strand.setImgByte (x : Strand) (r : ImgReg) (o : Nat) (b : Byte) : Strand :=
  match r with
  | .v n => { x with v := x.v.put 0 (32768 * n + o) b }
  | .k n =>
    if n = 0 then x
    else { x with k := (List.range 8).foldl (fun m i => m.put false (65536 * n + 8 * o + i) (b.getLsbD i)) x.k }
  | .t n => { x with t := x.t.put 0 (16384 * n + o) b }
  | .e n => { x with e := x.e.put 0 (4096 * n + o) b }

/-- The rows of a tile that overlap its line `l`. -/
def Strand.tileRowsAt (x : Strand) (n l : Nat) : List Nat :=
  let rb := tileRowBytes (x.tile n)
  if tileValid (x.tile n) then
    (List.range (tileRows (x.tile n))).filter fun r => r * rb < 64 * l + 64 && 64 * l < (r + 1) * rb
  else []

/-- Poison of line `l` of a register's image (R249). -/
def Strand.imgPoison (x : Strand) (r : ImgReg) (l : Nat) : Bool :=
  match r with
  | .v n => x.vp.get false (64 * n + l / 8)
  | .t n => (x.tileRowsAt n l).any fun r => x.tp.get false (256 * n + r)
  | _ => false

/-- Line `l` of a register's image restored with poison `p`: it marks the receiving EG or tile rows (R249). -/
def Strand.setImgPoison (x : Strand) (r : ImgReg) (l : Nat) (p : Bool) : Strand :=
  match r with
  | .v n => { x with vp := x.vp.put false (64 * n + l / 8) (p || (l % 8 != 0 && x.vp.get false (64 * n + l / 8))) }
  | .t n =>
    let rb := tileRowBytes (x.tile n)
    (x.tileRowsAt n l).foldl (fun y r =>
      { y with tp := y.tp.put false (256 * n + r) (p || (r * rb / 64 != l && y.tp.get false (256 * n + r))) }) x
  | _ => x

/-- The image of vsave: header, then the selected registers (R249). -/
def Strand.image (x : Strand) (h p0 p1 : Nat) : List Byte :=
  let regs := imageRegs h p0 p1
  (toBytes 8 h ++ toBytes 8 p0 ++ toBytes 8 p1 ++ List.replicate 40 0)
    ++ regs.flatMap fun r => (List.range r.2).map fun o => x.imgByte r.1 o

/-- Poison of the image's lines, the header's first (R249). -/
def Strand.imagePoison (x : Strand) (h p0 p1 : Nat) : List Bool :=
  false :: (imageRegs h p0 p1).flatMap fun r => (List.range (r.2 / 64)).map fun l => x.imgPoison r.1 l

/-- The lane groups a strand holds (R20). -/
def State.groups (s : State) (n : Nat) : Nat := popcount8 ((s.core (coreOf n)).own (n % 2))

/-! ## Lines with poison -/

/-- Poison flags of consecutive whole lines from the line of `a` up (R96). -/
def State.setLines (s : State) (a : Nat) (ps : List Bool) : State :=
  match ps with
  | [] => s
  | p :: r => (s.setPoison a p).setLines (a + 64) r

/-- Whole lines written by an agent with their poison. -/
def State.writeLines (s : State) (a : Nat) (bs : List Byte) (ps : List Bool) : State := (s.physWrite a bs).setLines a ps

/-! ## The hard pre-emption image (R339) -/

/-- The scalar block: p, then the registers at the offsets R339 gives. -/
def Strand.scalarBlock (x : Strand) (p : Word) : List Byte :=
  let code := match x.st with
    | .wait => 1
    | .svcwait => 2
    | _ => 0
  let ws : List Word := (List.range 32).map (fun i => x.getG (Fin.ofNat 32 i))
    ++ [p, x.sstat, x.tcause, x.tval, x.tpc, x.tinst, x.tvec, x.vl, x.vtype, x.vstart, x.vbase, x.vsend, x.vspace, x.vgrant,
        x.vfarm, x.asid, x.ortb]
    ++ (List.range 8).map (fun i => x.tcfg.get 0 i) ++ [x.instret, BitVec.ofNat 64 (256 + code)]
  ofWords ws ++ List.replicate 3624 0

end Sys2Proof.Machine
end

