-- ==== Sys2Proof/Machine/Barrier.lean ====
section
/-! DEFINITION. Barrier words (R104) and hard pre-emption (R338-R342), which a waiting bwait meets (R259). -/

namespace Sys2Proof.Machine

/-! ## Barrier words (R104) -/

/-- A barrier word's fields. -/
structure Bar where
  expect : Nat
  arrived : Nat
  failed : Bool
  cause : Nat
  waiters : Nat
  bytes : Nat
  deriving DecidableEq, Repr

def parseBar (w : Nat) : Bar :=
  { expect := field w 0 32, arrived := field w 32 32, failed := bit w 64, cause := field w 72 8, waiters := field w 96 32,
    bytes := field w 128 64 }

/-- The 512-bit word; reserved bits are written as zero. -/
def Bar.word (b : Bar) : Nat :=
  b.expect % 2 ^ 32 + b.arrived % 2 ^ 32 * 2 ^ 32 + b.failed.toNat * 2 ^ 64 + b.cause % 256 * 2 ^ 72
    + b.waiters % 2 ^ 32 * 2 ^ 96 + b.bytes % 2 ^ 64 * 2 ^ 128

/-- An arrival that adds `n` to BYTES (R104). -/
def Bar.arrive (n : Nat) (b : Bar) : Bar := { b with arrived := b.arrived + 1, bytes := b.bytes + n }

/-- A failure: CAUSE only when FAIL was 0 (R104). -/
def Bar.fail (cause n : Nat) (b : Bar) : Bar :=
  { b with failed := true, cause := if b.failed then b.cause else cause, bytes := b.bytes + n }

/-- A wait on it is released (R104). -/
def Bar.released (b : Bar) : Bool := decide (b.expect ≤ b.arrived) || b.failed

/-- The status a wait or test returns (R257). -/
def Bar.status (b : Bar) : Word :=
  if b.released then (if b.failed then BitVec.ofNat 64 (0x100 + b.cause) else 1) else 0

/-- What a barrier word needs: W and M, ordinary memory or a window, 64-byte alignment (R104). -/
def Acc.barrier : Acc := ⟨[1, 4], true, false, false, false, false⟩

/-- The check of a barrier word. -/
def State.walkBarrier (s : State) (ag : Agent) (holds : List Nat) (o : Word) : Chk Hit := s.walk ag .barrier holds o 64 0 512

/-- A change of the barrier word that pieces name, whose ECC has been checked (R104, R140). -/
def State.barChange (s : State) (ps : List Piece) (f : Bar → Bar) : State :=
  let t := s.noteDroppedPieces ps
  t.writePieces .l2 ps (f (parseBar (t.readPieces ps))).word

/-- An agent's change of a barrier word it has pinned; 0 names none (R243, R245). -/
def State.barrierUpd (s : State) (ag : Agent) (holds : List Nat) (o : Word) (f : Bar → Bar) : State :=
  if o = 0 then s
  else match s.walkBarrier ag holds o with
  | .ok h => match h.reach with
    | .bytes ps => (s.opened h).barChange ps f
    | .ctrl _ _ => s
  | _ => s

/-- An agent's access that a check allows must wait: for a row, or for a mark (R107, R140, R310). -/
def State.chkWaits (s : State) (c : Chk Hit) : Bool :=
  match c with
  | .ok h => s.piecesWait h.pieces none
  | .wait _ => true
  | .fail _ => false

/-- Its wait starts the timeouts of locked rows (R141). -/
def State.noteChk (s : State) (c : Chk Hit) : State :=
  match c with
  | .ok h => s.notePieces h.pieces none
  | .wait w => s.noteAwait w
  | .fail _ => s

/-- An agent's step that changes a barrier word, when the word can be reached; until then the agent waits (R107, R140, R141). -/
def State.whenBar (s : State) (ag : Agent) (holds : List Nat) (o : Word) (k : State) : State :=
  if o != 0 && s.chkWaits (s.walkBarrier ag holds o) then s.noteChk (s.walkBarrier ag holds o) else k

/-- A change of the barrier word at a physical address (R313); one in host memory is not cached (R344). -/
def State.barrierPhys (s : State) (a : Nat) (f : Bar → Bar) : State :=
  let ps := (bytePieces a 64).map Piece.uncached
  if a = 0 then s else (s.eccPieces ps).barChange ps f

/-- An agent's step that changes the barrier word at a physical address, when its row lets it. -/
def State.whenPhys (s : State) (a n : Nat) (k : State) : State :=
  if s.piecesWait (bytePieces a n) none then s.notePieces (bytePieces a n) none else k

/-! ## Hard pre-emption (R338-R342) -/

/-- The strand waits in a bwait: major 0x72, function 2 (R257). -/
def Strand.inBwait (x : Strand) : Bool :=
  x.st == .wait && x.held && field x.iw.toNat 25 7 == 0x72 && field x.iw.toNat 0 5 == 2

/-- WAITERS of the barrier word a strand stops waiting on falls by 1 (R259). -/
def State.stopWaiting (s : State) (n : Nat) : State :=
  let x := s.strand n
  if x.inBwait then
    s.barrierUpd (s.agentOf n) [] (x.getG (Fin.ofNat 32 (field x.iw.toNat 15 5))) fun b => { b with waiters := b.waiters - 1 }
  else s

/-- The service record of a strand in SVCWAIT is withdrawn: WD := 1 (R342). -/
def State.withdraw (s : State) (n : Nat) : State :=
  match (s.strand n).svcRec with
  | some r => s.storeByte .l2 (r + 1) (s.readByte (r + 1) ||| 2#8)
  | none => s

/-- The strand's save image address, 0 where PSAVE names none in tier 1 or LPDDR-6 (R337). -/
def State.saveAddr (s : State) (n : Nat) : Nat :=
  let a := wbits ((s.die (dieOf n)).psave.get 0 (n % 64)) 6 42 * 64
  match s.region a with
  | some (.tier1 _) => a
  | some .lpddr => a
  | _ => 0

/-- The rows of its image, none where it has none (R339, R341). -/
def State.saveRows (s : State) (n : Nat) : List Nat :=
  let pa := s.saveAddr n
  if (s.strand n).inFarm ∨ pa = 0 then []
  else rowsOf pa (4160 + imageSize (imageRegs (s.groups n) (2 ^ 64 - 1) (2 ^ 32 - 1)))

/-- The strand stops: a farm strand leaves its farm (R341); another's image is written where PSAVE names one, whole lines by
the copy engine (R199, R338), and it enters its handler with HP = 1. While a vsave or vrest runs, nothing happens yet (R249). -/
def State.stopStrand (s : State) (n : Nat) : State :=
  let x := s.strand n
  if s.saving n then s
  else if x.inFarm then ((s.unmark n).stopWaiting n).enterIdle n
  else
    let s1 := ((s.unmark n).stopWaiting n).withdraw n
    let pa := s1.saveAddr n
    let h := s1.groups n
    let s2 := if pa = 0 then s1
      else (s1.writeLines pa (x.scalarBlock x.pc) (List.replicate 64 false)).writeLines (pa + 4096)
        (x.image h (2 ^ 64 - 1) (2 ^ 32 - 1)) (x.imagePoison h (2 ^ 64 - 1) (2 ^ 32 - 1))
    let tinst := if x.held || x.st == .svcwait then x.iw else 0
    s2.takeTrap n ⟨0x0B, BitVec.ofNat 64 pa, x.pc, tinst, true, false⟩

/-- The barrier word that strand `n` waits on cannot be reached in this turn. -/
def State.waiterBlocked (s : State) (n : Nat) : Bool :=
  let x := s.strand n
  x.inBwait && s.chkWaits (s.walkBarrier (s.agentOf n) [] (x.getG (Fin.ofNat 32 (field x.iw.toNat 15 5))))

/-- A strand is pre-empted hard (R338), once the rows of its image let it be written (R107, R140). A trap decided before is taken
first, and the strand stops in its handler (R326). -/
def State.hardPreempt (s : State) (n : Nat) : State :=
  let x := s.strand n
  if x.st = .idle then s
  else if s.waiterBlocked n then
    s.whenBar (s.agentOf n) [] (x.getG (Fin.ofNat 32 (field x.iw.toNat 15 5))) s
  else s.whenFree (s.saveRows n) (match x.pend with
    | some t => if s.saving n then s else (s.enterTrap n t).stopStrand n
    | none => s.stopStrand n)

/-- The request has stood for PTMO.TMO microseconds (R338). -/
def State.preemptDue (s : State) (n : Nat) : Bool :=
  let x := s.strand n
  x.preq && decide (x.preqAt + usClocks (atLeastOne (s.die (dieOf n)).ptmo.toNat) ≤ s.now)

/-- A pre-emption request: set, unless the strand is IDLE (R335). -/
def State.request (s : State) (n : Nat) : State :=
  s.updStrand n fun x =>
    if x.st = .idle then { x with preq := false }
    else { x with preq := true, preqAt := if x.preq then x.preqAt else s.now }

end Sys2Proof.Machine
end

