-- ==== Sys2Proof/Machine/Formats.lean ====
section
/-! DEFINITION. Number formats, rounding, conversion, quantisation and block dot products (R42-R71). Values are exact: a
finite number is a sign, a natural and a power of two; every rounding is one call of `encode`. -/

namespace Sys2Proof.Machine

/-! ## Integers (R44, R62) -/

/-- Integer format codes (R42). -/
def isInt (f : Nat) : Bool := f < 4 || (10 ≤ f && f < 14)
/-- Signed integer format codes. -/
def isSignedInt (f : Nat) : Bool := f < 4
/-- Binary float format codes (R42). -/
def isFloat (f : Nat) : Bool := 4 ≤ f && f ≤ 8

/-- The signed value of an `n`-bit pattern. -/
def twos (n v : Nat) : Int := if bit v (n - 1) then (v : Int) - (2 ^ n : Nat) else v

/-- The integer value of an element (R214). -/
def intValue (f v : Nat) : Int := if isSignedInt f then twos (fmtBits f) v else v

/-- An `n`-bit pattern of an integer, wrapped (R44). -/
def wrapBits (n : Nat) (i : Int) : Nat := (i % ((2 ^ n : Nat) : Int)).toNat

/-- The least and greatest values of an integer format. -/
def intMin (f : Nat) : Int := if isSignedInt f then -((2 ^ (fmtBits f - 1) : Nat) : Int) else 0
def intMax (f : Nat) : Int := if isSignedInt f then ((2 ^ (fmtBits f - 1) : Nat) : Int) - 1 else ((2 ^ fmtBits f : Nat) : Int) - 1

/-- An integer clamped to a format's range (R44). -/
def clampInt (f : Nat) (i : Int) : Int := if i < intMin f then intMin f else if intMax f < i then intMax f else i

/-- An integer written to a format: wrapped, or clamped under SAT (R44, R217). -/
def putInt (f : Nat) (sat : Bool) (i : Int) : Nat := wrapBits (fmtBits f) (if sat then clampInt f i else i)

/-! ## Floating-point values (R45-R47) -/

/-- A value: a NaN with its mantissa as 23 bits from the top (the quiet bit is bit 22), an infinity, or
(-1)^neg x m x 2^e. -/
inductive ExactNum where
  | nan (neg : Bool) (mant : Nat)
  | inf (neg : Bool)
  | fin (neg : Bool) (m : Nat) (e : Int)
  deriving DecidableEq, Repr

/-- Mantissa bits and exponent bits of a float format (R45). -/
def mantBits (f : Nat) : Nat :=
  match f with
  | 4 => 3
  | 5 => 2
  | 6 => 7
  | 7 => 10
  | _ => 23
def expBits (f : Nat) : Nat :=
  match f with
  | 4 => 4
  | 5 => 5
  | 6 => 8
  | 7 => 5
  | _ => 8
/-- The bias (R45). -/
def biasOf (f : Nat) : Nat := 2 ^ (expBits f - 1) - 1

/-- The value of a code (R45, R46). -/
def decodeFloat (f c : Nat) : ExactNum :=
  let mb := mantBits f
  let neg := bit c (mb + expBits f)
  let ex := c / 2 ^ mb % 2 ^ expBits f
  let m := c % 2 ^ mb
  let top := 2 ^ expBits f - 1
  let fin := if ex = 0 then ExactNum.fin neg m (1 - (biasOf f : Int) - mb)
    else .fin neg (2 ^ mb + m) ((ex : Int) - biasOf f - mb)
  if ex = top then
    if f = 4 then (if m = 7 then .nan neg 0x700000 else fin)
    else if m = 0 then .inf neg else .nan neg (m * 2 ^ (23 - mb))
  else fin

/-- The canonical NaN (R47). -/
def ExactNum.canonical : ExactNum := .nan false 0x400000

/-- A NaN with its quiet bit set (R50). -/
def ExactNum.quiet (x : ExactNum) : ExactNum :=
  match x with
  | .nan s m => .nan s (m ||| 0x400000)
  | y => y

def ExactNum.isNan (x : ExactNum) : Bool :=
  match x with
  | .nan _ _ => true
  | _ => false
def ExactNum.isInf (x : ExactNum) : Bool :=
  match x with
  | .inf _ => true
  | _ => false
def ExactNum.neg (x : ExactNum) : Bool :=
  match x with
  | .nan s _ => s
  | .inf s => s
  | .fin s _ _ => s
/-- A zero of either sign. -/
def ExactNum.isZero (x : ExactNum) : Bool :=
  match x with
  | .fin _ 0 _ => true
  | _ => false
/-- The value with its sign turned (a NaN stays as it is). -/
def ExactNum.minus (x : ExactNum) : ExactNum :=
  match x with
  | .nan s m => .nan s m
  | .inf s => .inf (!s)
  | .fin s m e => .fin (!s) m e

/-! ## Rounding (R52, R58, R60) -/

/-- How a value is rounded: under RM, or stochastically with a 16-bit random value (R58). -/
inductive How where
  | rm (r : Rounding)
  | stoch (r : Nat)
  deriving DecidableEq, Repr

/-- Whether `m / 2^sh`, with quotient `q`, rounds away from zero (R52, R58). -/
def roundsUp (how : How) (neg : Bool) (m sh q : Nat) : Bool :=
  if sh = 0 then false
  else if m.log2 + 20 < sh then
    m != 0 && (match how with
      | .rm .rdn => neg
      | .rm .rup => !neg
      | _ => false)
  else
    let r := m % 2 ^ sh
    match how with
    | .rm .rne => decide (2 ^ sh < 2 * r) || (2 * r == 2 ^ sh && q % 2 == 1)
    | .rm .rtz => false
    | .rm .rdn => neg && r != 0
    | .rm .rup => !neg && r != 0
    | .stoch v => decide (v < r * 65536 / 2 ^ sh)

/-- The rounded quotient of `m / 2^sh`. -/
def roundShift (how : How) (neg : Bool) (m sh : Nat) : Nat :=
  let q := if m.log2 + 20 < sh then 0 else m / 2 ^ sh
  if roundsUp how neg m sh q then q + 1 else q

/-- The code without its sign of `m x 2^e` rounded to a format with an unbounded exponent above (R52): it may lie beyond the
largest finite code. -/
def roundCode (f : Nat) (how : How) (neg : Bool) (m : Nat) (e : Int) : Nat :=
  if m = 0 then 0
  else
    let mb := mantBits f
    let emin : Int := 1 - (biasOf f : Int)
    let u : Int := (if (m.log2 : Int) + e < emin then emin else (m.log2 : Int) + e) - mb
    let q := if u ≤ e then m * 2 ^ (e - u).toNat else roundShift how neg m (u - e).toNat
    (u - (emin - mb)).toNat * 2 ^ mb + q

/-- The largest finite code without its sign (R45, R46). -/
def maxCode (f : Nat) : Nat := if f = 4 then 0x7E else (2 ^ expBits f - 1) * 2 ^ mantBits f - 1

/-- The sign bit of a format. -/
def signBit (f : Nat) (neg : Bool) : Nat := neg.toNat * 2 ^ (mantBits f + expBits f)

/-- The code of an infinite value; E4M3 has none (R60). -/
def infCode (f : Nat) (sat neg : Bool) : Nat :=
  signBit f neg + (if f = 4 then (if sat then 0x7E else 0x7F) else maxCode f + 1)

/-- The code of a finite overflow (R60). -/
def overflowCode (f : Nat) (how : How) (sat neg : Bool) : Nat :=
  let toInf := match how with
    | .rm .rtz => false
    | .rm .rdn => neg
    | .rm .rup => !neg
    | _ => true
  if sat || !toInf then signBit f neg + maxCode f
  else if f = 4 then signBit f neg + 0x7F else signBit f neg + maxCode f + 1

/-- The code of a NaN: its top payload bits are kept (R61). -/
def nanCode (f : Nat) (neg : Bool) (mant : Nat) : Nat :=
  if f = 4 then signBit f neg + 0x7F
  else
    let m := mant / 2 ^ (23 - mantBits f)
    signBit f neg + maxCode f + 1 + (if m = 0 then 1 else m)

/-- A value written to a float format (R52, R58, R60, R61). -/
def encodeFloat (f : Nat) (how : How) (sat : Bool) (x : ExactNum) : Nat :=
  match x with
  | .nan s m => nanCode f s m
  | .inf s => infCode f sat s
  | .fin s m e =>
    let c := roundCode f how s m e
    if maxCode f < c then overflowCode f how sat s else signBit f s + c

/-- A code converted between float formats; E5M2 sources are quieted, and equal formats keep every code (R61, R224). -/
def convertFloat (af df : Nat) (how : How) (sat : Bool) (c : Nat) : Nat :=
  if af = df then c
  else
    let x := decodeFloat af c
    encodeFloat df how sat (if af = 5 then x.quiet else x)

/-- A number rounded to an integer (R52, R62). -/
def roundToInt (r : Rounding) (neg : Bool) (m : Nat) (e : Int) : Int :=
  let q := if 0 ≤ e then m * 2 ^ e.toNat else roundShift (.rm r) neg m (-e).toNat
  if neg then -(q : Int) else q

/-- A float value written to an integer format: clamped whatever SAT is (R62). A magnitude of 2^64 and more is clamped before
its digits are formed. -/
def floatToInt (df : Nat) (r : Rounding) (x : ExactNum) : Nat :=
  let i := match x with
    | .nan _ _ => 0
    | .inf s => if s then intMin df else intMax df
    | .fin s m e => if m ≠ 0 ∧ 64 < (m.log2 : Int) + e then (if s then intMin df else intMax df) else roundToInt r s m e
  wrapBits (fmtBits df) (clampInt df i)

/-- An integer as a value. -/
def ExactNum.ofInt (i : Int) : ExactNum := .fin (i < 0) i.natAbs 0

/-- vcvt's conversion of one element (R61, R62, R224): a wider integer format takes the extended value whatever SAT is. -/
def convert (af df : Nat) (how : How) (r : Rounding) (sat : Bool) (c : Nat) : Nat :=
  if isFloat af then
    if isFloat df then convertFloat af df how sat c else floatToInt df r (decodeFloat af c)
  else if isFloat df then encodeFloat df how sat (ExactNum.ofInt (intValue af c))
  else if fmtBits af < fmtBits df then wrapBits (fmtBits df) (intValue af c)
  else putInt df sat (intValue af c)

/-! ## Arithmetic (R49, R50) -/

/-- The first NaN of the operands in R50's order, quieted. -/
def firstNan (l : List ExactNum) : Option ExactNum := (l.find? ExactNum.isNan).map ExactNum.quiet

/-- A signed dyadic value as an integer over 2^-k. -/
def scaledInt (neg : Bool) (m : Nat) (e k : Int) : Int :=
  let v : Int := (m * 2 ^ (e + k).toNat : Nat)
  if neg then -v else v

/-- The exact sum of two finite values, with the sign R49 gives a zero. -/
def addFin (r : Rounding) (s1 : Bool) (m1 : Nat) (e1 : Int) (s2 : Bool) (m2 : Nat) (e2 : Int) : ExactNum :=
  if m1 = 0 ∧ m2 = 0 then .fin (if s1 = s2 then s1 else r == .rdn) 0 0
  else if m1 = 0 then .fin s2 m2 e2
  else if m2 = 0 then .fin s1 m1 e1
  else
    let e := if e1 < e2 then e1 else e2
    let t := scaledInt s1 m1 e1 (-e) + scaledInt s2 m2 e2 (-e)
    if t = 0 then .fin (r == .rdn) 0 0 else .fin (t < 0) t.natAbs e

/-- The exact sum (R49, R50); NaNs in the order of the operands. -/
def ExactNum.add (r : Rounding) (x y : ExactNum) : ExactNum :=
  match firstNan [x, y] with
  | some n => n
  | none =>
    match x, y with
    | .inf a, .inf b => if a = b then .inf a else .canonical
    | .inf a, _ => .inf a
    | _, .inf b => .inf b
    | .fin s1 m1 e1, .fin s2 m2 e2 => addFin r s1 m1 e1 s2 m2 e2
    | _, _ => .canonical

/-- The exact product (R49, R50). -/
def ExactNum.mul (x y : ExactNum) : ExactNum :=
  match firstNan [x, y] with
  | some n => n
  | none =>
    let s := x.neg != y.neg
    match x, y with
    | .fin _ m1 e1, .fin _ m2 e2 => .fin s (m1 * m2) (e1 + e2)
    | _, _ => if x.isZero || y.isZero then .canonical else .inf s

/-- d + a x b, exactly; NaNs in the order a, b, d (R50). -/
def ExactNum.fma (r : Rounding) (a b d : ExactNum) : ExactNum :=
  match firstNan [a, b, d] with
  | some n => n
  | none => match ExactNum.mul a b with
    | .nan _ _ => .canonical
    | p => ExactNum.add r p d

/-- d - a x b (R219). -/
def ExactNum.fms (r : Rounding) (a b d : ExactNum) : ExactNum :=
  match firstNan [a, b, d] with
  | some n => n
  | none => match ExactNum.mul a b with
    | .nan _ _ => .canonical
    | p => ExactNum.add r p.minus d

/-- `n / d` x 2^e to 64 and more bits, with a last bit that stands for the rest (every rounding then falls as for the exact
quotient). -/
def sticky (s : Bool) (n d : Nat) (e : Int) : ExactNum :=
  let k := d.log2 + 64
  let q := n * 2 ^ k / d
  .fin s (2 * q + (if n * 2 ^ k % d = 0 then 0 else 1)) (e - k - 1)

/-- a / b (R219). -/
def ExactNum.div (a b : ExactNum) : ExactNum :=
  match firstNan [a, b] with
  | some n => n
  | none =>
    let s := a.neg != b.neg
    match a, b with
    | .inf _, .inf _ => .canonical
    | .inf _, _ => .inf s
    | _, .inf _ => .fin s 0 0
    | .fin _ m1 e1, .fin _ m2 e2 =>
      if m2 = 0 then (if m1 = 0 then .canonical else .inf s)
      else sticky s m1 m2 (e1 - e2)
    | _, _ => .canonical

/-- The integer square root, bit by bit from bit `k - 1` down, above `r`. -/
def isqrtFrom (n k r : Nat) : Nat :=
  match k with
  | 0 => r
  | k + 1 => isqrtFrom n k (if (r + 2 ^ k) * (r + 2 ^ k) ≤ n then r + 2 ^ k else r)
def isqrt (n : Nat) : Nat := isqrtFrom n (n.log2 / 2 + 1) 0

/-- √(m x 2^e), to 64 and more bits and a last bit for the rest; `e` is made even. -/
def sqrtFin (m : Nat) (e : Int) : ExactNum :=
  let (m, e) := if e % 2 = 0 then (m, e) else (2 * m, e - 1)
  let n := m * 2 ^ 128
  let q := isqrt n
  .fin false (2 * q + (if q * q = n then 0 else 1)) (e / 2 - 65)

/-- √a (R219). -/
def ExactNum.sqrt (a : ExactNum) : ExactNum :=
  match a with
  | .nan s m => (ExactNum.nan s m).quiet
  | .inf false => .inf false
  | .inf true => .canonical
  | .fin s m e => if m = 0 then .fin s 0 0 else if s then .canonical else sqrtFin m e

/-- x < y for numbers (R222): zeros are equal, a NaN is not below anything. -/
def ExactNum.lt (x y : ExactNum) : Bool :=
  match x, y with
  | .nan _ _, _ => false
  | _, .nan _ _ => false
  | .inf a, .inf b => a && !b
  | .inf a, _ => a
  | _, .inf b => !b
  | .fin s1 m1 e1, .fin s2 m2 e2 =>
    let e := if e1 < e2 then e1 else e2
    decide (scaledInt s1 m1 e1 (-e) < scaledInt s2 m2 e2 (-e))

/-- x = y for numbers (R222). -/
def ExactNum.eq (x y : ExactNum) : Bool := !x.isNan && !y.isNan && !x.lt y && !y.lt x

/-- x stands before y for minimum and maximum: -0 below +0 (R70). -/
def ExactNum.before (x y : ExactNum) : Bool := x.lt y || (x.eq y && x.neg && !y.neg)

/-- The minimum or maximum (R70). -/
def ExactNum.pick (smaller : Bool) (x y : ExactNum) : ExactNum :=
  if x.isNan then (if y.isNan then .canonical else y)
  else if y.isNan then x
  else if smaller then (if y.before x then y else x) else (if x.before y then y else x)

/-! ## Estimates (R221) -/

/-- A finite value rounded to 12 significant bits, RNE, exponent unbounded. -/
def round12 (s : Bool) (m : Nat) (e : Int) : ExactNum :=
  if m.log2 < 12 then .fin s m e
  else
    let sh := m.log2 - 11
    .fin s (roundShift (.rm .rne) s m sh) (e + sh)

def ExactNum.round12 (x : ExactNum) : ExactNum :=
  match x with
  | .fin s m e => Sys2Proof.Machine.round12 s m e
  | y => y

/-- 1 / a. -/
def ExactNum.recip (a : ExactNum) : ExactNum :=
  match a with
  | .nan s m => (ExactNum.nan s m).quiet
  | .inf s => .fin s 0 0
  | .fin s m e => if m = 0 then .inf s else (sticky s 1 m (-e)).round12

/-- 1 / √a. -/
def ExactNum.rsqrt (a : ExactNum) : ExactNum :=
  match a with
  | .nan s m => (ExactNum.nan s m).quiet
  | .inf false => .fin false 0 0
  | .inf true => .canonical
  | .fin s m e =>
    if m = 0 then .inf s
    else if s then .canonical
    else
      let (m, e) := if e % 2 = 0 then (m, e) else (2 * m, e - 1)
      let k := m.log2 + 64
      let q := isqrt (2 ^ (2 * k) / m)
      (ExactNum.fin false (2 * q + (if q * q * m = 2 ^ (2 * k) then 0 else 1)) (-(e / 2) - k - 1)).round12

/-- 2^f in fixed point with 160 fraction bits: `r` is 2^(2^-i), `acc` the product so far, and `f` the fraction's remaining
bits, the next one at weight 2^n. -/
def expBitsLoop (n f r acc : Nat) : Nat :=
  match n with
  | 0 => acc
  | n + 1 =>
    let r' := isqrt (r * 2 ^ 160)
    expBitsLoop n f r' (if bit f n then acc * r' / 2 ^ 160 else acc)

/-- 2^a (R221): the fraction is taken to 128 bits. -/
def ExactNum.exp2 (a : ExactNum) : ExactNum :=
  match a with
  | .nan s m => (ExactNum.nan s m).quiet
  | .inf false => .inf false
  | .inf true => .fin false 0 0
  | .fin s m e =>
    if m = 0 ∨ 0 ≤ e then .fin false 1 (scaledInt s m e 0)
    else
      let n := (-e).toNat
      let whole := if s then -(((m + 2 ^ n - 1) / 2 ^ n : Nat) : Int) else ((m / 2 ^ n : Nat) : Int)
      let frac := if s then (2 ^ n - m % 2 ^ n) % 2 ^ n else m % 2 ^ n
      if frac = 0 then .fin false 1 whole
      else
        let f := if 128 < n then frac / 2 ^ (n - 128) else frac * 2 ^ (128 - n)
        (ExactNum.fin false (2 * expBitsLoop 128 f (2 * 2 ^ 160) (2 ^ 160) + 1) (whole - 161)).round12

/-- Fraction bits of log2 x, `n` of them, for x in [1, 2) in fixed point with 256 fraction bits. -/
def logBitsLoop (n x acc : Nat) : Nat :=
  match n with
  | 0 => acc
  | n + 1 =>
    let y := x * x / 2 ^ 256
    if 2 ^ 257 ≤ y then logBitsLoop n (y / 2) (2 * acc + 1) else logBitsLoop n y (2 * acc)

/-- log2 a (R221). -/
def ExactNum.log2 (a : ExactNum) : ExactNum :=
  match a with
  | .nan s m => (ExactNum.nan s m).quiet
  | .inf false => .inf false
  | .inf true => .canonical
  | .fin s m e =>
    if m = 0 then .inf true
    else if s then .canonical
    else
      let l := m.log2
      let x := m * 2 ^ 256 / 2 ^ l
      let whole : Int := (l : Int) + e
      if m = 2 ^ l then (if whole = 0 then .fin false 0 0 else ExactNum.ofInt whole)
      else
        let t : Int := whole * 2 ^ 112 + (logBitsLoop 112 x 0 : Nat)
        if 0 ≤ t then (ExactNum.fin false (2 * t.toNat + 1) (-113)).round12
        else (ExactNum.fin true (2 * (-t - 1).toNat + 1) (-113)).round12

/-! ## Q4 and T2 (R51, R53-R57, R63) -/

/-- Magnitudes of a code type's codes in ascending order, as integers I (R53); type 4 is T2. -/
def magnitudes (ty : Nat) (neg : Bool) : List Nat :=
  match ty with
  | 0 => if neg then [0, 1, 2, 3, 4, 5, 6, 7, 8] else [0, 1, 2, 3, 4, 5, 6, 7]
  | 1 => [0, 1, 2, 3, 4, 6, 8, 12]
  | 2 => [0, 1, 2, 4, 8, 16, 32, 64]
  | 3 => [0, 1, 2, 3, 4, 8, 16, 32]
  | _ => [0, 1]

/-- The binary point p of a code type (R53). -/
def pointOf (ty : Nat) : Nat :=
  match ty with
  | 1 => 1
  | 2 => 3
  | _ => 0

/-- M of a code type (R53, R54). -/
def maxMag (ty : Nat) : Nat :=
  match ty with
  | 0 => 7
  | 1 => 6
  | 2 => 8
  | 3 => 32
  | _ => 1

/-- The code with magnitude index `j` (R51, R53). -/
def magCode (ty : Nat) (neg : Bool) (j : Nat) : Nat :=
  if ty = 0 then (if neg then (16 - j) % 16 else j) else if ty = 4 then neg.toNat * 2 + j else neg.toNat * 8 + j

/-- Sign and magnitude index of a code. -/
def codeSign (ty c : Nat) : Bool := if ty = 4 then bit c 1 else bit c 3
def codeIndex (ty c : Nat) : Nat := if ty = 0 then (if bit c 3 then 16 - c else c) else if ty = 4 then c % 2 else c % 8

/-- The integer a Q4 code stands for (R53). -/
def codeInt (ty c : Nat) : Int :=
  let v := (magnitudes ty (codeSign ty c)).getD (codeIndex ty c) 0
  if codeSign ty c then -(v : Int) else v

/-- The magnitude index of Y = n / d: the value set's nearest member (R56); saturating at the last. -/
def pickMag (how : How) (neg : Bool) (n d : Nat) (j : Nat) (l : List Nat) : Nat :=
  match l with
  | [] => j
  | [_] => j
  | a :: b :: r =>
    if b * d ≤ n then pickMag how neg n d (j + 1) (b :: r)
    else if n ≤ a * d then j
    else
      let up := match how with
        | .rm .rne => decide ((a + b) * d < 2 * n) || ((a + b) * d == 2 * n && j % 2 == 1)
        | .rm .rtz => false
        | .rm .rdn => neg
        | .rm .rup => !neg
        | .stoch v => decide (v < (n - a * d) * 65536 / ((b - a) * d))
      if up then j + 1 else j

/-- The code of a value under a scale exponent field E and a code type (R56). -/
def quantise (ty : Nat) (ex : Nat) (how : How) (x : ExactNum) : Nat :=
  match x with
  | .nan s m => if ex = 0x3F then (if ty = 4 then s.toNat * 2 + m % 2 else s.toNat * 8 + m % 8) else 0
  | .inf s =>
    if ex = 0x3F then 0
    else magCode ty s ((magnitudes ty s).length - 1)
  | .fin s m e =>
    if ex = 0x3F then 0
    else
      let sh : Int := e + pointOf ty - ((ex : Int) - 32)
      magCode ty s (pickMag how s (m * 2 ^ sh.toNat) (2 ^ (-sh).toNat) 0 (magnitudes ty s))

/-- The value of a code under a scale exponent field (R63). -/
def dequantise (ty ex c : Nat) : ExactNum :=
  let s := codeSign ty c
  if ex = 0x3F then .nan s (0x400000 + (if ty = 4 then c % 2 else c % 8))
  else .fin (if ty = 0 then bit c 3 else s) (codeInt ty c).natAbs ((ex : Int) - 32 - pointOf ty)

/-- m x 2^x at most M x 2^e. -/
def fitsScale (big m : Nat) (x e : Int) : Bool :=
  let k := if x < e then x else e
  decide (m * 2 ^ (x - k).toNat ≤ big * 2 ^ (e - k).toNat)

/-- The smallest integer e with m x 2^x ≤ M x 2^e (R57). -/
def scaleExp (big m : Nat) (x : Int) : Int :=
  let e0 : Int := (m.log2 : Int) + x - big.log2 - 1
  if fitsScale big m x e0 then e0 else if fitsScale big m x (e0 + 1) then e0 + 1 else e0 + 2

/-- The larger magnitude of two finite values. -/
def maxAbs (a b : Nat × Int) : Nat × Int := if fitsScale 1 a.1 a.2 0 && a.1 = 0 then b else
  if (ExactNum.fin false a.1 a.2).lt (.fin false b.1 b.2) then b else a

/-- The scale exponent of a block's active elements, before the clamp where it has one (R57). -/
inductive BlockScale where
  | special (e : Nat)
  | exp (e : Int)
  deriving DecidableEq, Repr

def blockScale (ty : Nat) (sat : Bool) (xs : List ExactNum) : BlockScale :=
  if xs.any ExactNum.isNan then .special 0x3F
  else if xs.any ExactNum.isInf then .special (if sat then 0x3E else 0x3F)
  else
    let a := xs.foldl (fun (a : Nat × Int) x => match x with
      | .fin _ m e => if m = 0 then a else if a.1 = 0 then (m, e) else maxAbs a (m, e)
      | _ => a) (0, 0)
    if a.1 = 0 then .special 0 else .exp (scaleExp (maxMag ty) a.1 a.2)

/-- The exponent field E (R57). -/
def BlockScale.field (b : BlockScale) : Nat :=
  match b with
  | .special e => e
  | .exp e => (32 + (if e < -32 then -32 else if 30 < e then 30 else e)).toNat

/-- Scale overflow or underflow of a block (R57). -/
def BlockScale.outOfRange (b : BlockScale) : Bool :=
  match b with
  | .special _ => false
  | .exp e => decide (e < -32) || decide (30 < e)

/-! ## Stochastic rounding (R59) -/

/-- The generator's advance. -/
def advanceX (x : Word) : Word :=
  let a := x ^^^ (x <<< 13)
  let b := a ^^^ (a >>> 7)
  b ^^^ (b <<< 17)

/-- r_i of element `i` under the advanced generator. -/
def randomOf (x : Word) (i : Nat) : Nat :=
  (((x ^^^ (BitVec.ofNat 64 i * 0xD1B54A32D192ED03#64)) * 0x9E3779B97F4A7C15#64) >>> 48).toNat

/-! ## Block dot products (R65-R68) -/

/-- The pairs R65 accepts. -/
def dotPair (a b : Nat) : Bool :=
  (a == 9 && b == 9) || ((a == 4 || a == 5) && (b == 4 || b == 5)) || ((a == 0 || a == 10) && (b == 0 || b == 10))

/-- One operand element of a block dot: its value and its integer (R65). -/
structure DotElem where
  num : ExactNum
  int : Int
  deriving DecidableEq, Repr

/-- A floating or Q4 operand under a scale byte; the type bits count for Q4 alone (R54, R65). -/
def dotElem (f : Nat) (scale c : Nat) : DotElem :=
  if f = 9 then ⟨.fin false 0 0, codeInt (scale / 64) c⟩
  else
    let x := decodeFloat f c
    ⟨x, match x with
      | .fin s m e => scaledInt s m e (if f = 4 then 9 else 16)
      | _ => 0⟩

/-- The binary point of an operand (R65). -/
def dotPoint (f scale : Nat) : Nat := if f = 9 then pointOf (scale / 64) else if f = 4 then 9 else 16

/-- The block value of infinite elements (R67). -/
def infiniteBlock (ps : List (DotElem × DotElem)) : ExactNum :=
  let prods := ps.filter fun p => p.1.num.isInf || p.2.num.isInf
  if prods.any fun p => p.1.num.isZero || p.2.num.isZero then .canonical
  else
    let signs := prods.map fun p => p.1.num.neg != p.2.num.neg
    if signs.contains true && signs.contains false then .canonical else .inf (signs.contains true)

/-- The value v of a block with scale bytes `ea`, `eb` over its active pairs, as FP32 (R66, R67). -/
def blockValue (af bf ea eb : Nat) (ps : List (DotElem × DotElem)) : ExactNum :=
  if ea % 64 = 0x3F ∨ eb % 64 = 0x3F ∨ (ps.any fun p => p.1.num.isNan || p.2.num.isNan) then .canonical
  else if ps.any fun p => p.1.num.isInf || p.2.num.isInf then infiniteBlock ps
  else
    let i := (ps.map fun p => p.1.int * p.2.int).sum
    let e : Int := ((ea % 64 : Nat) : Int) + ((eb % 64 : Nat) : Int) - 64 - dotPoint af ea - dotPoint bf eb
    decodeFloat 8 (encodeFloat 8 (.rm .rne) false (.fin (i < 0) i.natAbs e))

/-- acc + v, rounded to FP32 (R66). -/
def addBlock (acc : Nat) (v : ExactNum) : Nat := encodeFloat 8 (.rm .rne) false (ExactNum.add .rne v (decodeFloat 8 acc))

/-- R68: the sum of an I32 accumulator and products, wrapped, or clamped once under SAT. -/
def intDot (sat : Bool) (acc : Nat) (ps : List (Int × Int)) : Nat :=
  putInt 2 sat (twos 32 acc + (ps.map fun p => p.1 * p.2).sum)

end Sys2Proof.Machine
end

