-- ==== Sys2Proof/Machine/Wire.lean ====
section
/-! DEFINITION. Channels of a port group: exponent coding (R368-R372), the receiver's order, and the blocks on their way, with
their acknowledgement, their failure and their second sending (R359, R364). -/

namespace Sys2Proof.Machine

/-! ## Exponent coding (R369-R372) -/

/-- A channel as DON or a new connection leaves it (R369). -/
def Chan.reset : Chan where
  counts := []
  blocks := 0
  held := []
  ahead := []
  wait := []

/-- The rank of an exponent value (R369). -/
def Chan.rank (c : Chan) (e : Nat) : Nat :=
  (List.range 256).countP fun f =>
    decide (c.counts.get 0 e < c.counts.get 0 f) || (c.counts.get 0 e == c.counts.get 0 f && decide (f < e))

/-- `n` bits of a number, the lowest first. -/
def lowBits (n v : Nat) : List Bool := (List.range n).map fun i => bit v i

/-- The code of an exponent, b0 first (R371). -/
def Chan.code (c : Chan) (e : Nat) : List Bool :=
  let r := c.rank e
  if r < 8 then false :: lowBits 3 r
  else if r < 24 then true :: false :: lowBits 4 (r - 8)
  else true :: true :: lowBits 8 e

/-- Bits as a number, the first lowest. -/
def ofBits (bs : List Bool) : Nat :=
  match bs with
  | [] => 0
  | b :: r => b.toNat + 2 * ofBits r

/-- The exponent a code stands for, and the bits after it. -/
def Chan.decodeOne (c : Chan) (bs : List Bool) : Option (Nat × List Bool) :=
  let ofRank (r : Nat) : Nat := ((List.range 256).find? fun e => c.rank e == r).getD 0
  match bs with
  | false :: r => if r.length < 3 then none else some (ofRank (ofBits (r.take 3)), r.drop 3)
  | true :: false :: r => if r.length < 4 then none else some (ofRank (8 + ofBits (r.take 4)), r.drop 4)
  | true :: true :: r => if r.length < 8 then none else some (ofBits (r.take 8), r.drop 8)
  | _ => none

/-- The exponents of `n` values. -/
def Chan.decodeMany (c : Chan) (n : Nat) (bs : List Bool) : Option (List Nat) :=
  match n with
  | 0 => some []
  | n + 1 => match c.decodeOne bs with
    | some (e, r) => (c.decodeMany n r).map (e :: ·)
    | none => none

/-- The exponent of a value of WF, and the value without it. -/
def exponentOf (wf v : Nat) : Nat := v / 2 ^ mantBits wf % 256
def residueOf (wf v : Nat) : Nat := v % 2 ^ mantBits wf + v / 2 ^ (mantBits wf + 8) * 2 ^ mantBits wf
def joinValue (wf e r : Nat) : Nat := r % 2 ^ mantBits wf + e * 2 ^ mantBits wf + r / 2 ^ mantBits wf * 2 ^ (mantBits wf + 8)

/-- Only BF16 and FP32 are coded (R368). -/
def codedFmt (wf : Nat) : Bool := wf == 6 || wf == 8

/-- The values of a block. -/
def valuesOf (wf n : Nat) (bs : List Byte) : List Nat :=
  match n with
  | 0 => []
  | n + 1 => if bs.isEmpty then [] else ofBytes (bs.take (fmtBits wf / 8)) :: valuesOf wf n (bs.drop (fmtBits wf / 8))

/-- How often each exponent occurs in a block. -/
def exponentCounts (wf : Nat) (vs : List Nat) : Sparse Nat :=
  vs.foldl (fun m v => m.put 0 (exponentOf wf v) (m.get 0 (exponentOf wf v) + 1)) []

/-- An update of the table (R369). -/
def Chan.update (c : Chan) (h : Sparse Nat) : Chan :=
  { c with counts := (List.range 256).foldl (fun m e => m.put 0 e (c.counts.get 0 e / 2 + h.get 0 e)) [] }

/-- The channel after a block: the update LAG lets through is applied (R370). -/
def Chan.after (c : Chan) (lag : Nat) (h : Option (Sparse Nat)) : Chan :=
  let q := c.held ++ [h]
  let d := { c with blocks := c.blocks + 1, held := if lag < q.length then q.tail else q }
  if lag < q.length then (match q.head? with
    | some (some u) => d.update u
    | _ => d)
  else d

/-- LAG of a personality (R370). -/
def lagOf (pers : Nat) : Nat := if pers = 3 then 32 else 0

/-- Coding is in use on a channel: both ends offered it, a UALink port at training, an Ultra Ethernet connection each time it is
set up (R368). -/
def Port.codes (p : Port) (g chan : Nat) : Bool :=
  p.cfgNow.getLsbD 4 && Config.peerCodes p.trainSince g chan (p.setups.get 0 chan)

/-- The header of a block (R372), and its bytes. -/
def headerBytes (pers : Nat) : Nat := if pers = 3 then 6 else 2

def blockHeader (pers : Nat) (coded : Bool) (len seq : Nat) : List Byte :=
  toBytes 2 (coded.toNat * 32768 + len) ++ (if pers = 3 then toBytes 4 seq else [])

/-- Bits packed into bytes, the last padded with zeros. -/
def packBits (n : Nat) (bs : List Bool) : List Byte :=
  match n with
  | 0 => []
  | n + 1 => if bs.isEmpty then [] else BitVec.ofNat 8 (ofBits (bs.take 8)) :: packBits n (bs.drop 8)

/-- WIRE_BLOCK_SEND (R372): the block on the wire, and the channel after it. -/
def Chan.send (c : Chan) (pers : Nat) (use : Bool) (wf : Nat) (body : List Byte) : List Byte × Chan :=
  if use && codedFmt wf then
    let vs := valuesOf wf body.length body
    let stream := packBits (2 * vs.length) (vs.flatMap fun v => c.code (exponentOf wf v))
    let d := c.after (lagOf pers) (some (exponentCounts wf vs))
    if stream.length < vs.length then
      (blockHeader pers true stream.length c.blocks ++ stream ++ vs.flatMap fun v => toBytes (fmtBits wf / 8 - 1) (residueOf wf v), d)
    else (blockHeader pers false 0 c.blocks ++ body, d)
  else (blockHeader pers false 0 c.blocks ++ body, c.after (lagOf pers) none)

/-- The values that a coded body of an exponent stream of `len` bytes holds. -/
def Chan.decodeBody (c : Chan) (wf len : Nat) (bs : List Byte) : Option (List Nat) :=
  let w := fmtBits wf / 8 - 1
  let rest := bs.drop len
  let n := rest.length / w
  if bs.length < len ∨ rest.length % w ≠ 0 then none
  else (c.decodeMany n ((bs.take len).flatMap fun b => lowBits 8 b.toNat)).map fun es =>
    (List.range n).map fun i => joinValue wf (es.getD i 0) (ofBytes ((rest.drop (i * w)).take w))

/-! ## The receiver's order (R370) -/

/-- The channel with the table that block `n` was coded with: the updates of blocks 0 to n - 1 - LAG are in force. -/
def Chan.tableFor (c : Chan) (lag n : Nat) : Chan :=
  (c.held.take ((n - lag) - (c.blocks - lag))).foldl (fun d h => match h with
    | some u => d.update u
    | none => d) c

/-- The body in WF of a block as it came; nothing of a block that is not intact. -/
def Chan.decodeBlock (c : Chan) (pers : Nat) (use : Bool) (wf : Nat) (bs : List Byte) : Option (List Byte) :=
  let w := ofBytes (bs.take 2)
  let body := bs.drop (headerBytes pers)
  if bs.length < headerBytes pers ∨ field w 12 3 ≠ 0 then none
  else if bit w 15 then
    if use && codedFmt wf then (c.decodeBody wf (field w 0 12) body).map fun vs => vs.flatMap fun v => toBytes (fmtBits wf / 8) v
    else none
  else if field w 0 12 = 0 then some body else none

/-- The number of a block as it came, counted from the channel's first: a UALink port delivers in order (R358), and an Ultra
Ethernet header gives it modulo 2^32; none for a block before those received already. -/
def Chan.seqOf (c : Chan) (pers : Nat) (bs : List Byte) : Option Nat :=
  let ahead := (ofBytes ((bs.drop 2).take 4) + 4294967296 - c.blocks % 4294967296) % 4294967296
  if pers ≠ 3 then some c.blocks else if ahead < 2147483648 then some (c.blocks + ahead) else none

/-- The updates of blocks received ahead of their turn, now that it has come. -/
def Chan.catchUp (lag fuel : Nat) (c : Chan) : Chan :=
  match fuel with
  | 0 => c
  | fuel + 1 => match c.ahead.find? fun x => x.1 == c.blocks with
    | some x => Chan.catchUp lag fuel ({ c with ahead := c.ahead.filter fun y => y.1 != x.1 }.after lag x.2)
    | none => c

/-- The channel once block `n` has been decoded: updates are applied in block order (R370). -/
def Chan.settle (c : Chan) (lag n : Nat) (u : Option (Sparse Nat)) : Chan :=
  if n = c.blocks then (c.after lag u).catchUp lag c.ahead.length else { c with ahead := c.ahead ++ [(n, u)] }

/-- Block `n` decoded: its body in WF, and the channel after it. -/
def Chan.accept (c : Chan) (pers : Nat) (use : Bool) (n wf : Nat) (bs : List Byte) : Option (List Byte × Chan) :=
  ((c.tableFor (lagOf pers) n).decodeBlock pers use wf bs).map fun d =>
    (d, c.settle (lagOf pers) n (if use && codedFmt wf then some (exponentCounts wf (valuesOf wf d.length d)) else none))

/-- A body delivered to a die. -/
abbrev Delivery := Nat × WireId × List Byte

/-- The waiting blocks whose table has come are decoded. -/
def Chan.drain (pers : Nat) (use : Bool) (fuel : Nat) (c : Chan) : List Delivery × Chan :=
  match fuel with
  | 0 => ([], c)
  | fuel + 1 => match c.wait.find? fun x => decide (x.seq ≤ c.blocks + lagOf pers) with
    | none => ([], c)
    | some x =>
      let d := { c with wait := c.wait.filter fun y => y.seq != x.seq }
      match d.accept pers use x.seq x.w.wf x.raw with
      | some (body, e) =>
        let r := Chan.drain pers use fuel e
        ((x.die, x.w, body) :: r.1, r.2)
      | none => Chan.drain pers use fuel d

/-- A block that comes: it is decoded once blocks 0 to n - 1 - LAG have been, and with it those that waited for it; until then
it waits. A block received before counts once. -/
def Chan.receive (c : Chan) (pers : Nat) (use : Bool) (die : Nat) (w : WireId) (bs : List Byte) : List Delivery × Chan :=
  match c.seqOf pers bs with
  | none => ([], c)
  | some n =>
    if c.ahead.any (fun x => x.1 == n) || c.wait.any (fun x => x.seq == n) then ([], c)
    else if c.blocks + lagOf pers < n then ([], { c with wait := c.wait ++ [⟨n, die, w, bs⟩] })
    else match c.accept pers use n w.wf bs with
    | some (body, d) =>
      let r := Chan.drain pers use d.wait.length d
      ((die, w, body) :: r.1, r.2)
    | none => ([], c)

/-! ## Blocks on their way (R359, R364, R368, R370, R372) -/

/-- The channels of the module that reach a member: (group, channel). A UALink channel is a port; an Ultra Ethernet one is
the connection to a table entry, numbered from 4, which goes over the ports of the entry that are up (R361, R368). -/
def State.channels (s : State) (member : Nat) : List (Nat × Nat) :=
  (List.range 8).flatMap fun g =>
    let p := (s.die g).port
    if p.state = .isOpen then
      p.peers.zipIdx.flatMap fun x =>
        if x.1.member ≠ member then []
        else if p.pers = 2 then ((List.range 4).filter fun i => x.1.ports.getLsbD i && p.up.getLsbD i).map fun i => (g, i)
        else if p.pers = 3 ∧ x.1.ports &&& p.up ≠ 0 then [(g, 4 + x.2)]
        else []
    else []

/-- A change of a group's controller. -/
def State.updPort (s : State) (g : Nat) (f : Port → Port) : State := s.updDie g fun d => { d with port := f d.port }

/-- The block has been sent and not yet acknowledged (R364). -/
def Block.out (b : Block) : Bool := b.seq.isSome && !b.acked

/-- The blocks of a channel that have not been sent go out in order, at most `room` of them: the blocks after it, the channel,
and what is sent. -/
def pumpBlocks (pers : Nat) (use : Bool) (g ch room : Nat) (c : Chan) (l : List Block) : List Block × Chan × List Output :=
  match l with
  | [] => ([], c, [])
  | b :: r =>
    if b.chan = ch ∧ b.seq = none ∧ 0 < room then
      let (data, d) := c.send pers use b.w.wf b.body
      let (bs, e, out) := pumpBlocks pers use g ch (room - 1) d r
      ({ b with seq := some c.blocks } :: bs, e, .block g ch b.w b.dest data :: out)
    else
      let (bs, e, out) := pumpBlocks pers use g ch room c r
      (b :: bs, e, out)

/-- An OPEN group sends what a channel has to send: on Ultra Ethernet at most 64 of its blocks stand unacknowledged (R370). -/
def State.pump (s : State) (g ch : Nat) : State :=
  let p := (s.die g).port
  let room := if p.pers = 3 then 64 - p.flight.countP (fun b => b.chan == ch && b.out) else p.flight.length
  if p.state = .isOpen then
    let (bs, c, out) := pumpBlocks p.pers (p.codes g ch) g ch room (p.send.get Chan.reset ch) p.flight
    { s.updPort g fun p => { p with flight := bs, send := p.send.put Chan.reset ch c } with out := out.reverse ++ s.out }
  else s

/-- A block given to one of the channels `l`; with none it is never delivered (R364). -/
def State.offer (s : State) (l : List (Nat × Nat)) (b : Block) : State :=
  match l[Config.route s.ticks b.w.index % l.length]? with
  | none => s
  | some (g, ch) =>
    (s.updPort g fun p => { p with flight := p.flight ++ [{ b with chan := ch, seq := none, acked := false }] }).pump g ch

/-- Block `w` of a contribution, on its way to the member `peer` with index `dst`. -/
def State.sendBlock (s : State) (w : WireId) (dst peer : Nat) (body : List Byte) : State :=
  s.offer (s.channels peer) ⟨0, none, false, dst, peer, w, body⟩

/-- FAILED counts `n` more items (R360, R364). -/
def Port.fail (n : Nat) (p : Port) : Port := { p with failed := Nat.min (p.failed + n) 4294967295 }

/-- Blocks a group can no longer deliver: those sent have failed, and each goes out again through an OPEN group of the same
personality that reaches its member (R364). -/
def State.giveUp (s : State) (g : Nat) (lost : Block → Bool) : State :=
  let p := (s.die g).port
  let bs := p.flight.filter lost
  if bs = [] then s
  else
    let t := s.updPort g fun p => Port.fail (bs.countP fun b => b.seq.isSome) { p with flight := p.flight.filter fun b => !lost b }
    (bs.foldl (fun (t : State) b => t.offer ((t.channels b.peer).filter fun x => (t.die x.1).port.pers == p.pers) b) t).tick

/-- Blocks acknowledged with every earlier one of their channel are done with. -/
def trimAcked (ch : Nat) (l : List Block) : List Block :=
  match l with
  | [] => []
  | b :: r => if b.chan = ch then (if b.acked then trimAcked ch r else b :: r) else b :: trimAcked ch r

/-- An acknowledgement from the transport. -/
def State.ackBlock (s : State) (g ch n : Nat) : State :=
  (s.updPort g fun p => { p with flight := trimAcked ch (p.flight.map fun b =>
      if b.chan = ch ∧ b.seq = some n then { b with acked := true } else b) }).pump g ch

/-- An abandoned Ultra Ethernet connection: its blocks from the first undelivered one on have failed, and are sent again on a
new connection with the tables reset, or by another group when this one takes no new blocks (R364, R369, R372). -/
def State.abandon (s : State) (g ch : Nat) : State :=
  let p := (s.die g).port
  if p.pers ≠ 3 then s
  else
    let t := s.updPort g fun p =>
      { p with send := p.send.erase ch, recv := p.recv.erase ch, setups := p.setups.put 0 ch (p.setups.get 0 ch + 1) }
    if p.state = .isOpen then
      (t.updPort g fun p => Port.fail (p.flight.countP fun b => b.chan == ch && b.seq.isSome)
        { p with flight := p.flight.map fun b => if b.chan = ch then { b with seq := none, acked := false } else b }).pump g ch
    else t.giveUp g fun b => b.chan == ch

end Sys2Proof.Machine
end

