-- ==== Sys2Proof/Machine/Ports.lean ====
section
/-! DEFINITION. Port groups: the personality controller's states and events (R353-R366), and the LPDDR-6 second tier's
failures (R378). -/

namespace Sys2Proof.Machine

/-- The codes of PSTATE.STATE (R362). -/
def PortState.code (x : PortState) : Nat :=
  match x with
  | .off => 0
  | .train => 1
  | .map => 2
  | .isOpen => 3
  | .stop => 4
  | .evac => 5
  | .drain => 6
  | .unmap => 7
  | .fault => 8

/-- PSTATE (R360). -/
def Port.pstate (p : Port) : Nat := p.up.toNat + p.tgt * 16 + p.pers * 256 + p.state.code * 4096 + p.fcause * 65536

/-- DOFF (R362): refusals come into force as it performs (R363); elsewhere it is refused. -/
def Port.doff (p : Port) (now : Nat) : Port :=
  match p.state with
  | .train => { p with state := .unmap }
  | .map => { p with state := .unmap }
  | .isOpen => { p with state := .stop, drainSince := now, refused := if p.pers = 1 then p.win else p.refused }
  | .fault => { p with state := .stop, drainSince := now, refused := if p.pers = 1 then p.win else p.refused }
  | _ => { p with fcause := 4 }

/-- DON with the value written to PCMD (R360, R362): only in OFF, for PERS 1 to 3, with a PCFG it does not refuse. -/
def Port.don (p : Port) (w : Word) (now : Nat) : Port :=
  let pers := wbits w 4 3
  let badCfg := pers == 1 && (p.pcfg.toNat % 4 == 3 || p.pcfg.toNat / 4 % 4 == 3)
  if p.state = .off ∧ wbits w 0 3 = 2 ∧ 1 ≤ pers ∧ pers ≤ 3 ∧ !badCfg then
    { p with state := .train, tgt := pers, trainSince := now, cfgNow := p.pcfg, tabNow := p.ptab, cntNow := p.ptcnt,
             send := [], recv := [], setups := [] }
  else { p with fcause := 4 }

/-- DOFF on a group: the blocks it has not sent go to other groups (R363, R364). -/
def State.doff (s : State) (g : Nat) : State :=
  let t := s.updPort g fun p => p.doff s.now
  if (t.die g).port.state = .stop then t.giveUp g fun b => b.seq.isNone else t

/-- A write of PCMD (R360). -/
def State.portCommand (s : State) (g : Nat) (w : Word) : State :=
  if wbits w 0 3 = 1 then s.doff g else s.updPort g fun p => p.don w s.now

/-- Links trained (R362). -/
def Port.trained (p : Port) (up : BitVec 4) : Port :=
  if p.state = .train ∧ up ≠ 0 then { p with up := up, state := .map } else p

/-- No link trained within 1 s (R362). -/
def Port.trainLate (p : Port) (now : Nat) : Port :=
  if p.state = .train ∧ p.trainSince + usClocks 1000000 ≤ now then { p with state := .fault, fcause := 1 } else p

/-- Where a group's window begins (R296). -/
def windowBase (g : Nat) : Nat := 17592186044416 + g * 1099511627776

/-- The address lies in the range of a group's window. -/
def inWindow (g a : Nat) : Bool := decide (windowBase g ≤ a) && decide (a < windowBase g + 1099511627776)

/-- WAYS and GRAN of the interleave in force (R360). -/
def Port.ways (p : Port) : Nat := 2 ^ (p.cfgNow.toNat % 4)
def Port.gran (p : Port) : Nat := 256 * 4 ^ (p.cfgNow.toNat / 4 % 4)

/-- Where window offset `o` lies, as a key of `Port.store` (R356). -/
def Port.expanderKey (p : Port) (o : Nat) : Nat :=
  o / p.gran % p.ways * 281474976710656 + o / (p.gran * p.ways) * p.gran + o % p.gran

/-- The window offset that lies at a key, if the installed window has one. -/
def Port.windowOffset (p : Port) (k : Nat) : Option Nat :=
  let e := k % 281474976710656
  let o := (e / p.gran * p.ways + k / 281474976710656) * p.gran + e % p.gran
  if k / 281474976710656 < p.ways ∧ o < p.win then some o else none

/-- The contents of an installed window stay with the expanders (R366): they leave the address space. -/
def State.stowWindow (s : State) (g : Nat) : State :=
  let p := (s.die g).port
  let cells := s.mem.filter fun c => inWindow g c.1
  let flags := s.poison.filter fun q => inWindow g (64 * q.1)
  let t := cells.foldl (fun (t : State) c => t.storeByte .agent c.1 memDefault) s
  { t with poison := t.poison.filter fun q => !inWindow g (64 * q.1) }.updPort g fun q =>
    { q with
      store := cells.foldl (fun (m : Sparse Byte) (c : Nat × Byte) => m.put memDefault (p.expanderKey (c.1 - windowBase g)) c.2) q.store
      storePoison := flags.foldl (fun (m : Sparse Bool) (f : Nat × Bool) => m.put false (p.expanderKey (64 * f.1 - windowBase g) / 64) f.2)
        q.storePoison }

/-- An installed window shows what its expanders hold, under the interleave in force (R356, R366). -/
def State.showWindow (s : State) (g : Nat) : State :=
  let p := (s.die g).port
  let t := p.store.foldl (fun (t : State) c => match p.windowOffset c.1 with
    | some o => t.storeByte .agent (windowBase g + o) c.2
    | none => t) s
  let u := p.storePoison.foldl (fun (t : State) f => match p.windowOffset (64 * f.1) with
    | some o => t.setPoison (windowBase g + o) f.2
    | none => t) t
  u.updPort g fun q =>
    { q with
      store := q.store.filter fun c => (p.windowOffset c.1).isNone
      storePoison := q.storePoison.filter fun f => (p.windowOffset (64 * f.1)).isNone }

/-- The window's capacity: ways times the smallest expander, in whole 4 KiB, at most 1,024 GB (R356). That fewer expanders than
ways give none, and that UP is not asked, is the model's choice (log 50). -/
def Port.capacity (p : Port) : Nat :=
  if p.expanders.length < p.ways then 0
  else Nat.min (p.ways * ((p.expanders.take p.ways).foldl Nat.min (p.expanders.headD 0)) / 4096 * 4096) 1024000000000

/-- One port table entry, or none where a zero field is not zero (R361). -/
def parsePeer (pers : Nat) (w0 w1 : Word) : Option Peer :=
  if wbits w0 36 28 = 0 ∧ (pers ≠ 2 ∨ wbits w1 10 54 = 0) then
    some { addr := w1, ports := BitVec.ofNat 4 (wbits w0 32 4), member := wbits w0 0 32 }
  else none

/-- The port table: `n` entries from an address, in ascending MEMBER order above `last` (R361). One in memory that is unmapped,
refused or poisoned fails like an invalid one: the model's choice (log 50). -/
def State.readPeers (s : State) (pers a n : Nat) (last : Option Nat) : Option (List Peer) :=
  match n with
  | 0 => some []
  | n + 1 =>
    if (s.region a).isNone ∨ s.windowRefused a ∨ s.poisoned a then none
    else match parsePeer pers (BitVec.ofNat 64 (s.readNum a 8)) (BitVec.ofNat 64 (s.readNum (a + 8) 8)) with
    | none => none
    | some x =>
      let ok : Bool := match last with
        | some m => decide (m < x.member)
        | none => true
      if ok then (s.readPeers pers (a + 16) n (some x.member)).map (x :: ·) else none

/-- The port table as MAP reads it: more than 4,096 entries are none (log 50). -/
def State.mapPeers (s : State) (p : Port) : Option (List Peer) :=
  if p.cntNow ≤ 4096 then s.readPeers p.tgt (wbits p.tabNow 6 42 * 64) p.cntNow none else none

/-- MAP ends: a window or a port table, whose rows let it be read, is installed, or the group enters FAULT (R356, R361, R362). -/
def State.mapPort (s : State) (g : Nat) : State :=
  let p := (s.die g).port
  let a := wbits p.tabNow 6 42 * 64
  if p.state ≠ .map then s
  else if p.tgt = 1 then
    if p.capacity = 0 then s.updPort g fun p => { p with state := .fault, fcause := 5 }
    else (s.updPort g fun p =>
      { p with state := .isOpen, pers := 1, failed := 0, win := p.capacity, refused := 0, linkLost := false }).showWindow g
  else s.whenFree (rowsOf a (16 * Nat.min p.cntNow 4096)) <|
    let t := s.eccRead a (16 * Nat.min p.cntNow 4096)
    match t.mapPeers p with
    | some l => t.updPort g fun p =>
        { p with state := .isOpen, pers := p.tgt, failed := 0, win := 0, refused := 0, peers := l, linkLost := false }
    | none => t.updPort g fun p => { p with state := .fault, fcause := 1 }

/-- The loss of an expander link, or of every port, of an OPEN group (R357, R362). -/
def Port.lost (i : Nat) (p : Port) : Port :=
  if p.state = .isOpen then
    if p.pers = 1 then { p with state := .fault, fcause := 2, linkLost := true, up := p.up &&& ~~~ (BitVec.ofNat 4 (2 ^ i)) }
    else { p with state := .fault, fcause := 2, up := 0 }
  else p

/-- A UALink port lost to its group (R358); with the last, the group faults. -/
def Port.losePort (p : Port) (i : Nat) : Port :=
  if p.state = .isOpen ∧ p.pers = 2 then
    let q := { p with up := p.up &&& ~~~ (BitVec.ofNat 4 (2 ^ i)) }
    if q.up = 0 then q.lost i else q
  else p

/-- A lost UALink port delivers none of its blocks: they go out again by what still reaches their members (log 71). -/
def State.losePort (s : State) (g i : Nat) : State :=
  let t := s.updPort g fun p => p.losePort i
  if (s.die g).port.pers = 2 ∧ (t.die g).port.state = .isOpen then t.giveUp g fun b => b.chan == i else t

/-- What a group in DRAIN waits for: requests of refused kinds in flight, or blocks sent and not acknowledged and launch
messages not yet answered (R362, R364). -/
def Port.busy (p : Port) : Bool := if p.pers = 1 then !p.lateReqs.isEmpty else p.flight.any Block.out || decide (0 < p.msgs)

/-- Requests now in flight through the group (PINFL.INFL, R360). -/
def Port.inFlight (p : Port) : Nat := Nat.min (p.infl + p.lateReqs.length + p.msgs + p.flight.countP Block.out) 4294967295

/-- The state after DRAIN (R362). -/
def Port.leaveDrain (p : Port) : Port := { p with state := if p.pers = 1 then .evac else .unmap }

/-- STOP ends, its refusals being in force; DRAIN ends with nothing it waits for (R362). -/
def Port.drained (p : Port) : Port :=
  if p.state = .stop ∨ p.state = .drain then
    if p.busy then { p with state := .drain } else p.leaveDrain
  else p

/-- EVAC ends (R362, R365). -/
def Port.evacuated (p : Port) : Port :=
  if p.state = .evac ∧ p.pcount = 0 ∧ p.inFlight = 0 then { p with state := .unmap } else p

/-- UNMAP ends in OFF: the window or table is gone with every cached line of the window (R362, R366); the refusals of a memory
window stay (R363). -/
def State.unmapPort (s : State) (g : Nat) : State :=
  let p := (s.die g).port
  if p.state = .unmap then
    let t := if p.win = 0 then s else s.stowWindow g
    { t.updPort g fun p => { p with state := .off, pers := 0, up := 0, win := 0, peers := [] } with
      l2 := t.l2.filter fun p => !inWindow g p.1
      cores := t.cores.map fun p => (p.1, { p.2 with icache := p.2.icache.filter fun q => !inWindow g (64 * q.1) }) }
  else s

/-- DOFF (R362). -/
def execDoff (g : PortGroup) (s : State) : Host.Outcome State Fault Refusal := run (fun s => s.doff g.val) s
/-- DON (R362). -/
def execDon (g : PortGroup) (w : Word) (s : State) : Host.Outcome State Fault Refusal :=
  run (fun s => s.updPort g.val fun p => p.don w s.now) s
/-- LINKS_TRAINED (R362). -/
def execLinksTrained (g : PortGroup) (up : BitVec 4) (s : State) : Host.Outcome State Fault Refusal :=
  run (fun s => s.updPort g.val fun p => p.trained up) s
/-- TRAIN_TIMEOUT (R362). -/
def execTrainTimeout (g : PortGroup) (s : State) : Host.Outcome State Fault Refusal :=
  run (fun s => s.updPort g.val fun p => p.trainLate s.now) s
/-- MAP_COMPLETE (R362). -/
def execMapComplete (g : PortGroup) (s : State) : Host.Outcome State Fault Refusal := run (fun s => s.mapPort g.val) s
/-- LINK_LOST (R357, R362). -/
def execLinkLost (x : GroupLink) (s : State) : Host.Outcome State Fault Refusal :=
  run (fun s => s.updPort x.group.val (Port.lost x.link.val)) s
/-- UALINK_PORT_LOST (R358). -/
def execUalinkPortLost (g : PortGroup) (p : Fin 4) (s : State) : Host.Outcome State Fault Refusal :=
  run (fun s => s.losePort g.val p.val) s
/-- CONNECTION_ABANDONED (R364, R372). -/
def execConnectionAbandoned (g : PortGroup) (chan : Nat) (s : State) : Host.Outcome State Fault Refusal :=
  run (fun s => s.abandon g.val chan) s
/-- DRAIN_COMPLETE (R362). -/
def execDrainComplete (g : PortGroup) (s : State) : Host.Outcome State Fault Refusal := run (fun s => s.updPort g.val Port.drained) s
/-- EVAC_COMPLETE (R362). -/
def execEvacComplete (g : PortGroup) (s : State) : Host.Outcome State Fault Refusal := run (fun s => s.updPort g.val Port.evacuated) s
/-- UNMAP_COMPLETE (R362). -/
def execUnmapComplete (g : PortGroup) (s : State) : Host.Outcome State Fault Refusal := run (fun s => s.unmapPort g.val) s

/-- LPDDR_CHANNEL_FAILURE (R378). -/
def execLpddrChannelFailure (c : Fin 64) (s : State) : Host.Outcome State Fault Refusal :=
  run (fun s => if s.badChannels.contains c.val then s else { s with badChannels := c.val :: s.badChannels }) s

/-- LPDDR_PATROL_SCRUB: an uncorrectable line is stored with poison (R378). -/
def execLpddrPatrolScrub (pa : BitVec 48) (s : State) : Host.Outcome State Fault Refusal :=
  run (fun s => if s.badLines.contains (pa.toNat / 64) then s.setPoison pa.toNat true else s) s

end Sys2Proof.Machine
end

