-- ==== Sys2Proof/Machine/Roster.lean ====
section
/-! DEFINITION. Rosters: digests, installation and retirement (R160, R391-R393). -/

namespace Sys2Proof.Machine

/-- Members as 32-bit values, as the digest hashes them (R160). -/
def memberBytes (ms : List Nat) : List Byte := ms.flatMap fun m => toBytes 4 m

/-- The digest of a member list: bytes 0 to 5 of its SHA-384 (R160). -/
def rosterDigest (ms : List Nat) : Nat := ofBytes ((sha384 (memberBytes ms)).take 6)

/-- `n` 32-bit values from an address up. -/
def State.readWords32 (s : State) (a n : Nat) : List Nat :=
  match n with
  | 0 => []
  | n + 1 => s.readNum a 4 :: s.readWords32 (a + 4) n

/-- Strictly ascending (R391). -/
def ascending (l : List Nat) : Bool :=
  match l with
  | [] => true
  | a :: r => (match r with
    | [] => true
    | b :: _ => decide (a < b)) && ascending r

/-- The members of a roster body, when it is valid (R391, R393). -/
def State.rosterBody (s : State) (a : Nat) : Option (List Nat) :=
  let m := s.readNum a 4
  if (s.region a).isNone ∨ s.windowRefused a ∨ m < 1 ∨ 4096 < m then none
  else
    let ms := s.readWords32 (a + 4) m
    if s.anyPoison a (4 + 4 * m) ∨ !ascending ms then none else some ms

/-- The slot and roster of a digest. -/
def DieState.rosterOf (d : DieState) (digest : Nat) : Option (Nat × Roster) :=
  (d.rosters.find? fun p => match p.2 with
    | some r => r.digest == digest
    | none => false).bind fun p => p.2.map fun r => (p.1, r)

/-- CRSTAT's new contents. -/
def DieState.rosterStatus (d : DieState) (slot status : Nat) : DieState :=
  { d with crslot := BitVec.ofNat 8 slot, crstatus := BitVec.ofNat 8 status }

/-- The bytes of a roster body that an installation reads. -/
def State.rosterLen (s : State) (a : Nat) : Nat := 4 + 4 * Nat.min (s.readNum a 4) 4096

/-- A write of CRINST (R392, R393), once the rows of the body let it be read (R107, R140). -/
def State.installRoster (s : State) (k : Nat) (w : Word) : State :=
  let a := wbits w 6 42 * 64
  let s := (s.needRows (rowsOf a (s.rosterLen a))).eccRead a (s.rosterLen a)
  let d := s.die k
  match s.rosterBody a with
  | none => s.setDie k (d.rosterStatus d.crslot.toNat 3)
  | some ms =>
    let digest := rosterDigest ms
    match d.rosterOf digest with
    | some (slot, r) =>
      s.setDie k (d.rosterStatus slot (if r.retiring then 6 else if r.members = ms then 1 else 4))
    | none =>
      match (List.range 16).find? fun i => (d.rosters.get none i).isNone with
      | none => s.setDie k (d.rosterStatus d.crslot.toNat 2)
      | some i =>
        s.setDie k ({ d with rosters := d.rosters.put none i (some ⟨digest, ms, false, 0, 0⟩) }.rosterStatus i 1)

/-- A slot's roster leaves, with what came for collectives never issued on it (log 71). -/
def DieState.freeRoster (d : DieState) (i digest : Nat) : DieState :=
  { d with rosters := d.rosters.put none i none, early := d.early.filter fun e => e.w.digest != digest }

/-- A write of CRREM (R392, R393). -/
def State.retireRoster (s : State) (k : Nat) (w : Word) : State :=
  let d := s.die k
  match d.rosterOf (wbits w 0 48) with
  | none => s.setDie k (d.rosterStatus d.crslot.toNat 5)
  | some (i, r) =>
    if r.retiring then s.setDie k (d.rosterStatus i 6)
    else
      let d' := if r.issued = 0 then d.freeRoster i r.digest
        else { d with rosters := d.rosters.put none i (some { r with retiring := true }) }
      s.setDie k (d'.rosterStatus i 1)

/-- The last collective on a retiring roster frees its slot (R393). -/
def DieState.rosterDone (d : DieState) (digest : Nat) : DieState :=
  match d.rosterOf digest with
  | some (i, r) =>
    if r.retiring ∧ r.issued ≤ 1 then d.freeRoster i digest
    else { d with rosters := d.rosters.put none i (some { r with issued := r.issued - 1 }) }
  | none => d

/-- ROSTER_INSTALL (R393). -/
def execRosterInstall (d : Die) (w : Word) (s : State) : Host.Outcome State Fault Refusal := run (fun s => s.installRoster d.val w) s
/-- ROSTER_RETIRE (R393). -/
def execRosterRetire (d : Die) (w : Word) (s : State) : Host.Outcome State Fault Refusal := run (fun s => s.retireRoster d.val w) s

end Sys2Proof.Machine
end

