-- ==== Sys2Proof/Machine/Farm.lean ====
section
/-! DEFINITION. Farms: declaration, starts, strips, the completion arrival (R29-R32, R268, R279, R413, R414). -/

namespace Sys2Proof.Machine

/-- The farm of a context. -/
def DieState.farm (d : DieState) (f : Nat) : Option Farm := d.farms.get none f

/-- The first free context of a die, of 64 (R29, R277). -/
def DieState.freeCtx (d : DieState) : Option Nat := (List.range 64).find? fun f => (d.farm f).isNone

/-- A farm declared in a context; the youngest of its die (R29). -/
def State.declareFarm (s : State) (d f : Nat) (x : Farm) : State :=
  s.updDie d fun y => { y with farms := y.farms.put none f (some { x with order := y.farmOrder }), farmOrder := y.farmOrder + 1 }

/-- A farm as its declaration gives it: nothing taken (R29). -/
def newFarm (total hint : Nat) (mask : Nat) (entry arg bar : Word) (scope : Scope) (ag : Agent) (pins : List Pin) : Farm where
  total := total
  hint := hint
  next := 0
  returned := []
  out := 0
  mask := BitVec.ofNat 32 mask
  cleared := 0
  entry := entry
  arg := arg
  bar := bar
  scope := scope
  agent := ag
  pins := pins
  arrived := false
  scan := 0
  order := 0

/-- A strip untaken or returned (R29). -/
def Farm.hasStrip (x : Farm) : Bool := decide (x.next < x.total) || !x.returned.isEmpty

/-- LPREQ assigns strand `i` of a core a lane group that is not quarantined (R29). -/
def Core.assigned (c : Core) (i : Nat) : Bool :=
  (List.range 8).any fun g => (c.lpreq.getLsbD g == (i == 1)) && !c.quar.getLsbD g

/-- The strand may be started by a farm of its die (R29). -/
def State.eligible (s : State) (x : Farm) (n : Nat) : Bool :=
  (s.strand n).st == .idle && x.mask.getLsbD (coreOf n % 32) && (s.core (coreOf n)).assigned (n % 2)

/-- No older farm of the die could start the strand (R29). -/
def State.oldestFor (s : State) (d : Nat) (x : Farm) (n : Nat) : Bool :=
  (s.die d).farms.all fun p => match p.2 with
    | some y => !(decide (y.order < x.order) && y.hasStrip && s.eligible y n)
    | none => true

/-- A farm start's state (R30); tvec, instret and the wake count stay. -/
def Strand.farmStarted (y : Strand) (x : Farm) (f : Nat) : Strand :=
  { y.unhold with
    st := .run
    pc := x.entry
    g := (Sparse.put 0 (Sparse.put 0 [] 4 x.arg) 5 (BitVec.ofNat 64 x.total))
    vfarm := BitVec.ofNat 64 (2 ^ 63 + f)
    vbase := 0
    vsend := 0
    vl := 0
    vstart := 0
    asid := BitVec.ofNat 64 x.agent.asid
    ortb := x.agent.tb
    sstat := 0
    vtype := 0
    vspace := 0
    tcfg := []
    t := []
    tp := []
    preq := false
    strip := false }

/-- The strand the dispatcher starts next for a farm: the first it could start from where it stands, in ascending core number
with strand 0 before strand 1, or else from the die's first strand on (R279; log 59). -/
def State.nextStart (s : State) (d : Nat) (x : Farm) : Option Nat :=
  let could (i : Nat) : Bool := s.eligible x (64 * d + i) && s.oldestFor d x (64 * d + i)
  match (List.range 64).find? fun i => decide (x.scan ≤ i) && could i with
  | some i => some (64 * d + i)
  | none => ((List.range 64).find? could).map (64 * d + ·)

/-- The dispatcher starts a strand (R29, R30, R279); none after a failed boot (R406). -/
def State.startFarm (s : State) (d f n : Nat) : State :=
  match (s.die d).farm f with
  | some x =>
    if x.hasStrip ∧ s.nextStart d x = some n ∧ s.boot ≠ .failed then
      ((s.updFarm d f fun y => { y with scan := n % 64 + 1 }).updStrand n fun y => y.farmStarted x f).powerOn n
    else s
  | none => s

/-- The completion arrival, once every strip is retired (R32). -/
def State.completeFarm (s : State) (d f : Nat) : State :=
  match (s.die d).farm f with
  | some x =>
    if !x.arrived ∧ x.total ≤ x.next ∧ x.returned = [] ∧ x.out = 0 then
      s.whenBar x.agent (x.pins.map (·.entry)) x.bar
        (((s.barrierUpd x.agent (x.pins.map (·.entry)) x.bar (Bar.arrive 0)).updFarm d f fun y =>
          { y with arrived := true, pins := [] }).freeFarm d f)
    else s
  | none => s

/-- A strip the farm gives out: a returned one first, else the next untaken indices (R26). -/
def Farm.take (x : Farm) (cap : Nat) : Option (Farm × Nat × Nat) :=
  match x.returned with
  | (a, b) :: r => some ({ x with returned := r, out := x.out + 1 }, a, b)
  | [] =>
    if x.next < x.total then
      let e := x.next + Nat.min (if x.hint ≠ 0 then x.hint else cap) (x.total - x.next)
      some ({ x with next := e, out := x.out + 1 }, x.next, e)
    else none

/-- A core is cleared from the mask of a farm (R21). -/
def Farm.clearCore (c : Nat) (f : Farm) : Farm :=
  { f with mask := f.mask &&& ~~~ (BitVec.ofNat 32 (2 ^ c)), cleared := f.cleared ||| BitVec.ofNat 32 (2 ^ c) }

/-- A strand's core is cleared from the mask of the farm it is in (R21). -/
def State.unmaskCore (s : State) (n : Nat) : State :=
  let x := s.strand n
  if x.inFarm then s.updFarm (dieOf n) x.fctx (Farm.clearCore (coreOf n % 32)) else s

/-- FARM_START (R29, R30). -/
def execFarmStart (d : Die) (f : FarmCtx) (n : StrandId) (s : State) : Host.Outcome State Fault Refusal :=
  run (fun s => s.startFarm d.val f.val n.val) s

/-- FARM_COMPLETION_ARRIVAL (R32). -/
def execFarmCompletionArrival (d : Die) (f : FarmCtx) (s : State) : Host.Outcome State Fault Refusal :=
  run (fun s => s.completeFarm d.val f.val) s

end Sys2Proof.Machine
end

