-- ==== Sys2Proof/Machine/Queue.lean ====
section
/-! DEFINITION. Host work queues and launch packets (R275-R278, R347-R350), and launch messages (R373-R375). -/

namespace Sys2Proof.Machine

/-- A queue's state, when it has been enabled. -/
def DieState.queue (d : DieState) (q : Nat) : Option Queue := d.queues.get none q

def State.setQueue (s : State) (d q : Nat) (x : Queue) : State :=
  s.updDie d fun y => { y with queues := y.queues.put none q (some x) }

/-- The ASTAB entry of an address space on a die, and the table base in it (R298, R312). -/
def State.astabAddr (s : State) (d asid : Nat) : Nat := wbits (s.die d).astab 15 33 * 32768 + 8 * (asid % 4096)
def State.astabBase (s : State) (d asid : Nat) : Word := BitVec.ofNat 64 (s.readNum (s.astabAddr d asid) 8)

/-- The agent a queue's packets act for (R298, R300, R320). -/
def State.packetAgent (s : State) (d asid : Nat) : Agent :=
  { tb := s.astabBase d asid, asid := asid, user := true, die := d, source := 8, unit := d, pc := 0 }

/-- A fault record of a launch packet, in the queue of the object's managing die (R321). -/
def State.recordManaged (s : State) (ag : Agent) (f : Fail) (a : Word) : State :=
  if f.recorded then s.faultRecord (objNum a % 8) f a.toNat ag.asid ag.unit ag.source 0 else s

/-- An agent's step that reaches pieces, once their rows let it (R107, R140, R141). -/
def State.whenRows (s : State) (ps : List Piece) (k : State) : State := if s.piecesWait ps none then s.notePieces ps none else k

/-- The address of a queue's context (R348, R349). -/
def State.contextAddr (s : State) (d q : Nat) : Nat := wbits (s.die d).qcbase 20 28 * 1048576 + 64 * q

/-- Why a physical address cannot be reached, if it cannot: R296, R363, R347. -/
def State.physLost (s : State) (a : Nat) : Option Nat :=
  if s.windowRefused a then some 7
  else match s.region a with
  | none => some 6
  | some .host => if s.hostUp then none else some 0x12
  | some _ => none

/-- Why a physical read fails, if it does: the address cannot be reached, or a line carries poison (R96). -/
def State.physFail (s : State) (a n : Nat) : Option Nat :=
  match s.physLost a with
  | some c => some c
  | none => if s.anyPoison a n then some 9 else none

/-- An error stops a queue (R350). -/
def State.stopQueue (s : State) (d q : Nat) (x : Queue) (cause : Nat) : State :=
  let s1 := (s.needRow (s.contextAddr d q + 24)).physWrite (s.contextAddr d q + 24) (toBytes 8 (cause + 256 + x.head.toNat % 2 ^ 32 * 2 ^ 32))
  let s2 := s1.setQueue d q { x with err := true, errc := cause, waited := false, chosen := false }
  { s2.updDie d (fun y => { y with msix := y.msix + 1 }) with out := .msix d :: s2.out }

/-- An error the agent meets at a queue, once the row of the queue's context lets it write there (R107, R350). -/
def State.queueError (s : State) (d q : Nat) (x : Queue) (cause : Nat) : State :=
  s.whenPhys (s.contextAddr d q + 24) 8 (s.stopQueue d q x cause)

/-- A queue as its context describes it, before TAIL and HEAD are read (R349). -/
def contextQueue (ws : List Word) (now : Nat) : Queue :=
  let w := wordAt ws
  { enabled := true, prio := wbits (w 0) 60 3, asid := wbits (w 0) 48 12, ring := wbits (w 0) 6 42 * 64,
    log2n := wbits (w 0) 0 6, taila := wbits (w 1) 6 42 * 64, heada := wbits (w 2) 6 42 * 64, tail := 0, head := 0,
    readyAt := now, err := false, errc := 0, waited := false, chosen := false }

/-- A context is valid (R349); the agent's own error fields in it do not count (log 54). -/
def contextOk (ws : List Word) : Bool :=
  let w := wordAt ws
  let other (x : Word) : Bool := wbits x 48 16 == 0 && wbits x 0 6 == 0
  (w 0).getLsbD 63 && decide (4 ≤ wbits (w 0) 0 6) && wbits (w 0) 0 6 ≤ 20 && other (w 1) && other (w 2)
    && wbits (w 3) 9 23 == 0 && ws.drop 4 == [0, 0, 0, 0]

/-- What an enable reads: the context, and the tail and head lines it names. -/
def State.enablePlaces (s : State) (d q : Nat) : List Piece :=
  let a := s.contextAddr d q
  let x := contextQueue (toWords 8 (s.readBytes a 64)) s.now
  bytePieces a 64 ++ bytePieces x.taila 8 ++ bytePieces x.heada 8

/-- Operation 01 of QCTL: the context is read; an invalid one sets ERR with cause 0x02, and one or a tail or head line that
cannot be read the cause of that (R348-R350). -/
def State.enableQueue (s : State) (d q : Nat) : State :=
  let a := s.contextAddr d q
  let s1 := s.eccRead a 64
  let ws := toWords 8 (s.readBytes a 64)
  let x := contextQueue ws s.now
  let off : Queue := { x with enabled := false }
  match s1.physFail a 64 with
  | some c => s1.queueError d q off c
  | none =>
    if !contextOk ws then s1.queueError d q off 2
    else
      let s2 := (s1.eccRead x.taila 8).eccRead x.heada 8
      match s2.physFail x.taila 8, s2.physFail x.heada 8 with
      | some c, _ => s2.queueError d q off c
      | none, some c => s2.queueError d q off c
      | none, none =>
        s2.setQueue d q { x with tail := BitVec.ofNat 64 (s.readNum x.taila 8), head := BitVec.ofNat 64 (s.readNum x.heada 8) }

/-- Operation 10: no further packet is taken (R348). -/
def State.disableQueue (s : State) (d q : Nat) : State :=
  match (s.die d).queue q with
  | some x => s.setQueue d q { x with enabled := false, chosen := false }
  | none => s

/-- Operation 11: the error is cleared (R348). -/
def State.clearQueue (s : State) (d q : Nat) : State :=
  match (s.die d).queue q with
  | some x => s.setQueue d q { x with err := false, errc := 0, readyAt := s.now }
  | none => s

/-- The head packet is ready: TAIL as read exceeds HEAD (R350). -/
def Queue.ready (x : Queue) : Bool := x.enabled && !x.err && decide (x.head.toNat < x.tail.toNat)

/-- The agent reads TAIL after a snoop of the tail line; a line it cannot read stops the queue (R112, R350). -/
def State.snoopTail (s : State) (d q : Nat) : State :=
  match (s.die d).queue q with
  | some x =>
    let s1 := s.eccRead x.taila 8
    if !x.enabled then s
    else match s1.physFail x.taila 8 with
    | some c => if x.err then s1 else s1.queueError d q x c
    | none =>
      let t := BitVec.ofNat 64 (s.readNum x.taila 8)
      s1.setQueue d q { x with tail := t, readyAt := if x.head.toNat < x.tail.toNat then x.readyAt else s.now }
  | none => s

/-- HEAD advances past the packet taken (R350). The next packet's age counts from now (R277; log 54). -/
def State.advanceHead (s : State) (d q : Nat) (x : Queue) : State :=
  (s.physWrite x.heada (toBytes 8 (x.head.toNat + 1))).setQueue d q
    { x with head := x.head + 1, readyAt := s.now, waited := false, chosen := false }

/-- An agent's step that ends with HEAD's advance: a head line that cannot be written stops the queue (R350), and one in a row
it must wait for holds the step (R107). -/
def State.whenHead (s : State) (d q : Nat) (x : Queue) (k : State) : State :=
  match s.physLost x.heada with
  | some c => s.queueError d q x c
  | none => s.whenPhys x.heada 8 k

/-- A launch packet's fields (R275). -/
structure Packet where
  kind : Nat
  scope : Nat
  waitf : Bool
  mask : Nat
  entry : Word
  total : Nat
  hint : Nat
  arg : Word
  bar : Word
  waitbar : Word
  /-- Every field that must be zero is zero, WAITBAR without WAITF and ENTRY of KIND 0x02 included. -/
  zeros : Bool
  deriving DecidableEq, Repr

def parsePacket (ws : List Word) : Packet :=
  let w := wordAt ws
  let kind := wbits (w 0) 0 8
  let waitf := (w 0).getLsbD 11
  { kind := kind, scope := wbits (w 0) 8 3, waitf := waitf, mask := wbits (w 0) 16 32, entry := w 1, total := wbits (w 2) 0 48,
    hint := wbits (w 3) 0 32, arg := w 4, bar := w 5, waitbar := w 6
    zeros := wbits (w 0) 48 16 == 0 && wbits (w 0) 12 4 == 0 && wbits (w 2) 48 16 == 0 && wbits (w 3) 32 32 == 0
      && w 7 == 0 && (waitf || w 6 == 0) && (kind != 2 || w 1 == 0) }

/-- A packet is valid (R276 item 1). -/
def Packet.valid (p : Packet) : Bool :=
  p.zeros && p.scope ≤ 4 && ((p.kind == 1 && wbits p.entry 0 2 == 0 && p.mask != 0) || p.kind == 2)

/-- The slot of a queue's packet `k`, and of its head packet (R350). -/
def Queue.slot (x : Queue) (k : Word) : Nat := x.ring + 64 * (k.toNat % 2 ^ x.log2n)

/-- The head packet of a queue, or why it cannot be read. -/
def State.headPacket (s : State) (x : Queue) : Except Nat Packet :=
  match s.physFail (x.slot x.head) 64 with
  | some c => .error c
  | none => .ok (parsePacket (toWords 8 (s.readBytes (x.slot x.head) 64)))

/-- FAIL at BAR with a cause, and HEAD advances (R276). -/
def State.failPacket (s : State) (d q : Nat) (x : Queue) (p : Packet) (cause : Nat) : State :=
  let ag := s.packetAgent d x.asid
  s.whenBar ag [] p.bar (s.whenHead d q x ((s.barrierUpd ag [] p.bar (Bar.fail cause 0)).advanceHead d q x))

/-- Step 1 of a head packet (R276): it is read, its BAR is checked, and an invalid one fails there. A packet or a BAR that
cannot be reached stops the queue. `k` goes on with a valid packet and the pins of its BAR. -/
def State.withPacket (s : State) (d q : Nat) (k : State → Queue → Packet → List Pin → State) : State :=
  match (s.die d).queue q with
  | some x =>
    if !x.ready then s
    else s.whenPhys (x.slot x.head) 64 (
      let t := s.eccRead (x.slot x.head) 64
      match t.headPacket x with
      | .error c => t.queueError d q x c
      | .ok p =>
        let ag := t.packetAgent d x.asid
        match t.walkBarrier ag [] p.bar with
        | .wait w => s.noteAwait w
        | .fail f => (t.recordManaged ag f p.bar).queueError d q x f.cause
        | .ok h => if p.valid then k t x p (h.entries.map fun e => ⟨e, x.asid⟩) else t.failPacket d q x p 2)
  | none => s

/-- The wait on WAITBAR (R276 item 2). One that cannot be reached as a barrier word stops the queue, as such a BAR does (log 54). -/
def State.waitPacket (s : State) (d q : Nat) : State :=
  s.withPacket d q fun t x p _ =>
    if !p.waitf || x.waited then t
    else
      let ag := t.packetAgent d x.asid
      match t.walkBarrier ag [] p.waitbar with
      | .wait w => t.noteAwait w
      | .fail f => (t.recordManaged ag f p.waitbar).queueError d q x f.cause
      | .ok h => t.whenBar ag [] p.waitbar (
        let b := parseBar (t.readPieces h.pieces)
        if !b.released then t
        else if b.failed then t.failPacket d q x p 0x0F
        else t.setQueue d q { x with waited := true })

/-- The head packet of a queue, when it is valid, ready and past its wait. -/
def State.readyPacket (s : State) (x : Queue) : Option Packet :=
  if x.ready then
    match s.headPacket x with
    | .ok p => if p.valid && (!p.waitf || x.waited) then some p else none
    | .error _ => none
  else none

/-- The pins of a check for an address space. -/
def Hit.pins (h : Hit) (asid : Nat) : List Pin := h.entries.map fun e => ⟨e, asid⟩

/-- The handling of a head packet of a kind: the checks, then the taking (R276). -/
def State.takePacket (s : State) (d q kind : Nat) : State :=
  s.withPacket d q fun t x p pins =>
    if p.kind != kind || (p.waitf && !x.waited) then t
    else
      let ag := t.packetAgent d x.asid
      if kind = 2 then
        t.whenBar ag [] p.bar (t.whenHead d q x ((t.barrierUpd ag [] p.bar (Bar.arrive 0)).advanceHead d q x))
      else if !x.chosen then t
      else match (t.die d).freeCtx with
      | some f =>
        t.whenHead d q x
          ((t.declareFarm d f (newFarm p.total p.hint p.mask p.entry p.arg p.bar (scopeCode p.scope) ag pins)).advanceHead d q x)
      | none => t

/-- The effective level of a queue (R277). -/
def State.effLevel (s : State) (d : Nat) (x : Queue) : Nat :=
  let age := usClocks (s.die d).qage.toNat
  if age = 0 then x.prio else x.prio - (s.now - x.readyAt) / age

/-- One queue goes before another: lower effective level, then the earlier ready time, then the lower number (R277). -/
def State.before (s : State) (d : Nat) (a b : Nat × Queue) : Bool :=
  let la := s.effLevel d a.2
  let lb := s.effLevel d b.2
  decide (la < lb) || (la == lb && (decide (a.2.readyAt < b.2.readyAt) || (a.2.readyAt == b.2.readyAt && decide (a.1 ≤ b.1))))

/-- The queues of a die whose head is a farm packet that waits for arbitration. -/
def State.waitingFarms (s : State) (d : Nat) : List (Nat × Queue) :=
  (s.die d).queues.filterMap fun p => match p.2 with
    | some x => match s.readyPacket x with
      | some k => if k.kind = 1 ∧ !x.chosen then some (p.1, x) else none
      | none => none
    | none => none

/-- Contexts of a die in use (FUSE.USED, R278). -/
def DieState.farmsUsed (d : DieState) : Nat := d.farms.countP fun p => p.2.isSome

/-- Queues of a die whose head is ready and not yet taken (QPEND.PEND, R278). That a disabled queue, or one an error has stopped,
does not count is the model's choice (log 54). -/
def DieState.queuesPending (d : DieState) : Nat :=
  d.queues.countP fun p => match p.2 with
    | some x => x.ready
    | none => false

/-- Packets of a die that arbitration has chosen and a context is kept for (R277; log 54). -/
def DieState.farmsChosen (d : DieState) : Nat :=
  d.queues.countP fun p => match p.2 with
    | some x => x.chosen
    | none => false

/-- Arbitration: with a free context that no chosen packet waits for, the first queue of R277's order is chosen. -/
def State.arbitrate (s : State) (d : Nat) : State :=
  let ws := s.waitingFarms d
  if (s.die d).farmsUsed + (s.die d).farmsChosen < 64 then
    match ws.find? fun a => ws.all fun b => s.before d a b with
    | some (q, x) => s.setQueue d q { x with chosen := true }
    | none => s
  else s

/-! ## Launch messages (R373-R375) -/

/-- Sub-tiles of an object by state, for a report: TIER1, TIER2 or HOST, ABSENT or ZERO, POISONED (R375). -/
def State.countStates (s : State) (rta n : Nat) (acc : Nat × Nat × Nat × Nat) : Nat × Nat × Nat × Nat :=
  match n with
  | 0 => acc
  | n + 1 =>
    let e := s.readEnt rta
    let (a, b, c, p) := acc
    let st := if e.state = 5 then s.locTier e.loc0 else e.state
    let acc' := if st = 2 then (a + 1, b, c, p) else if st = 3 ∨ st = 4 then (a, b + 1, c, p)
      else if st = 0 ∨ st = 1 then (a, b, c + 1, p) else if st = 6 then (a, b, c, p + 1) else acc
    s.countStates (rta + 16) n acc'

/-- The two words a report gives of an object (R375). -/
def State.reportObj (s : State) (tb o : Word) : List Word :=
  let none2 : List Word := [BitVec.allOnes 64, 0]
  if objNum o = 0 ∨ isWindow o then none2
  else match recAddr tb (objNum o) with
  | none => none2
  | some ra =>
    let r := parseRec (toWords 8 (s.readBytes ra 64))
    if s.windowRefused ra ∨ !s.recValid r ∨ 2 ≤ r.kind then none2
    else
      let (a, b, c, p) := s.countStates r.rta r.subCount (0, 0, 0, 0)
      [BitVec.ofNat 64 (a + b * 2 ^ 32), BitVec.ofNat 64 (c + p * 2 ^ 32)]

/-- The queue a launch message names, and where the packet and the new TAIL go when the queue can take it (R374). -/
def State.messageQueue (s : State) (ws : List Word) : Option Queue :=
  (s.die ((wordAt ws 8).toNat / 16384)).queue ((wordAt ws 8).toNat % 16384)

/-- The queue agent's act on a launch message: its status and packet index, and the state with the packet published (R374); a
ring or a tail line that cannot be reached stops the queue (R350, R363; log 71). -/
def State.takeMessage (s : State) (ws : List Word) : State × Nat × Nat :=
  let d := (wordAt ws 8).toNat / 16384
  let q := (wordAt ws 8).toNat % 16384
  if 131071 < (wordAt ws 8).toNat ∨ wordAt ws 14 ≠ 0 ∨ wordAt ws 15 ≠ 0 then (s, 4, 0)
  else match s.messageQueue ws with
  | none => (s, 3, 0)
  | some x =>
    if !x.enabled ∨ x.err then (s, 3, 0)
    else if x.tail.toNat - x.head.toNat = 2 ^ x.log2n then (s, 2, 0)
    else match s.physLost (x.slot x.tail), s.physLost x.taila with
    | some c, _ => (s.queueError d q x c, 3, 0)
    | none, some c => (s.queueError d q x c, 3, 0)
    | none, none =>
      let s1 := s.physWrite (x.slot x.tail) (ofWords (ws.take 8))
      let s2 := s1.physWrite x.taila (toBytes 8 (x.tail.toNat + 1))
      (s2.setQueue d q { x with tail := x.tail + 1, readyAt := if x.head.toNat < x.tail.toNat then x.readyAt else s.now },
        1, x.tail.toNat)

/-- What a launch message writes to: a slot, and the tail line. -/
def State.messagePlaces (s : State) (ws : List Word) : List Piece :=
  match s.messageQueue ws with
  | some x => if x.enabled && !x.err then bytePieces (x.slot x.tail) 64 ++ bytePieces x.taila 8 else []
  | none => []

/-- The report of a launch message (R375). -/
def State.report (s : State) (ws : List Word) (status k : Nat) : List Byte :=
  let qn := (wordAt ws 8).toNat
  let tb := match (s.die (qn / 16384)).queue (qn % 16384) with
    | some x => s.astabBase (qn / 16384) x.asid
    | none => 0
  ofWords ([wordAt ws 9, BitVec.ofNat 64 (status + (if status = 1 then k % 2 ^ 48 * 65536 else 0))]
      ++ (List.range 4).flatMap fun i => s.reportObj tb (wordAt ws (10 + i)))
    ++ (List.range 8).flatMap (fun d => toBytes 4 (s.die d).free1.toNat) ++ List.replicate 16 0

/-- What a report reads: the ASTAB entry, each object's record, and its residency table. -/
def State.reportRows (s : State) (ws : List Word) : List Nat :=
  let qn := (wordAt ws 8).toNat
  match (s.die (qn / 16384)).queue (qn % 16384) with
  | none => []
  | some x =>
    let tb := s.astabBase (qn / 16384) x.asid
    s.astabAddr (qn / 16384) x.asid :: (List.range 4).flatMap fun i =>
      let o := wordAt ws (10 + i)
      if objNum o = 0 ∨ isWindow o then []
      else match recAddr tb (objNum o) with
      | none => []
      | some ra =>
        let r := parseRec (toWords 8 (s.readBytes ra 64))
        rowOf ra :: if s.windowRefused ra ∨ !s.recValid r ∨ 2 ≤ r.kind then [] else rowsOf r.rta (16 * r.subCount)

/-- The damage record of a report that cannot be delivered (R364, R388). -/
def reportLost (g : Nat) (tag : Word) : Damage where
  kind := 2
  cause := 7
  srck := 4
  phys := false
  asid := 0
  opmask := 0
  afc := 0
  swc := 0
  unit := g
  aux := tag.toNat % 2 ^ 32
  addr := 0
  len := 0
  pc := 0
  desc := 0

/-- A channel of another group, OPEN in the same personality, whose port table reaches the sender (R364). -/
def State.otherGroup (s : State) (g sender : Nat) : Option (Nat × Nat) :=
  (s.channels sender).find? fun x => x.1 != g && (s.die x.1).port.pers == (s.die g).port.pers

/-- A report goes back on the port or connection its message came from (R375); one not sent by the drain timeout goes by another
group, or is lost (R364). -/
def State.sendReport (s : State) (x : Sender) (tag : Word) (r : List Byte) : State :=
  let g := x.group.val
  let p := (s.die g).port
  if p.state = .isOpen ∨ s.now < p.drainSince + usClocks (atLeastOne p.pdrain) then { s with out := .report g x.chan r :: s.out }
  else match s.otherGroup g x.member with
  | some (j, ch) => { s with out := .report j ch r :: s.out }
  | none => (s.damage g (reportLost g tag)).updPort g (Port.fail 1)

/-- A launch message of 128 bytes, fully received, is acted on and answered, once the rows it reaches let it (R374, R375). -/
def State.answerMessage (s : State) (x : Sender) (bytes : List Byte) : State :=
  let ws := toWords 16 bytes
  s.whenRows (s.messagePlaces ws) (
    let (s1, status, k) := s.takeMessage ws
    (s1.needRows (s1.reportRows ws)).sendReport x (wordAt ws 9) (s1.report ws status k))

/-- A launch message received by a group that takes messages (R363, R364, R373). One that rows hold back stays in flight in its
group: it is answered once they let it, whatever the group's state is by then. -/
def State.launchMsg (s : State) (x : Sender) (bytes : List Byte) : State :=
  let p := (s.die x.group.val).port
  if bytes.length ≠ 128 ∨ p.pers < 2 ∨ !(p.state == .isOpen || p.state == .stop || p.state == .drain) then s
  else
    let t := s.answerMessage x bytes
    if t.noted = s.noted then t
    else { (s.startWaits t.noted).updPort x.group.val (fun p => { p with msgs := p.msgs + 1 }) with
      waiting := s.waiting ++ [(.message x bytes, t.noted)] }

/-- The turn of a launch message that rows held back (R364). -/
def State.handleMessage (s : State) (x : Sender) (bytes : List Byte) : State :=
  (s.answerMessage x bytes).updPort x.group.val fun p => { p with msgs := p.msgs - 1 }

/-- QUEUE_TAIL_SNOOP (R350). -/
def execQueueTailSnoop (d : Die) (q : QueueId) (s : State) : Host.Outcome State Fault Refusal :=
  run (fun s => match (s.die d.val).queue q.val with
    | some x => s.whenRows (bytePieces x.taila 8) (s.snoopTail d.val q.val)
    | none => s) s
/-- PACKET_FARM (R276). -/
def execPacketFarm (d : Die) (q : QueueId) (s : State) : Host.Outcome State Fault Refusal := run (fun s => s.takePacket d.val q.val 1) s
/-- PACKET_ARRIVE (R276). -/
def execPacketArrive (d : Die) (q : QueueId) (s : State) : Host.Outcome State Fault Refusal := run (fun s => s.takePacket d.val q.val 2) s
/-- WAITBAR_RELEASE (R276). -/
def execWaitbarRelease (d : Die) (q : QueueId) (s : State) : Host.Outcome State Fault Refusal := run (fun s => s.waitPacket d.val q.val) s
/-- QUEUE_ENABLE (R348). -/
def execQueueEnable (d : Die) (q : QueueId) (s : State) : Host.Outcome State Fault Refusal :=
  run (fun s => s.whenRows (s.enablePlaces d.val q.val) (s.enableQueue d.val q.val)) s
/-- QUEUE_DISABLE (R348). -/
def execQueueDisable (d : Die) (q : QueueId) (s : State) : Host.Outcome State Fault Refusal := run (fun s => s.disableQueue d.val q.val) s
/-- QUEUE_CLEAR_ERROR (R348). -/
def execQueueClearError (d : Die) (q : QueueId) (s : State) : Host.Outcome State Fault Refusal := run (fun s => s.clearQueue d.val q.val) s
/-- FARM_ARBITRATION (R277). -/
def execFarmArbitration (d : Die) (s : State) : Host.Outcome State Fault Refusal := run (fun s => s.arbitrate d.val) s
/-- LAUNCH_MESSAGE (R373, R374). -/
def execLaunchMessage (x : Sender) (bytes : List Byte) (s : State) : Host.Outcome State Fault Refusal :=
  run (fun s => s.launchMsg x bytes) s

end Sys2Proof.Machine
end

