-- ==== Sys2Proof/Machine/Service.lean ====
section
/-! DEFINITION. Trap entry that waited, service records (R331-R334) and hard pre-emption as agents' steps (R338). -/

namespace Sys2Proof.Machine

/-- Word `j` of a service record. -/
def State.recWord (s : State) (r j : Nat) : Word := BitVec.ofNat 64 (s.readNum (r + 8 * j) 8)

/-- A strand in SVCWAIT resumes: ACT 1 of its record (R334). -/
def State.svcResume (s : State) (n r : Nat) : State :=
  let rpc := s.recWord r 4
  if wbits rpc 0 2 ≠ 0 then
    s.enterTrap n ⟨5, rpc, s.recWord r 2, (s.recWord r 3).setWidth 32, false, true⟩
  else
    let s1 := s.updStrand n fun x =>
      let y := if (s.recWord r 7).getLsbD 3 then (x.setG 4 (s.recWord r 5)).setG 5 (s.recWord r 6) else x
      { y with sstat := setBits y.sstat 0 1 0, svcRec := none, st := .run }
    s1.goTo n rpc

/-- ACT 2: the recorded trap in the strand's own handler (R334). -/
def State.svcReflect (s : State) (n r : Nat) : State :=
  s.enterTrap n ⟨(s.recWord r 0).toNat % 256, s.recWord r 1, s.recWord r 2, (s.recWord r 3).setWidth 32, false, true⟩

/-- The act on the record of a strand in SVCWAIT: nothing for a withdrawn record, and for ACT 0 and 4 to 7 (R334). -/
def State.serviceAct (s : State) (n : Nat) : State :=
  match (s.strand n).st, (s.strand n).svcRec with
  | .svcwait, some r =>
    if (s.recWord r 0).getLsbD 9 then s
    else match wbits (s.recWord r 7) 0 3 with
    | 1 => s.svcResume n r
    | 2 => s.svcReflect n r
    | 3 => s.enterIdle n
    | _ => s
  | _, _ => s

/-- The writes of ACT that a step has performed take effect with it, for every strand that waits (R334). -/
def State.serviceAll (s : State) : State := s.strands.foldl (fun (t : State) p => t.serviceAct p.1) s

/-- The record of a strand in SVCWAIT holds this ACT. -/
def State.actIs (s : State) (n a : Nat) : Bool :=
  match (s.strand n).svcRec with
  | some r => wbits (s.recWord r 7) 0 3 == a
  | none => false

/-- TRAP_ENTRY (R328). -/
def execTrapEntry (n : StrandId) (s : State) : Host.Outcome State Fault Refusal :=
  run (fun s => match (s.strand n.val).pend with
    | some t => s.enterTrap n.val t
    | none => s) s

/-- SERVICE_FORWARD (R333): a decided trap that service mode forwards. -/
def execServiceForward (n : StrandId) (s : State) : Host.Outcome State Fault Refusal :=
  run (fun s => match (s.strand n.val).pend with
    | some t => if !t.own ∧ s.forwards n.val t.cause then s.forward n.val t else s
    | none => s) s

/-- SERVICE_RESUME (R334). -/
def execServiceResume (n : StrandId) (s : State) : Host.Outcome State Fault Refusal :=
  run (fun s => if s.actIs n.val 1 then s.serviceAct n.val else s) s

/-- SERVICE_REFLECT (R334). -/
def execServiceReflect (n : StrandId) (s : State) : Host.Outcome State Fault Refusal :=
  run (fun s => if s.actIs n.val 2 then s.serviceAct n.val else s) s

/-- SERVICE_PARK (R334). -/
def execServicePark (n : StrandId) (s : State) : Host.Outcome State Fault Refusal :=
  run (fun s => if s.actIs n.val 3 then s.serviceAct n.val else s) s

/-- HARD_PREEMPTION (R338). -/
def execHardPreemption (n : StrandId) (s : State) : Host.Outcome State Fault Refusal :=
  run (fun s => if s.preemptDue n.val then s.hardPreempt n.val else s) s

/-- QUEUE_AGENT_PREEMPTION_REQUEST (R335). -/
def execQueueAgentPreemptionRequest (n : StrandId) (s : State) : Host.Outcome State Fault Refusal :=
  run (fun s => s.request n.val) s

end Sys2Proof.Machine
end

