-- ==== Sys2Proof/Machine/Control.lean ====
section
/-! DEFINITION. The control register space of a die (R143, R278, R312, R337, R348, R360, R376, R386, R392, R402, R404), and
the control registers of a strand and its core (R20-R25, R235, R251, R327, R331). -/

namespace Sys2Proof.Machine

/-! ## Derived fields -/

/-- Mittens busy with runs, shadows included (ABUSY, R143). -/
def DieState.busyMittens (d : DieState) : Nat :=
  (d.launches.map fun l => (l.runs.map fun r => if r.stage = .running then 1 + r.shadow.isSome.toNat else 0).sum).sum

/-- Accepted launches with no run started, and launches with a run started (ARUNS, R143). -/
def Launch.begun (l : Launch) : Bool := l.runs.any fun r => r.stage != .waiting
def DieState.launchesWaiting (d : DieState) : Nat := d.launches.countP fun l => l.accepted && !l.begun && !(l.failed && l.runs.isEmpty)
def DieState.launchesRunning (d : DieState) : Nat := d.launches.countP fun l => l.accepted && l.begun

/-- A bank's shadow bit is in force (R143). -/
def DieState.shadowBank (d : DieState) (b : Nat) : Bool :=
  (d.duppool.getLsbD b && d.bankCount.get 0 b == 0) || d.dupHold.contains b

/-- DUPACT (R143). -/
def DieState.dupact (d : DieState) : Word :=
  BitVec.ofNat 64 ((List.range 64).map fun b => (d.shadowBank b).toNat * 2 ^ b).sum

/-- A shadow run uses a bank. -/
def DieState.shadowIn (d : DieState) (b : Nat) : Bool :=
  d.launches.any fun l => l.runs.any fun r => r.stage == .running && (match r.shadow with
    | some m => m / 40 == b
    | none => false)

/-- A write of DUPPOOL: a bank cleared while a shadow run uses it leaves force when the run ends (R143). -/
def DieState.writeDuppool (d : DieState) (w : Word) : DieState :=
  { d with
    duppool := w
    dupHold := (List.range 64).filter fun b => d.shadowBank b && !w.getLsbD b && d.shadowIn b }

/-- A write of DMBASE: the records it discards count as lost (R386). -/
def DieState.writeDmbase (d : DieState) (w : Word) : DieState :=
  { d with
    dmbase := BitVec.ofNat 64 (wbits w 12 36 * 4096 + wbits w 0 5)
    dmlost := satAdd d.dmlost (d.dmtail - d.dmhead).toNat
    dmhead := 0
    dmtail := 0 }

/-- PREQS: the requests of a die's strands (R337). -/
def State.requests (s : State) (d : Nat) : Word :=
  BitVec.ofNat 64 ((List.range 64).map fun i => (s.strand (64 * d + i)).preq.toNat * 2 ^ i).sum

/-- PREQS written: each 1 clears a request (R337). -/
def State.clearRequests (s : State) (d : Nat) (w : Word) : State :=
  (List.range 64).foldl (fun t i =>
    if w.getLsbD i && (s.strand (64 * d + i)).preq then t.updStrand (64 * d + i) fun x => { x with preq := false } else t) s

/-- PSET written: each 1 sets a request, but not of an IDLE strand (R335, R337). -/
def State.setRequests (s : State) (d : Nat) (w : Word) : State :=
  (List.range 64).foldl (fun t i => if w.getLsbD i then t.request (64 * d + i) else t) s

/-! ## The control register space -/

/-- What a read of offset `o` of die `k` returns; an unassigned offset reads 0 (R300). -/
def State.ctrlRead (s : State) (k o : Nat) : Word :=
  let d := s.die k
  let n (x : Nat) : Word := BitVec.ofNat 64 x
  match o with
  | 0x10000 => d.astab
  | 0x10008 => d.fqbase
  | 0x10010 => d.fqhead.setWidth 64
  | 0x10018 => n (d.fqtail.toNat + d.fqovf.toNat * 2 ^ 63)
  | 0x10020 => d.fqlost.setWidth 64
  | 0x10030 => n (d.tcmds.length + d.norep.toNat * 256)
  | 0x10038 => d.free1.setWidth 64
  | 0x20000 => d.abudget.setWidth 64
  | 0x20008 => n d.busyMittens
  | 0x20010 => d.lktmo.setWidth 64
  | 0x20018 => d.duppool
  | 0x20020 => n d.dupall.toNat
  | 0x20028 => n (d.uecnt * 2 ^ 32 + d.cecnt)
  | 0x20030 => n (d.launchesWaiting * 65536 + d.launchesRunning)
  | 0x20038 => d.dupact
  | 0x30000 => d.qage.setWidth 64
  | 0x30008 => n d.queuesPending
  | 0x30010 => n d.farmsUsed
  | 0x30018 => d.qcbase
  | 0x40000 => d.ptmo.setWidth 64
  | 0x40008 => s.requests k
  | 0x50000 => n d.port.pstate
  | 0x50010 => d.port.pcfg.setWidth 64
  | 0x50018 => n (if d.port.pers = 1 then d.port.win else 0)
  | 0x50020 => n d.port.pcount
  | 0x50028 => n d.port.pdrain
  | 0x50030 => n (d.port.failed * 2 ^ 32 + d.port.inFlight)
  | 0x50038 => d.port.ptab
  | 0x50040 => n d.port.ptcnt
  | 0x60000 => d.dmbase
  | 0x60008 => d.dmhead.setWidth 64
  | 0x60010 => n (d.dmtail.toNat + d.dmovf.toNat * 2 ^ 63)
  | 0x60018 => d.dmlost.setWidth 64
  | 0x60020 => if k = 0 then d.pcap.setWidth 64 else 0
  | 0x60028 => if k = 0 then n (wbits d.pmeas 0 32) else n (wbits d.pmeas 16 16 * 65536)
  | 0x60030 => d.tmax.setWidth 64
  | 0x60038 => n (d.memerrU.toNat * 2 ^ 32 + d.memerrC.toNat)
  | 0x60040 => n (d.quars.toNat * 2 ^ 32 + d.mism.toNat)
  | 0x60048 => d.xcnt.setWidth 64
  | 0x70010 => n (d.crslot.toNat * 256 + d.crstatus.toNat)
  | 0x70018 => d.cdead.setWidth 64
  | 0x70020 => s.member.setWidth 64
  | _ => if 0x40100 ≤ o ∧ o < 0x40300 ∧ o % 8 = 0 then d.psave.get 0 ((o - 0x40100) / 8) else 0

/-- The queue whose enable a write of QCTL is (R348). -/
def qctlEnable (o : Nat) (w : Word) : Option Nat := if o = 0x30020 ∧ wbits w 16 2 = 1 then some (wbits w 0 14) else none

/-- A write the writing store waits to perform: TCMD while PEND = 64 (R312), an enable of a queue while a row it reads makes it
wait (R107, R348). -/
def State.ctrlBlocked (s : State) (k o : Nat) (w : Word) : Bool :=
  (o == 0x10028 && decide (64 ≤ (s.die k).tcmds.length))
    || (match qctlEnable o w with
      | some q => s.piecesWait (s.enablePlaces k q) none
      | none => false)

/-- Its wait starts the timeouts of locked rows (R141). -/
def State.noteCtrl (s : State) (k o : Nat) (w : Word) : State :=
  match qctlEnable o w with
  | some q => s.notePieces (s.enablePlaces k q) none
  | none => s

/-- A write of offset `o` of die `k`, field by field (R9); an unassigned offset takes none (R300). -/
def State.ctrlWrite (s : State) (k o : Nat) (w : Word) : State :=
  let n (lo len : Nat) : Nat := wbits w lo len
  match o with
  | 0x10000 => s.updDie k fun d => { d with astab := BitVec.ofNat 64 (n 15 33 * 2 ^ 15) }
  | 0x10008 => s.updDie k fun d => { d with fqbase := BitVec.ofNat 64 (n 18 30 * 2 ^ 18) }
  | 0x10010 => s.updDie k fun d =>
      let h := w.setWidth 13
      if (h - d.fqhead).toNat ≤ (d.fqtail - d.fqhead).toNat then { d with fqhead := h } else d
  | 0x10018 => s.updDie k fun d => { d with fqovf := d.fqovf && !w.getLsbD 63 }
  | 0x10020 => s.updDie k fun d => { d with fqlost := w.setWidth 32 }
  | 0x10028 => s.updDie k fun d =>
      if 64 ≤ d.tcmds.length then d else { d with tcmds := d.tcmds ++ [⟨n 6 42 * 64, [], false, 0, 0, 0, none⟩] }
  | 0x10030 => s.updDie k fun d => { d with norep := d.norep && !w.getLsbD 8 }
  | 0x10038 => s.updDie k fun d => { d with free1 := w.setWidth 32 }
  | 0x20000 => s.updDie k fun d => { d with abudget := w.setWidth 10 }
  | 0x20010 => s.updDie k fun d => { d with lktmo := w.setWidth 20 }
  | 0x20018 => s.updDie k fun d => d.writeDuppool w
  | 0x20020 => s.updDie k fun d => { d with dupall := w.getLsbD 0 }
  | 0x20028 => s.updDie k fun d => { d with uecnt := n 32 32, cecnt := n 0 32 }
  | 0x30000 => s.updDie k fun d => { d with qage := w.setWidth 20 }
  | 0x30018 => s.updDie k fun d => { d with qcbase := BitVec.ofNat 64 (n 20 28 * 2 ^ 20) }
  | 0x30020 => match n 16 2 with
    | 1 => s.enableQueue k (n 0 14)
    | 2 => s.disableQueue k (n 0 14)
    | 3 => s.clearQueue k (n 0 14)
    | _ => s
  | 0x40000 => s.updDie k fun d => { d with ptmo := w.setWidth 20 }
  | 0x40008 => s.clearRequests k w
  | 0x40010 => s.setRequests k w
  | 0x50008 => s.portCommand k w
  | 0x50010 => s.updPort k fun p => { p with pcfg := w.setWidth 5 }
  | 0x50028 => s.updPort k fun p => { p with pdrain := n 0 20 }
  | 0x50038 => s.updPort k fun p => { p with ptab := BitVec.ofNat 64 (n 6 42 * 64) }
  | 0x50040 => s.updPort k fun p => { p with ptcnt := n 0 13 }
  | 0x60000 => s.updDie k fun d => d.writeDmbase w
  | 0x60008 => s.updDie k fun d =>
      let h := w.setWidth 17
      if (h - d.dmhead).toNat ≤ (d.dmtail - d.dmhead).toNat then { d with dmhead := h } else d
  | 0x60010 => s.updDie k fun d => { d with dmovf := d.dmovf && !w.getLsbD 63 }
  | 0x60018 => s.updDie k fun d => { d with dmlost := w.setWidth 32 }
  | 0x60020 => if k = 0 then s.updDie k fun d => { d with pcap := w.setWidth 12 } else s
  | 0x60038 => s.updDie k fun d => { d with memerrU := BitVec.ofNat 32 (n 32 32), memerrC := w.setWidth 32 }
  | 0x60040 => s.updDie k fun d => { d with quars := BitVec.ofNat 32 (n 32 32), mism := w.setWidth 32 }
  | 0x60048 => s.updDie k fun d => { d with xcnt := w.setWidth 32 }
  | 0x70000 => s.installRoster k w
  | 0x70008 => s.retireRoster k w
  | 0x70018 => s.updDie k fun d => { d with cdead := w.setWidth 24 }
  | _ =>
    if 0x40100 ≤ o ∧ o < 0x40300 ∧ o % 8 = 0 then
      s.updDie k fun d => { d with psave := d.psave.put 0 ((o - 0x40100) / 8) (BitVec.ofNat 64 (n 6 42 * 64)) }
    else s

/-! ## Control registers (R23) -/

/-- A strand's or its core's control register (R23). -/
def State.crRead (s : State) (n : Nat) : Word :=
  let x := s.me
  let c := s.myCore
  match n with
  | 0x000 => x.vl
  | 0x001 => x.vtype
  | 0x002 => x.vstart
  | 0x003 => x.vbase
  | 0x004 => x.vspace
  | 0x005 => x.vgrant
  | 0x006 => BitVec.ofNat 64 (c.lpreq.toNat + c.own0.toNat * 2 ^ 8 + c.own1.toNat * 2 ^ 16 + c.quar.toNat * 2 ^ 24)
  | 0x007 => x.vsend
  | 0x008 => x.vfarm
  | 0x009 => BitVec.ofNat 64 (Nat.min c.vcap.toNat 64)
  | 0x010 => BitVec.ofNat 64 x.posted
  | 0x011 => truth c.recheck
  | 0x040 => x.sstat
  | 0x041 => x.tcause
  | 0x042 => x.tval
  | 0x043 => x.tpc
  | 0x044 => x.tinst
  | 0x045 => x.tvec
  | 0x046 => c.svcmode.setWidth 64
  | 0x047 => c.svcq
  | 0x050 => x.asid
  | 0x051 => x.ortb
  | 0x060 => BitVec.ofNat 64 s.now + c.cycleOff
  | 0x061 => x.instret
  | _ =>
    if 0x020 ≤ n ∧ n ≤ 0x027 then
      let t := c.streams.get Stream.closed (n - 0x020)
      BitVec.ofNat 64 (t.count % 2 ^ 32 + t.outbound.toNat * 2 ^ 61 + t.fail.toNat * 2 ^ 62 + t.isOpen.toNat * 2 ^ 63)
    else if 0x030 ≤ n ∧ n ≤ 0x037 then x.tcfg.get 0 (n - 0x030)
    else 0

/-- User mode may read the register; the others are marked "-" (R23). -/
def crUserReads (n : Nat) : Bool := n ≤ 0x037 || n == 0x060 || n == 0x061

/-- User mode may write a field of it (R23). -/
def crUserWrites (n : Nat) : Bool := n == 0x001 || n == 0x004 || (0x030 ≤ n && n ≤ 0x037)

/-- Supervisor mode may write a field of it (R23, R25). -/
def crWritable (n : Nat) : Bool := n != 0x005 && n != 0x010

/-- A write of lpart: LPREQ, and each 1 of `clear` returns a lane group to service (R20). -/
def Core.writeLpart (c : Core) (w : Word) (clear : Word) : Core :=
  { c with lpreq := w.setWidth 8, quar := c.quar &&& ~~~ (BitVec.ofNat 8 (wbits clear 24 8)) }

/-- A write of vfarm; FM written 0 abandons the strip held (R31), and a context left may free (R32). With FM kept 1 the strip held
stays with the farm it was taken from (log 58). -/
def State.writeVfarm (s : State) (w : Word) : State :=
  let x := s.me
  let v := BitVec.ofNat 64 (wbits w 63 1 * 2 ^ 63 + wbits w 0 6)
  let s1 := if x.inFarm && !w.getLsbD 63 then s.dropStrip s.cur else s
  let s2 := s1.upd fun y => { y with vfarm := v }
  if x.inFarm then s2.freeFarm (dieOf s.cur) x.fctx else s2

/-- A write of a tcfg: a change zeroes the tile and clears its poison (R235). -/
def Strand.writeTcfg (x : Strand) (t : Nat) (w : Word) : Strand :=
  let v := BitVec.ofNat 64 (wbits w 24 4 * 2 ^ 24 + wbits w 8 9 * 2 ^ 8 + wbits w 0 8)
  if x.tcfg.get 0 t = v then x
  else
    { x with
      tcfg := x.tcfg.put 0 t v
      t := x.t.filter fun p => p.1 / 16384 != t
      tp := x.tp.filter fun p => p.1 / 256 != t }

/-- The write of value `w` to a control register, and of `clear` to RW1C fields; the retiring instruction is not added to a
written instret (R9, R180, R181). -/
def State.crWrite (s : State) (n : Nat) (w clear : Word) : State :=
  match n with
  | 0x000 => s.upd fun x => { x with vl := BitVec.ofNat 64 (Nat.min w.toNat 65536) }
  | 0x001 => s.upd fun x => { x with vtype := BitVec.ofNat 64 (wbits w 0 18) }
  | 0x002 => s.upd fun x => { x with vstart := w }
  | 0x003 => s.upd fun x => { x with vbase := w }
  | 0x004 => s.upd fun x => { x with vspace := BitVec.ofNat 64 (wbits w 0 2) }
  | 0x006 => s.updMyCore fun c => c.writeLpart w clear
  | 0x007 => s.upd fun x => { x with vsend := w }
  | 0x008 => s.writeVfarm w
  | 0x009 => s.updMyCore fun c => { c with vcap := w.setWidth 7 }
  | 0x011 => s.updMyCore fun c => { c with recheck := w.getLsbD 0 }
  | 0x040 => s.upd fun x => { x with sstat := BitVec.ofNat 64 (wbits x.sstat 0 1 + wbits w 1 3 * 2 + wbits w 7 1 * 128) }
  | 0x041 => s.upd fun x => { x with tcause := w }
  | 0x042 => s.upd fun x => { x with tval := w }
  | 0x043 => s.upd fun x => { x with tpc := w }
  | 0x044 => s.upd fun x => { x with tinst := w }
  | 0x045 => s.upd fun x => { x with tvec := w }
  | 0x046 => s.updMyCore fun c => { c with svcmode := w.setWidth 2 }
  | 0x047 => s.updMyCore fun c => { c with svcq := BitVec.ofNat 64 (wbits w 6 18 * 64) }
  | 0x050 => s.upd fun x => { x with asid := BitVec.ofNat 64 (wbits w 0 12) }
  | 0x051 => s.upd fun x => { x with ortb := BitVec.ofNat 64 (wbits w 56 8 * 2 ^ 56 + wbits w 6 42 * 64) }
  | 0x060 => s.updMyCore fun c => { c with cycleOff := w - BitVec.ofNat 64 s.now }
  | 0x061 => s.upd fun x => { x with instret := w - 1 }
  | _ =>
    if 0x020 ≤ n ∧ n ≤ 0x027 then
      s.updMyCore fun c =>
        let t := { c.streams.get Stream.closed (n - 0x020) with count := wbits w 0 32 }
        { c with streams := c.streams.put Stream.closed (n - 0x020) t }
    else if 0x030 ≤ n ∧ n ≤ 0x037 then s.upd fun x => x.writeTcfg (n - 0x030) w
    else s

/-! ## Register writes as events -/

/-- PSET_WRITE (R337). -/
def execPsetWrite (d : Die) (w : Word) (s : State) : Host.Outcome State Fault Refusal := run (fun s => s.setRequests d.val w) s
/-- LPART_WRITE (R20). -/
def execLpartWrite (c : CoreId) (w : Word) (s : State) : Host.Outcome State Fault Refusal :=
  run (fun s => s.updCore c.val fun k => k.writeLpart w w) s
/-- DMBASE_WRITE (R386). -/
def execDmbaseWrite (d : Die) (w : Word) (s : State) : Host.Outcome State Fault Refusal :=
  run (fun s => s.updDie d.val fun k => k.writeDmbase w) s
/-- DUPPOOL_WRITE (R143). -/
def execDuppoolWrite (d : Die) (w : Word) (s : State) : Host.Outcome State Fault Refusal :=
  run (fun s => s.updDie d.val fun k => k.writeDuppool w) s
/-- A write of the register space that is not a strand's, or what puts it off: a row starts its wait, a full command queue has it
come again at the end of the agenda (R107, R312). -/
def State.outerWrite (s : State) (k o : Nat) (w : Word) (i : Instr) : State :=
  if s.ctrlBlocked k o w then
    match qctlEnable o w with
    | some _ => s.noteCtrl k o w
    | none => { s with agenda := s.agenda ++ [.event i] }
  else s.ctrlWrite k o w

/-- CONTROL_REGISTER_WRITE (R9). -/
def execControlRegisterWrite (d : Die) (off : BitVec 20) (w : Word) (s : State) : Host.Outcome State Fault Refusal :=
  run (fun s => s.outerWrite d.val off.toNat w (.controlRegisterWrite d off w)) s

/-! ## Errors of a die's own memories -/

/-- One uncorrectable error more (R404). -/
def State.countLoss (s : State) (k : Nat) : State := s.updDie k fun d => { d with memerrU := satAdd d.memerrU 1 }

/-- An error of a die's own memories is met: it is counted, and what it spoils is poisoned (R404 and the table of protections). -/
def State.meetFlaw (s : State) (f : Flaw) : State :=
  match f with
  | .fixed k => s.updDie k fun d => { d with memerrC := satAdd d.memerrC 1 }
  | .group n r j => (s.countLoss (dieOf n)).updStrand n fun x => { x with vp := x.vp.put false (64 * r + j) true }
  | .tileRow n t j => (s.countLoss (dieOf n)).updStrand n fun x => { x with tp := x.tp.put false (256 * t + j) true }
  | .pad c l => (s.countLoss (c / 32)).setPoison (scratchAddr c (64 * l)) true
  | .line k a dirty => if dirty then (s.countLoss k).setPoison a true else s.countLoss k

/-- The error names a place of the module. -/
def Flaw.ok (f : Flaw) : Bool :=
  match f with
  | .fixed k => decide (k < 8)
  | .group n r j => decide (n < 512) && decide (r < 64) && decide (j < 64)
  | .tileRow n t j => decide (n < 512) && decide (t < 8) && decide (j < 256)
  | .pad c l => decide (c < 256) && decide (l < 32768)
  | .line k a _ => decide (k < 8) && decide (a < scratchBase)

end Sys2Proof.Machine
end

