-- ==== Sys2Proof/Machine/Access.lean ====
section
/-! DEFINITION. Scalar accesses (R172-R176, R182-R184): the check, the wait, poison, and what is reached. -/

namespace Sys2Proof.Machine

/-! ## Registers with errors (R384) -/

/-- A register written with zero, whatever may write it. -/
def State.zeroReg (s : State) (n : Nat) (r : RegName) : State :=
  match r with
  | .g k => s.updStrand n fun x => { x with g := x.g.erase k }
  | .k k => s.updStrand n fun x => { x with k := x.k.filter fun p => p.1 / 65536 != k }
  | .e k => s.updStrand n fun x => { x with e := x.e.filter fun p => p.1 / 4096 != k }
  | .cr k =>
    if k = 0x05 then s.updStrand n fun x => { x with vgrant := 0 }
    else if k = 0x10 then s.updStrand n fun x => { x with posted := 0 }
    else if k = 0x61 then s.updStrand n fun x => { x with instret := 0 }
    else { ({ s with cur := n } : State).crWrite k 0 0 with cur := s.cur }

/-- REGISTER_ECC_ERROR (R384): one more uncorrectable memory error (R404), a damage record, the trap, and the register zero. -/
def State.consumeReg (s : State) (r : RegName) : State :=
  let t := s.updDie (dieOf s.cur) fun d => { d with memerrU := satAdd d.memerrU 1 }
  let u := ((t.damage (dieOf s.cur) (killedWork s.me s.cur 9 0)).trap 9 0).zeroReg s.cur r
  u.upd fun x => { x with badRegs := x.badRegs.filter (· != r) }

/-! ## Scalar accesses -/

/-- What scalar accesses need; they may reach device memory and control registers (R84, R97, R300). -/
def Acc.scalarLoad : Acc := ⟨[0], false, true, true, false, false⟩
def Acc.scalarStore : Acc := ⟨[1], true, true, true, false, false⟩
def Acc.scalarAtomic : Acc := ⟨[4], true, true, true, false, false⟩

/-- A scalar load of `n` bytes at `o` by the strand whose turn it is: a failed check traps, poison traps with cause 0x09, a
wait holds the instruction; else `k` goes on with the value (R172-R174). A poisoned line of a KIND 11 object traps too (log 66). -/
def State.loadAt (s : State) (o : Word) (n : Nat) (k : State → Nat → State) : State :=
  match s.walk (s.agentOf s.cur) .scalarLoad s.myHolds o n 0 (8 * n) with
  | .fail f => s.trapFail f o
  | .wait w => s.holdFor w
  | .ok h => match h.reach with
    | .ctrl d off => k s (s.ctrlRead d off).toNat
    | .bytes ps =>
      if s.piecesWait ps (some s.cur) then s.holdRows ps (s.pinsOf h.entries)
      else
        let t := s.eccPieces ps
        if t.piecesPoisoned ps then t.trap 9 o else k t (t.readPieces ps)

/-- A scalar store of `n` bytes of `v` at `o`; `via` says whether it ends at the home L2 (R172, R175). -/
def State.storeAt (s : State) (via : Via) (o : Word) (n v : Nat) (k : State → State) : State :=
  match s.walk (s.agentOf s.cur) .scalarStore s.myHolds o n 0 (8 * n) with
  | .fail f => s.trapFail f o
  | .wait w => s.holdFor w
  | .ok h => match h.reach with
    | .ctrl d off =>
      let w := BitVec.ofNat 64 v
      if s.ctrlBlocked d off w then (s.noteCtrl d off w).hold else k (s.ctrlWrite d off w)
    | .bytes ps =>
      if s.piecesWait ps (some s.cur) then s.holdRows ps (s.pinsOf h.entries)
      else k (((s.allocateAll h.allocs).noteDroppedPieces ps).writePieces via ps v)

/-- A scalar atomic of `n` bytes at `o`: `f` gives the new value, none for no write; `k` goes on with the old one (R183).
A poisoned line of a KIND 11 object traps with cause 0x09 (log 66). -/
def State.atomicAt (s : State) (o : Word) (n : Nat) (f : Nat → Option Nat) (k : State → Nat → State) : State :=
  match s.walk (s.agentOf s.cur) .scalarAtomic s.myHolds o n 0 (8 * n) with
  | .fail f => s.trapFail f o
  | .wait w => s.holdFor w
  | .ok h => match h.reach with
    | .ctrl d off =>
      let old := (s.ctrlRead d off).toNat
      match f old with
      | some v =>
        let w := BitVec.ofNat 64 v
        if s.ctrlBlocked d off w then (s.noteCtrl d off w).hold else k (s.ctrlWrite d off w) old
      | none => k s old
    | .bytes ps =>
      if s.piecesWait ps (some s.cur) then s.holdRows ps (s.pinsOf h.entries)
      else
        let t := s.opened h
        if t.piecesPoisoned ps then (s.eccPieces ps).trap 9 o
        else
          let old := t.readPieces ps
          match f old with
          | some v => k ((t.noteDroppedPieces ps).writePieces .l2 ps v) old
          | none => k t old

/-- gd written and the instruction retired. -/
def State.retireWith (s : State) (d : GReg) (w : Word) : State := s.upd fun x => (x.setG d w).retire

/-- The instruction retired. -/
def State.done (s : State) : State := s.upd Strand.retire

/-- The address of a load or store with an offset (R174, R175). -/
def Strand.addr (x : Strand) (a : GReg) (imm : BitVec 15) : Word := x.getG a + simm imm

/-- A load, sign- or zero-extended (R174). -/
def loadOp (signed : Bool) (n : Nat) (d a : GReg) (imm : BitVec 15) (s : State) : Host.Outcome State Fault Refusal :=
  run (fun s => s.loadAt (s.me.addr a imm) n fun t v =>
    t.retireWith d (if signed then sext v (8 * n) else BitVec.ofNat 64 v)) s

/-- A store of the low bytes of gb (R175). -/
def storeOp (n : Nat) (a b : GReg) (imm : BitVec 15) (s : State) : Host.Outcome State Fault Refusal :=
  run (fun s => s.storeAt .l1 (s.me.addr a imm) n ((s.me.getG b).toNat % 2 ^ (8 * n)) State.done) s

/-- An acquire load (R176). -/
def loadAcqOp (n : Nat) (d a : GReg) (s : State) : Host.Outcome State Fault Refusal :=
  run (fun s => s.loadAt (s.me.getG a) n fun t v => t.retireWith d (BitVec.ofNat 64 v)) s

/-- A release store: at die scope or wider it waits for the strand's posted commands (R35, R176). That it waits before R172's
checks is the model's choice (log 24). -/
def storeRelOp (n : Nat) (a b : GReg) (c : Scope) (s : State) : Host.Outcome State Fault Refusal :=
  run (fun s => if s.releaseWaits c true then s.hold
    else s.storeAt .l1 (s.me.getG a) n ((s.me.getG b).toNat % 2 ^ (8 * n)) State.done) s

/-- An atomic of `n` bytes: `f old b c` is the new value, where c is gd's value before (R182, R183). That a release one waits
before R172's checks is the model's choice (log 24). -/
def atomicOp (n : Nat) (f : Nat → Nat → Nat → Option Nat) (d a b : GReg) (c : Scope) (rel : Bool) (s : State) :
    Host.Outcome State Fault Refusal :=
  run (fun s => if s.releaseWaits c rel then s.hold
    else
      let m := 2 ^ (8 * n)
      s.atomicAt (s.me.getG a) n (fun old => f old ((s.me.getG b).toNat % m) ((s.me.getG d).toNat % m)) fun t old =>
        t.retireWith d (sext old (8 * n))) s

/-- The signed value of `n` bytes. -/
def signedOf (n v : Nat) : Int := if v < 2 ^ (8 * n - 1) then (v : Int) else (v : Int) - (2 : Int) ^ (8 * n)

/-- The new values of R182, for `n` bytes. -/
def atSwap (_old b _c : Nat) : Option Nat := some b
def atAdd (n old b _c : Nat) : Option Nat := some ((old + b) % 2 ^ (8 * n))
def atAnd (old b _c : Nat) : Option Nat := some (old &&& b)
def atOr (old b _c : Nat) : Option Nat := some (old ||| b)
def atXor (old b _c : Nat) : Option Nat := some (old ^^^ b)
def atMin (n old b _c : Nat) : Option Nat := some (if signedOf n b < signedOf n old then b else old)
def atMax (n old b _c : Nat) : Option Nat := some (if signedOf n old < signedOf n b then b else old)
def atMinu (old b _c : Nat) : Option Nat := some (Nat.min old b)
def atMaxu (old b _c : Nat) : Option Nat := some (Nat.max old b)
def atCas (old b c : Nat) : Option Nat := if old = c then some b else none

end Sys2Proof.Machine
end

