-- ==== Sys2Proof/Machine/Vector.lean ====
section
/-! DEFINITION. What vector instructions share: elements and their poison (R162), the length limit (R190), the grant rule
(R26), poison consumption (R229, R230), the scalar recheck (R231, R232), and retirement. -/

namespace Sys2Proof.Machine

/-! ## Elements (R22, R43, R162) -/

/-- Element `i` of `w` bits of the register whose bytes begin at key `base`. -/
def elemAt (m : Sparse Byte) (base w i : Nat) : Nat :=
  if w < 8 then (m.get 0 (base + i * w / 8)).toNat / 2 ^ (i * w % 8) % 2 ^ w
  else ofBytes ((List.range (w / 8)).map fun j => m.get 0 (base + i * (w / 8) + j))

/-- The map with that element written. -/
def putElem (m : Sparse Byte) (base w i v : Nat) : Sparse Byte :=
  if w < 8 then
    let a := base + i * w / 8
    let sh := i * w % 8
    let old := (m.get 0 a).toNat
    m.put 0 a (BitVec.ofNat 8 (old - old / 2 ^ sh % 2 ^ w * 2 ^ sh + v % 2 ^ w * 2 ^ sh))
  else (List.range (w / 8)).foldl (fun n j => n.put 0 (base + i * (w / 8) + j) (BitVec.ofNat 8 (v / 2 ^ (8 * j)))) m

/-- Element `i` of a vector register, in format `f`. -/
def Strand.elem (x : Strand) (v : VReg) (f i : Nat) : Nat := elemAt x.v (32768 * v.val) (fmtBits f) i

/-- The element group of 512 bytes that holds element `i` of format `f` (R12). -/
def egOf (f i : Nat) : Nat := i * fmtBits f / 4096

/-- The group that holds an element carries poison (R13). -/
def Strand.elemPoison (x : Strand) (v : VReg) (f i : Nat) : Bool := x.vp.get false (64 * v.val + egOf f i)

/-- Every element of group `j` is among those written. -/
def fullEg (f : Nat) (ws : List (Nat × Nat)) (j : Nat) : Bool := (ws.countP fun p => egOf f p.1 == j) == 4096 / fmtBits f

/-- Elements written: a group's poison goes when each of its elements is written (R162). -/
def Strand.setElems (x : Strand) (v : VReg) (f : Nat) (ws : List (Nat × Nat)) : Strand :=
  { x with
    v := ws.foldl (fun m p => putElem m (32768 * v.val) (fmtBits f) p.1 p.2) x.v
    vp := x.vp.filter fun p => !(p.1 / 64 == v.val && fullEg f ws (p.1 % 64)) }

/-- The groups that hold these elements are marked poisoned (R162). -/
def Strand.markElems (x : Strand) (v : VReg) (f : Nat) (is : List Nat) : Strand :=
  { x with vp := is.foldl (fun m i => m.put false (64 * v.val + egOf f i) true) x.vp }

/-- Bits of a mask register written. -/
def Strand.setBitsK (x : Strand) (k : KReg) (bs : List (Nat × Bool)) : Strand := bs.foldl (fun y p => y.setK k p.1 p.2) x

/-- Active elements: from vstart up to vl, with their mask bit (R162). -/
def Strand.actives (x : Strand) (k : KReg) : List Nat :=
  (List.range x.vl.toNat).filter fun i => decide (x.vstart.toNat ≤ i) && x.getK k i

/-- Elements from vstart up to vl. -/
def Strand.span (x : Strand) : List Nat := (List.range x.vl.toNat).filter fun i => decide (x.vstart.toNat ≤ i)

/-! ## Lengths (R190) -/

/-- VLMAX of a format. -/
def vlmax (f : Nat) : Nat := 262144 / fmtBits f

/-- A strand's lane share in elements of a format. -/
def State.share (s : State) (n f : Nat) : Nat := vlmax f * s.groups n / 8

/-- The length limit L over the formats an instruction uses. -/
def State.limit (s : State) (fs : List Nat) : Nat :=
  match fs with
  | [] => 65536
  | f :: r => Nat.min (s.share s.cur f) (s.limit r)

/-- vl exceeds L. -/
def State.tooLong (s : State) (fs : List Nat) : Bool := decide (s.limit fs < s.me.vl.toNat)

/-! ## The grant rule (R21, R26) -/

/-- The groups strand `i` holds after its hand-over. -/
def Core.heldAfter (c : Core) (i : Nat) : BitVec 8 :=
  BitVec.ofNat 8 (((List.range 8).filter fun g =>
    (c.lpreq.getLsbD g == (i == 1)) && !c.quar.getLsbD g && ((c.own i).getLsbD g || !(c.own (1 - i)).getLsbD g)).map (2 ^ ·)).sum

/-- The lane hand-over of vsetl: a change of groups clears the strand's vector and mask registers. -/
def State.handOver (s : State) : State :=
  let i := s.cur % 2
  let h := s.myCore.heldAfter i
  if h = s.myCore.own i then s
  else (s.updMyCore fun c => c.setOwn i h).upd fun x => { x with v := [], vp := [], k := [] }

/-- retire_strip: the strip held, if any, is retired (R26, R413). -/
def State.retireStrip (s : State) : State :=
  if s.me.strip then
    (s.upd fun x => { x with strip := false }).updFarm (dieOf s.cur) s.me.stripOf (Farm.settle [])
  else s

/-- The strip a farm gives a strand: none to a core that quarantine has cleared from its mask (R21, R26; log 61). -/
def State.offered (s : State) (cap : Nat) : Option (Farm × Nat × Nat) :=
  match s.myDie.farm s.me.fctx with
  | some f => if f.cleared.getLsbD (coreOf s.cur % 32) then none else f.take cap
  | none => none

/-- A strip taken: the farm as it is then, and the strip's bounds in the strand (R26, R413). -/
def State.takeStrip (s : State) (f : Farm) (a b : Nat) : State :=
  (s.updFarm (dieOf s.cur) s.me.fctx fun _ => f).upd fun x =>
    { x with strip := true, stripOf := x.fctx, vbase := BitVec.ofNat 64 a, vsend := BitVec.ofNat 64 b }

/-- The grant under `cap`, the strip it comes from, and whether the farm was exhausted (R26, R413, R414). -/
def State.nextStrip (s : State) (cap : Nat) : State × Nat × Bool :=
  let x := s.me
  let atEnd (t : State) : State := t.upd fun y => { y with vbase := y.vsend }
  if !x.inFarm then (s, cap, false)
  else if (s.myDie.farm x.fctx).isNone then (atEnd s, 0, true)
  else if x.vbase.toNat + x.vl.toNat < x.vsend.toNat then
    (s.upd fun y => { y with vbase := y.vbase + y.vl }, Nat.min cap (x.vsend - (x.vbase + x.vl)).toNat, false)
  else
    let t := s.retireStrip
    if cap = 0 then (atEnd t, 0, false)
    else match t.offered cap with
    | some (f, a, b) => (t.takeStrip f a b, Nat.min cap (b - a), false)
    | none => (atEnd t, 0, true)

/-- The first code whose bound is the grant; the bounds stand with the highest code first. -/
def bindOf (g : Nat) (l : List (Nat × Nat)) : Nat :=
  match l with
  | [] => 0
  | (c, b) :: r => if b = g then c else bindOf g r

/-- The grant rule after its two checks; gd takes the grant. -/
def State.grantRule (s : State) (d : GReg) (ga : Nat) : State :=
  let t := s.handOver
  let f := t.me.df
  let vm := vlmax f
  let share := t.share t.cur f
  let pcap := Nat.min t.myCore.vcap.toNat 64 * 4096 / fmtBits f
  let (u, g, gone) := t.nextStrip (Nat.min (Nat.min ga vm) (Nat.min share pcap))
  let y := u.me
  let strip := if y.inFarm then [(1, (y.vsend - y.vbase).toNat)] else []
  let bind := if gone then 5 else bindOf g ([(4, pcap), (3, share), (2, vm)] ++ strip ++ [(0, ga)])
  u.upd fun z => (({ z with vl := BitVec.ofNat 64 g, vstart := 0, vgrant := BitVec.ofNat 64 bind } : Strand).setG d
    (BitVec.ofNat 64 g)).retire

/-- The set-length instructions: the pre-emption check, the format check, vtype for vsetlf, the grant rule (R194, R195). -/
def State.setLength (s : State) (d : GReg) (ga : Nat) (vt : Option Word) : State :=
  let w := vt.getD s.me.vtype
  if s.me.preemptPending then s.trap 0x0B 0
  else if wbits w 0 4 = 0xE ∨ wbits w 0 4 = 0xF then s.trap 4 0
  else (s.upd fun x => { x with vtype := BitVec.ofNat 64 (wbits w 0 18) }).grantRule d ga

/-- VSETL (R194). -/
def execVsetl (d a : GReg) (s : State) : Host.Outcome State Fault Refusal :=
  run (fun s => s.setLength d (s.me.getG a).toNat none) s

/-- VSETLF (R194, R195). -/
def execVsetlf (d a b : GReg) (s : State) : Host.Outcome State Fault Refusal :=
  run (fun s => s.setLength d (s.me.getG a).toNat (some (s.me.getG b))) s

/-- VSETLC (R194). -/
def execVsetlc (d : GReg) (imm : BitVec 15) (s : State) : Host.Outcome State Fault Refusal :=
  run (fun s => s.setLength d imm.toNat none) s

/-! ## What a computing instruction does (R216, R229-R232) -/

/-- The destination of a plan: elements of a vector register in a format, or bits of a mask register. -/
inductive Dest where
  | vec (v : VReg) (f : Nat) (ws : List (Nat × Nat))
  | mask (k : KReg) (bs : List (Nat × Bool))
  deriving DecidableEq, Repr

/-- What an instruction reads, and what it writes when it retires. -/
structure Plan where
  /-- Needed elements: register, format, index. -/
  reads : List (VReg × Nat × Nat)
  dest : Dest
  /-- Scale bytes, at keys 4096 e + i. -/
  scales : List (Nat × Byte)
  /-- How many candidates the scalar recheck has (R231); an instruction with none is not rechecked. -/
  cands : Nat
  /-- It advances the stochastic generator (R59). -/
  stoch : Bool
  deriving DecidableEq, Repr

/-- The lowest needed element index whose group carries poison (R230). -/
def Plan.poisonAt (p : Plan) (x : Strand) : Option Nat :=
  ((p.reads.filter fun r => x.elemPoison r.1 r.2.1 r.2.2).map fun r => r.2.2).min?

/-- The groups of the vector destination are marked (R230, R232). -/
def Strand.markDest (x : Strand) (d : Dest) : Strand :=
  match d with
  | .vec v f ws => x.markElems v f (ws.map Prod.fst)
  | .mask _ _ => x

/-- Poison consumed by the instruction of the strand whose turn it is (R230). -/
def State.consume (s : State) (d : Dest) (i : Nat) : State :=
  ((s.upd fun x => x.markDest d).damage (dieOf s.cur) (killedWork s.me s.cur 9 (i % 4294967296))).trap 9 (BitVec.ofNat 64 i)

/-- The effects of retirement: results, scale bytes, vstart, the stochastic generator. -/
def State.retirePlan (s : State) (p : Plan) : State :=
  let s1 := if p.stoch then s.updMyCore fun c => { c with x := advanceX c.x } else s
  s1.upd fun x =>
    let y := match p.dest with
      | .vec v f ws => x.setElems v f ws
      | .mask k bs => x.setBitsK k bs
    ({ y with e := p.scales.foldl (fun m b => m.put 0 b.1 b.2) y.e, vstart := 0 } : Strand).retire

/-- The recheck generator's advance (R231). -/
def advanceY (y : BitVec 32) : BitVec 32 := if y.getLsbD 0 then (y >>> 1) ^^^ 0x80200003#32 else y >>> 1

/-- A second recheck mismatch: marks, quarantine of the lane group, damage record, machine check (R21, R232, R404). -/
def State.quarantine (s : State) (d : Dest) (g : Nat) : State :=
  let b := BitVec.ofNat 8 (2 ^ (g % 8))
  let i := s.cur % 2
  let s1 := s.tick.upd fun x => { x with v := Config.deadLanes s.ticks, k := Config.deadMasks s.ticks }
  let s2 := (s1.upd fun x => x.markDest d).updMyCore fun c =>
    ({ c with quar := c.quar ||| b } : Core).setOwn i (c.own i &&& ~~~ b)
  let s3 := (s2.unmaskCore s.cur).updDie (dieOf s.cur) fun k => { k with quars := satAdd k.quars 1 }
  (s3.damage (dieOf s.cur) { killedWork s.me s.cur 0x0A 0 with srck := 1, unit := 8 * coreOf s.cur + g % 8 }).trap 0x13 0

/-- The number of the candidate that is recomputed, of `m` (R231). -/
def Core.candidate (c : Core) (m : Nat) : Nat := c.y.toNat % m

/-- How often in a row, at most twice, the lanes' result of candidate `c` differs from the recomputed one (R232; log 67). -/
def Strand.mismatches (x : Strand) (c : Nat) : Nat :=
  match x.upsets with
  | a :: r => if a.contains c then (if (r.headD []).contains c then 2 else 1) else 0
  | [] => 0

/-- A plan under the scalar recheck: candidate Y mod m is compared; a mismatch re-executes the instruction once, a second one
is a machine check (R231, R232). -/
def State.finishPlan (s : State) (p : Plan) : State :=
  if 0 < p.cands ∧ s.myCore.recheck then
    let n := s.me.mismatches (s.myCore.candidate p.cands)
    let s1 := (s.upd fun x => { x with upsets := x.upsets.drop (if n = 0 then 1 else 2) }).updDie (dieOf s.cur) fun k =>
      { k with mism := satAdd k.mism n }
    if n = 2 then s1.quarantine p.dest s.me.upsetGroup
    else (s1.updMyCore fun c => { c with y := advanceY c.y }).retirePlan p
  else s.retirePlan p

/-- A computing vector instruction: the format and length checks, then its plan, none of it where vstart ≥ vl (R190, R191,
R216, R230). -/
def State.compute (s : State) (legal : Bool) (fs : List Nat) (plan : State → Plan) : State :=
  if !legal || s.tooLong fs then s.trap 4 0
  else if s.me.vl.toNat ≤ s.me.vstart.toNat then s.upd fun x => ({ x with vstart := 0 } : Strand).retire
  else
    let p := plan s
    match p.poisonAt s.me with
    | some i => s.consume p.dest i
    | none => s.finishPlan p

end Sys2Proof.Machine
end

