-- ==== Sys2Proof/Machine/VecMem.lean ====
section
/-! DEFINITION. Vector loads and stores, scale-register moves and vector atomics (R86-R97, R190-R207). -/

namespace Sys2Proof.Machine

/-! ## The check of every element before any performs (R89, R90, R198) -/

/-- Where an element lies: an address and a bit within its byte, a poisoned index, or a failure without an address. -/
inductive Where where
  | place (a : Word) (b : Nat)
  | index
  | fails (f : Fail) (tval : Word)
  deriving DecidableEq, Repr

/-- Why checking stopped: a failed check, no pin, a mark to wait for, or a poisoned index consumed. -/
inductive Stop where
  | fail (k : Nat) (f : Fail) (tval : Word)
  | pins (k : Nat)
  | wait (w : Await)
  | consume (i : Nat)
  deriving DecidableEq, Repr

/-- An element that passed, and the pieces it reaches. -/
structure Passed where
  idx : Nat
  pieces : List Piece
  entries : List Nat
  allocs : List Alloc
  deriving DecidableEq, Repr

/-- Entries joined without repeats. -/
def joinPins (l es : List Nat) : List Nat := es.foldl (fun m e => if m.contains e then m else e :: m) l

/-- The places of a strand's elements, where the one whose request has failed in flight fails (R364). -/
def State.failing (s : State) (writes : Bool) (l : List (Nat × Where)) : List (Nat × Where) :=
  l.map fun p => match p.2 with
    | .place a _ => if s.me.failAt = some p.1 then (p.1, .fails ⟨7, writes.toNat, 0, 0⟩ a) else p
    | _ => p

/-- Elements checked in ascending order up to the first that stops the check; at most 1,024 sub-tiles are pinned (R90). -/
def scanElems (chk : List Nat → Word → Nat → Chk Hit) (pins : List Nat) (l : List (Nat × Where)) : List Passed × Option Stop :=
  match l with
  | [] => ([], none)
  | (i, .index) :: _ => ([], some (.consume i))
  | (i, .fails f t) :: _ => ([], some (.fail i f t))
  | (i, .place a b) :: r =>
    match chk pins a b with
    | .fail f => ([], some (.fail i f a))
    | .wait .pin => ([], some (.pins i))
    | .wait w => ([], some (.wait w))
    | .ok h =>
      match h.reach with
      | .ctrl _ _ => ([], some (.fail i (.plain 8) a))
      | .bytes ps =>
        let held := joinPins pins h.entries
        if 1024 < held.length then ([], some (.pins i))
        else
          let rest := scanElems chk held r
          (⟨i, ps, h.entries, h.allocs⟩ :: rest.1, rest.2)

/-- The pins of the elements that passed (R90, R198). -/
def State.pinsOfElems (s : State) (l : List Passed) : List Pin := s.pinsOf (joinPins [] (l.flatMap Passed.entries))

/-- The check of one element under vspace: an object address, or a scratchpad address of the own or another core (R82). -/
def State.checkElem (s : State) (acc : Acc) (align nbits : Nat) (held : List Nat) (a : Word) (b : Nat) : Chk Hit :=
  let space := s.me.space
  if space = 0 then s.walk (s.agentOf s.cur) acc (joinPins s.myHolds held) a align b nbits
  else if a.toNat % align ≠ 0 then .fail (.plain 5)
  else if (if space = 1 then 2097152 else 67108864) ≤ a.toNat then .fail (.plain 6)
  else
    let core := if space = 1 then coreOf s.cur else 32 * dieOf s.cur + a.toNat / 2097152
    .ok ⟨.bytes (rawPieces (scratchAddr core (a.toNat % 2097152)) b nbits), [], [], []⟩

/-- The same where poison of a line fails the check as well (R205, R206). -/
def State.checkClean (s : State) (acc : Acc) (align nbits : Nat) (held : List Nat) (a : Word) (b : Nat) : Chk Hit :=
  match s.checkElem acc align nbits held a b with
  | .ok h => match h.reach with
    | .bytes _ => if s.readsPoison h then .fail (.plain 9) else .ok h
    | .ctrl _ _ => .ok h
  | x => x

/-- How many of `n` elements that passed an access performs before a hard pre-emption that is due stops it: all of them where
none is due (R193; log 60). -/
def State.stopAfter (s : State) (n : Nat) : Nat := if s.preemptDue s.cur then Config.stopPoint s.ticks % (n + 1) else n

/-- The access stops at an element boundary: the elements below `v` have performed, the instruction has not retired (R193). -/
def State.stopAt (s : State) (x : Strand) (v : Nat) : State :=
  s.tick.upd fun y => { y with
    vstart := BitVec.ofNat 64 v, pc := x.pc, instret := x.instret, st := .run, held := true, heldAt := x.heldAt }

/-- The elements that passed perform, unless a row lets them wait (R140) or a hard pre-emption stops them (R193). A wait keeps
their pins (R90, R198). -/
def State.performElems (s : State) (l : List Passed) (perform : State → List Passed → State) : State :=
  let all := l.flatMap Passed.pieces
  if s.piecesWait all (some s.cur) then s.holdRows all (s.pinsOfElems l)
  else match l[s.stopAfter l.length]? with
    | some e =>
    let t := perform s (l.take (s.stopAfter l.length))
    if t.me.instret = s.me.instret + 1 then t.stopAt s.me e.idx else t
    | none => perform s l

/-- A trim or a trap at element `k` (R89), or what the elements that passed do. A trim sets vl to `unit` x k (R203, R205).
`consume` is the consumption of poison, which leaves no other effect; a wait keeps the pins taken so far and leaves everything
else as it was (R310). -/
def State.trimOrTrap (s : State) (unit : Nat) (r : List Passed × Option Stop) (consume : Nat → State)
    (perform : State → List Passed → State) : State :=
  let trimmed (k : Nat) : State := s.upd fun x => { x with vl := BitVec.ofNat 64 (unit * k) }
  match r.2 with
  | none => s.performElems r.1 perform
  | some (.consume i) => consume i
  | some (.wait w) => (s.upd fun x => { x with pins := s.pinsOfElems r.1 }).holdFor w
  | some (.pins k) => if r.1.isEmpty then s.hold else (trimmed k).performElems r.1 perform
  | some (.fail k f t) =>
    if r.1.isEmpty then (s.upd fun x => { x with vstart := BitVec.ofNat 64 k }).trapFail f t
    else (trimmed k).performElems r.1 perform

/-! ## Order, poison flags (R100, R199) -/

/-- Two elements reach the same place. -/
def Passed.meets (e h : Passed) : Bool := e.pieces.any fun p => h.pieces.any fun q => p.place == q.place && p.shift == q.shift

/-- An element placed in the order of performing: among elements of one place a free value decides. -/
def placeElem (t : Nat) (l : List Passed) (e : Passed) : List Passed :=
  match l with
  | [] => [e]
  | h :: r => if e.meets h && Config.earlier t e.idx h.idx then e :: h :: r else h :: placeElem t r e

/-- Elements in an order in which an unordered access may perform. -/
def State.anyOrder (s : State) (l : List Passed) : List Passed := l.foldl (placeElem s.ticks) []

/-- Places of a store: (address, shift, width), a moving sub-tile's destination included. -/
def placesOf (ps : List Piece) : List (Nat × Nat × Nat) :=
  ps.flatMap fun p => p.place.addrs.map fun a => (a, p.shift, p.width)

/-- Poison flags of the lines a store wrote: `bad` from poisoned sources, `clean` from others (R199). -/
def State.flagLines (s : State) (bad clean : List (Nat × Nat × Nat)) : State :=
  let lines := ((bad ++ clean).map fun p => p.1 / 64).eraseDups
  lines.foldl (fun t l =>
    if bad.any fun p => p.1 / 64 == l then t.setPoison (64 * l) true
    else if (((clean.filter fun p => p.1 / 64 == l).eraseDups).map fun p => p.2.2).sum = 512 then t.setPoison (64 * l) false
    else t) s

/-- The effects of the ECC checks of the reads, which are one access. -/
def State.eccAll (s : State) (l : List Passed) : State := s.eccPieces (l.flatMap Passed.pieces)

/-- The allocations of writes, and the records of writes that are dropped. -/
def State.openElems (s : State) (l : List Passed) : State :=
  (l.foldl (fun (t : State) e => t.allocateAll e.allocs) s).noteDroppedPieces (l.flatMap Passed.pieces)

/-- vstart := 0, and the instruction retires. -/
def State.vdone (s : State) (f : Strand → Strand) : State := s.upd fun x => ({ f x with vstart := 0 } : Strand).retire

/-! ## Performing (R198) -/

/-- Loaded elements: poison of a line marks the receiving group (R96). -/
def State.loadElems (v : VReg) (f : Nat) (s : State) (l : List Passed) : State :=
  let t := s.eccAll l
  t.vdone fun x => (x.setElems v f (l.map fun e => (e.idx, t.readPieces e.pieces))).markElems v f
    ((l.filter fun e => t.piecesPoisoned e.pieces).map Passed.idx)

/-- Stored elements, in ascending order or in any. -/
def State.storeElems (v : VReg) (f : Nat) (ordered : Bool) (s : State) (l : List Passed) : State :=
  let x := s.me
  let order := if ordered then l else s.anyOrder l
  let t := order.foldl (fun (t : State) e => t.writePieces .l1 e.pieces (x.elem v f e.idx)) (s.openElems l)
  let (bad, clean) := l.partition fun e => x.elemPoison v f e.idx
  (((t.flagLines (bad.flatMap fun e => placesOf e.pieces) (clean.flatMap fun e => placesOf e.pieces)).tick).vdone id)

/-! ## The modes (R196, R197, R200) -/

/-- An address mode of vector loads and stores. -/
inductive VMode where
  | unit (ordered : Bool)
  | strided (b : GReg)
  | indexed (x : VReg) (ordered : Bool)
  | coord (b : GReg)
  deriving DecidableEq, Repr

/-- Elements perform in ascending order, and may reach device memory (R97, R200). -/
def VMode.ordered (m : VMode) : Bool :=
  match m with
  | .unit o => o
  | .indexed _ o => o
  | _ => false

def VMode.indexedMode (m : VMode) : Bool :=
  match m with
  | .indexed _ _ => true
  | _ => false

/-- A sub-byte format may use the mode (R86). -/
def VMode.subByte (m : VMode) : Bool :=
  match m with
  | .unit _ => true
  | .coord _ => true
  | _ => false

/-- Element `e` of `w` bits counted from byte `a`. -/
def elemPlace (a : Word) (w e : Nat) : Where := .place (a + BitVec.ofNat 64 (e * w / 8)) (e * w % 8)

/-- Element `i` of an indexed mode: a poisoned index has no place. -/
def Strand.indexPlace (x : Strand) (a : Word) (v : VReg) (w i : Nat) : Where :=
  if x.elemPoison v x.bf i then .index
  else .place (a + BitVec.ofInt 64 (intValue x.bf (x.elem v x.bf i) * ((w / 8 : Nat) : Int))) 0

/-- The elements of a coordinate access, with the object's innermost extent: overhanging columns are inactive (R87, R197). -/
def coordPlaces (a : Word) (wd x0 w : Nat) (is : List Nat) : List (Nat × Where) :=
  let c0 := objOff a * 8 / w % x0
  (is.filter fun i => c0 + i % wd < x0).map fun i => (i, elemPlace a w (i % wd + i / wd * x0))

/-- The innermost extent of the object an address names: a scratchpad address and a window have no shape (R197). -/
def State.innermost (s : State) (a : Word) (writes : Bool) : Chk Nat :=
  if isWindow a then .fail (.plain 8)
  else match s.walkRec (s.agentOf s.cur) a writes s.myHolds with
  | .ok r => .ok (r.ext 0)
  | .fail f => .fail f
  | .wait p => .wait p

/-- Active elements with their places, or what the reading of the record waits for. -/
def State.places (s : State) (m : VMode) (a : GReg) (k : KReg) (writes : Bool) : Except Await (List (Nat × Where)) :=
  let x := s.me
  let ga := x.getG a
  let w := fmtBits x.df
  let is := x.actives k
  match m with
  | .unit _ => .ok (is.map fun i => (i, elemPlace ga w i))
  | .strided b => .ok (is.map fun i => (i, .place (ga + BitVec.ofNat 64 i * x.getG b) 0))
  | .indexed v _ => .ok (is.map fun i => (i, x.indexPlace ga v w i))
  | .coord b =>
    let wd := (x.getG b).toNat
    match (if x.space = 0 then s.innermost ga writes else .fail (.plain 8)) with
    | .ok x0 => .ok (coordPlaces ga wd x0 w is)
    | .fail f => .ok ((is.take 1).map fun i => (i, .fails f ga))
    | .wait p => if is = [] then .ok [] else .error p

/-- The checks at dispatch of a vector load or store, in R326's order. -/
def State.vmemChecks (s : State) (m : VMode) : Option (Nat × Word) :=
  let x := s.me
  if x.space = 3 then some (2, 0)
  else if x.df = 0xE ∨ x.df = 0xF ∨ (fmtBits x.df < 8 ∧ !m.subByte) ∨ (m.indexedMode ∧ !isInt x.bf)
      ∨ s.tooLong (x.df :: (if m.indexedMode then [x.bf] else [])) then some (4, 0)
  else match m with
  | .coord b => if (x.getG b).toNat = 0 ∨ 4294967296 ≤ (x.getG b).toNat then some (6, x.getG b) else none
  | _ => none

/-! ## Streams (R202, R251) -/

/-- A stream's avail COUNT is the bytes a stream-trimmed access may use (R251). The open stream of the strand's core whose
ring holds a scratchpad address. -/
def Core.streamAt (c : Core) (a : Nat) : Option Nat :=
  (List.range 8).find? fun n =>
    let t := c.streams.get Stream.closed n
    t.isOpen && decide (t.base ≤ a) && decide (a < t.base + t.len)

/-- A place at or above the ring's end comes around (R202). -/
def ringPlace (t : Stream) (p : Where) : Where :=
  match p with
  | .place a b => .place (if t.base + t.len ≤ a.toNat then a - BitVec.ofNat 64 t.len else a) b
  | q => q

/-- The stream trim, then the access with the ring's places: a trap at element vstart, a wait, or `k` (R202). That the ring is
found by the address of element vstart before the ring's reduction is the model's choice (log 29). -/
def State.streamTrim (s : State) (a : GReg) (store : Bool) (k : State → (Where → Where) → State) : State :=
  let x := s.me
  let w := fmtBits x.df
  let first := x.getG a + BitVec.ofNat 64 (x.vstart.toNat * w / 8)
  match (if x.space = 1 then s.myCore.streamAt first.toNat else none) with
  | none => s.trap 8 first
  | some n =>
    let t := s.myCore.streams.get Stream.closed n
    if t.outbound ≠ store then s.trap 8 first
    else
      let m := t.count * 8 / w
      if m = 0 then (if t.fail then s.trap 0xF (BitVec.ofNat 64 n) else s.hold)
      else
        let e := x.vstart.toNat + m
        k (if e < x.vl.toNat then s.upd fun y => { y with vl := BitVec.ofNat 64 e } else s) (ringPlace t)

/-! ## Loads and stores -/

/-- What a vector load and a vector store need; the ordered modes reach device memory (R97). -/
def accVec (store ordered : Bool) : Acc := ⟨[if store then 1 else 0], store, ordered, false, false, false⟩

/-- A vector load or store of every mode (R198). -/
def State.vmem (s : State) (store : Bool) (m : VMode) (v : VReg) (a : GReg) (k : KReg) (trim : Bool) : State :=
  match s.vmemChecks m with
  | some (c, t) => s.trap c t
  | none =>
    if s.me.vl.toNat ≤ s.me.vstart.toNat then s.vdone id
    else
      let access (t : State) (ring : Where → Where) : State :=
        match t.places m a k store with
        | .error p => s.holdFor p
        | .ok l =>
          let x := t.me
          let w := fmtBits x.df
          let r := scanElems (t.checkElem (accVec store m.ordered) (if w < 8 then 1 else w / 8) w) []
            (t.failing store (l.map fun p => (p.1, ring p.2)))
          t.trimOrTrap 1 r (fun i => s.consume (if store then .mask 0 [] else .vec v x.df ((x.actives k).map fun j => (j, 0))) i)
            (if store then State.storeElems v x.df m.ordered else State.loadElems v x.df)
      if trim then s.streamTrim a store access else access s id

/-- VLD (R196, R198). -/
def execVld (v : VReg) (a : GReg) (k : KReg) (_dt : Bool) (w : Bool) (s : State) : Host.Outcome State Fault Refusal :=
  run (fun s => s.vmem false (.unit false) v a k w) s

/-- VLDS (R196, R198). -/
def execVlds (v : VReg) (a : GReg) (b : GReg) (k : KReg) (_dt : Bool) (s : State) : Host.Outcome State Fault Refusal :=
  run (fun s => s.vmem false (.strided b) v a k false) s

/-- VLDX (R196, R198). -/
def execVldx (v : VReg) (a : GReg) (x : VReg) (k : KReg) (_dt : Bool) (s : State) : Host.Outcome State Fault Refusal :=
  run (fun s => s.vmem false (.indexed x false) v a k false) s

/-- VLDXO (R196, R198). -/
def execVldxo (v : VReg) (a : GReg) (x : VReg) (k : KReg) (_dt : Bool) (s : State) : Host.Outcome State Fault Refusal :=
  run (fun s => s.vmem false (.indexed x true) v a k false) s

/-- VLDC (R196, R198). -/
def execVldc (v : VReg) (a : GReg) (b : GReg) (k : KReg) (_dt : Bool) (s : State) : Host.Outcome State Fault Refusal :=
  run (fun s => s.vmem false (.coord b) v a k false) s

/-- VLDO (R196, R198). -/
def execVldo (v : VReg) (a : GReg) (k : KReg) (_dt : Bool) (w : Bool) (s : State) : Host.Outcome State Fault Refusal :=
  run (fun s => s.vmem false (.unit true) v a k w) s

/-- VST (R196, R198). -/
def execVst (v : VReg) (a : GReg) (k : KReg) (_dt : Bool) (w : Bool) (s : State) : Host.Outcome State Fault Refusal :=
  run (fun s => s.vmem true (.unit false) v a k w) s

/-- VSTS (R196, R198). -/
def execVsts (v : VReg) (a : GReg) (b : GReg) (k : KReg) (_dt : Bool) (s : State) : Host.Outcome State Fault Refusal :=
  run (fun s => s.vmem true (.strided b) v a k false) s

/-- VSTX (R196, R198). -/
def execVstx (v : VReg) (a : GReg) (x : VReg) (k : KReg) (_dt : Bool) (s : State) : Host.Outcome State Fault Refusal :=
  run (fun s => s.vmem true (.indexed x false) v a k false) s

/-- VSTXO (R196, R198). -/
def execVstxo (v : VReg) (a : GReg) (x : VReg) (k : KReg) (_dt : Bool) (s : State) : Host.Outcome State Fault Refusal :=
  run (fun s => s.vmem true (.indexed x true) v a k false) s

/-- VSTC (R196, R198). -/
def execVstc (v : VReg) (a : GReg) (b : GReg) (k : KReg) (_dt : Bool) (s : State) : Host.Outcome State Fault Refusal :=
  run (fun s => s.vmem true (.coord b) v a k false) s

/-- VSTO (R196, R198). -/
def execVsto (v : VReg) (a : GReg) (k : KReg) (_dt : Bool) (w : Bool) (s : State) : Host.Outcome State Fault Refusal :=
  run (fun s => s.vmem true (.unit true) v a k w) s

/-! ## Scale registers (R205) -/

/-- The number of scale bytes vl calls for. -/
def Strand.scaleCount (x : Strand) : Nat := if x.vl.toNat = 0 then 0 else (x.vl.toNat - 1) / x.bl + 1

/-- Loaded scale bytes. -/
def State.loadScales (e : EReg) (s : State) (l : List Passed) : State :=
  let t := s.eccAll l
  t.vdone fun x => { x with e := l.foldl (fun m p => m.put 0 (4096 * e.val + p.idx) (BitVec.ofNat 8 (t.readPieces p.pieces))) x.e }

/-- Stored scale bytes, in any order where several reach one byte (R100; log 15); scale registers hold no poison. -/
def State.storeScales (e : EReg) (s : State) (l : List Passed) : State :=
  let x := s.me
  let t := (s.anyOrder l).foldl (fun (t : State) p => t.writePieces .l1 p.pieces (x.e.get 0 (4096 * e.val + p.idx)).toNat)
    (s.openElems l)
  ((t.flagLines [] (l.flatMap fun p => placesOf p.pieces)).tick).vdone id

/-- A move of scale bytes with stride `step`; vstart counts bytes (R205). -/
def State.scaleMove (s : State) (store : Bool) (e : EReg) (a : GReg) (step : Word) : State :=
  let x := s.me
  let n := x.scaleCount
  if x.space = 3 then s.trap 2 0
  else if 4096 < n then s.trap 4 0
  else if n ≤ x.vstart.toNat then s.vdone id
  else
    let js := (List.range n).filter fun j => x.vstart.toNat ≤ j
    let acc := accVec store false
    let r := scanElems (if store then s.checkElem acc 1 8 else s.checkClean acc 1 8) []
      (s.failing store (js.map fun j => (j, .place (x.getG a + BitVec.ofNat 64 j * step) 0)))
    s.trimOrTrap x.bl r (fun _ => s) (if store then State.storeScales e else State.loadScales e)

/-- VLDE (R205). -/
def execVlde (e : EReg) (a : GReg) (s : State) : Host.Outcome State Fault Refusal :=
  run (fun s => s.scaleMove false e a 1) s

/-- VLDES (R205). -/
def execVldes (e : EReg) (a b : GReg) (s : State) : Host.Outcome State Fault Refusal :=
  run (fun s => s.scaleMove false e a (s.me.getG b)) s

/-- VSTE (R205). -/
def execVste (e : EReg) (a : GReg) (s : State) : Host.Outcome State Fault Refusal :=
  run (fun s => s.scaleMove true e a 1) s

/-- VSTES (R205). -/
def execVstes (e : EReg) (a b : GReg) (s : State) : Host.Outcome State Fault Refusal :=
  run (fun s => s.scaleMove true e a (s.me.getG b)) s

/-! ## Atomics (R206, R207) -/

/-- Formats of vector atomics. -/
def atomFormat (f : Nat) : Bool := f == 2 || f == 3 || f == 0xC || f == 0xD || f == 8

/-- One element after another: the old values, and memory with the new ones. -/
def State.atomElems (s : State) (new : Nat → Nat → Nat) (src : Nat → Nat) (l : List Passed) : State × List (Nat × Nat) :=
  match l with
  | [] => (s, [])
  | e :: r =>
    let old := s.readPieces e.pieces
    let rest := (s.writePieces .l2 e.pieces (new old (src e.idx))).atomElems new src r
    (rest.1, (e.idx, old) :: rest.2)

/-- An element that reaches a scratchpad. -/
def Passed.inScratch (e : Passed) : Bool :=
  e.pieces.any fun p => p.place.addr.any fun a => decide (scratchBase ≤ a)

/-- A poisoned operand of an element that passed is consumed after the trim, whose vl stands, and marks the groups of the
elements below it (R203, R206, R230; log 15). -/
def Passed.poisoned (x : Strand) (v : VReg) (f : Nat) (e : Passed) : Bool := x.elemPoison v f e.idx

/-- A vector atomic: `f` gives the new value of a format under a rounding mode from old and b (R206). -/
def State.vatomic (s : State) (floats : Bool) (f : Nat → Rounding → Nat → Nat → Nat) (v : VReg) (a : GReg) (x : VReg) (k : KReg) :
    State :=
  let me := s.me
  let df := me.df
  if me.space = 3 then s.trap 2 0
  else if !atomFormat df ∨ (df = 8 ∧ !floats) ∨ !isInt me.bf ∨ s.tooLong [df, me.bf] then s.trap 4 0
  else if me.vl.toNat ≤ me.vstart.toNat then s.vdone id
  else
    let w := fmtBits df
    let dest (is : List Nat) := Dest.vec v df (is.map fun j => (j, 0))
    let r := scanElems (s.checkClean ⟨[4], true, false, false, false, false⟩ (w / 8) w) []
      (s.failing true ((me.actives k).map fun i => (i, me.indexPlace (me.getG a) x w i)))
    s.trimOrTrap 1 r (fun i => s.consume (dest (me.actives k)) i) fun t l =>
      match l.find? (Passed.poisoned me v df) with
      | some e => t.consume (dest (l.map Passed.idx)) e.idx
      | none =>
        let order := if l.any Passed.inScratch then
            t.anyOrder (l.filter fun e => !e.inScratch) ++ l.filter Passed.inScratch
          else t.anyOrder l
        let res := ((t.openElems l).eccAll l).atomElems (f df me.rm) (fun i => me.elem v df i) order
        res.1.tick.vdone fun y => y.setElems v df res.2

/-- A vector atomic of the machine. -/
def vatomOp (floats : Bool) (f : Nat → Rounding → Nat → Nat → Nat) (v : VReg) (a : GReg) (x : VReg) (k : KReg) (s : State) :
    Host.Outcome State Fault Refusal := run (fun s => s.vatomic floats f v a x k) s

/-- The smaller or the larger of two patterns: signed, unsigned, or by R70 for FP32. -/
def atomPick (smaller : Bool) (df old b : Nat) : Nat :=
  if df = 8 then encodeFloat 8 (.rm .rne) false (ExactNum.pick smaller (decodeFloat 8 old) (decodeFloat 8 b))
  else if smaller then (if intValue df b < intValue df old then b else old)
  else (if intValue df old < intValue df b then b else old)

/-- VATADD (R206): of two NaNs the old value's comes first, as source A of R50 (log 62). -/
def execVatadd (v : VReg) (a : GReg) (x : VReg) (k : KReg) (_dt : Bool) (s : State) : Host.Outcome State Fault Refusal :=
  vatomOp true (fun df rm old b =>
    if df = 8 then encodeFloat 8 (.rm rm) false (ExactNum.add rm (decodeFloat 8 old) (decodeFloat 8 b))
    else (old + b) % 2 ^ fmtBits df) v a x k s

/-- VATMIN (R206). -/
def execVatmin (v : VReg) (a : GReg) (x : VReg) (k : KReg) (_dt : Bool) (s : State) : Host.Outcome State Fault Refusal :=
  vatomOp true (fun df _ old b => atomPick true df old b) v a x k s

/-- VATMAX (R206). -/
def execVatmax (v : VReg) (a : GReg) (x : VReg) (k : KReg) (_dt : Bool) (s : State) : Host.Outcome State Fault Refusal :=
  vatomOp true (fun df _ old b => atomPick false df old b) v a x k s

/-- VATSWAP (R206). -/
def execVatswap (v : VReg) (a : GReg) (x : VReg) (k : KReg) (_dt : Bool) (s : State) : Host.Outcome State Fault Refusal :=
  vatomOp true (fun _ _ _ b => b) v a x k s

/-- VATAND (R206). -/
def execVatand (v : VReg) (a : GReg) (x : VReg) (k : KReg) (_dt : Bool) (s : State) : Host.Outcome State Fault Refusal :=
  vatomOp false (fun _ _ old b => old &&& b) v a x k s

/-- VATOR (R206). -/
def execVator (v : VReg) (a : GReg) (x : VReg) (k : KReg) (_dt : Bool) (s : State) : Host.Outcome State Fault Refusal :=
  vatomOp false (fun _ _ old b => old ||| b) v a x k s

end Sys2Proof.Machine
end

