-- ==== Sys2Proof/Machine/Engine.lean ====
section
/-! DEFINITION. Engine commands: what they all do at issue (R243), their fragments' checks (R245), their completion (R246),
and posted commands (R33). -/

namespace Sys2Proof.Machine

/-! ## Issue (R243) -/

/-- Where a check failed at issue: trap, wait, or go on. -/
def State.checked {α : Type} (s : State) (c : Chk α) (a : Word) (k : α → State) : State :=
  match c with
  | .ok h => k h
  | .fail f => s.trapFail f a
  | .wait w => s.holdFor w

/-- A descriptor needs R, and is a load of the strand (R243 step 1). -/
def Acc.descriptor : Acc := ⟨[0], false, true, false, false, false⟩

/-- Step 1: the eight words at a 64-byte aligned address; an instruction that waits in step 4 has them. -/
def State.withDesc (s : State) (a : Word) (k : State → List Word → State) : State :=
  if s.me.issued ≠ [] then k s s.me.issued
  else s.checked (s.walk (s.agentOf s.cur) .descriptor s.myHolds a 64 0 512) a fun h =>
    match h.reach with
    | .ctrl _ _ => s.trap 8 a
    | .bytes ps =>
      if s.piecesWait ps (some s.cur) then s.holdRows ps (s.pinsOf h.entries)
      else
        let t := s.eccPieces ps
        if t.piecesPoisoned ps then t.trap 9 a else k t (toWords 8 (toBytes 64 (t.readPieces ps)))

/-- Step 2: the first word that breaks its range. -/
def badWord (j : Nat) (l : List Bool) : Option Nat :=
  match l with
  | [] => none
  | b :: r => if b then badWord (j + 1) r else some j

/-- Step 2 as a check: `ok` says of each word that it is in range. -/
def State.withFields (s : State) (a : Word) (ok : List Bool) (k : State) : State :=
  match badWord 0 ok with
  | some j => s.trap 6 (a + BitVec.ofNat 64 (8 * j))
  | none => k

/-- Step 3 for a barrier word that must be named. An instruction that waits in step 4 holds its pins already. -/
def State.withBarWord (s : State) (a : Word) (k : List Pin → State) : State :=
  if s.me.issued ≠ [] then k s.me.pins
  else s.checked (s.walkBarrier (s.agentOf s.cur) s.myHolds a) a fun h => k (h.pins (s.agentOf s.cur).asid)

/-- Step 3 for BAR: 0 names no barrier. -/
def State.withBar (s : State) (a : Word) (k : List Pin → State) : State :=
  if s.me.issued = [] ∧ a = 0 then k [] else s.withBarWord a k

/-- Step 3 for a record of `n` bytes with alignment `al` that must be named. -/
def State.withRecWord (s : State) (a : Word) (al n : Nat) (k : List Pin → State) : State :=
  if s.me.issued ≠ [] then k []
  else s.checked (s.walk (s.agentOf s.cur) .engWrite s.myHolds a al 0 (8 * n)) a fun h => k (h.pins (s.agentOf s.cur).asid)

/-- Step 3 for CREC: 0 names no record. -/
def State.withCrec (s : State) (a : Word) (al n : Nat) (k : List Pin → State) : State :=
  if s.me.issued = [] ∧ a = 0 then k [] else s.withRecWord a al n k

/-- Step 4's wait: what steps 1 to 3 have read and pinned stays (R243, R268). -/
def State.waitIssued (s : State) (ws : List Word) (pins : List Pin) : State :=
  (s.upd fun x => { x with issued := ws, pins := pins }).waitHere

/-- A command in its queue; `after` names what must end before it reads (R105, R247): 3 i for command i of its own queue,
3 i + 1 for launch i and 3 i + 2 for memory-side command i of the die. -/
def newCmd (id : Nat) (kind : CmdKind) (sid : Nat) (ag : Agent) (sc : Scope) (acq rel : Bool) (desc : List Word) (da : Word)
    (pins : List Pin) (after : List Nat) : Cmd where
  id := id
  kind := kind
  sid := sid
  agent := ag
  scope := sc
  acq := acq
  rel := rel
  desc := desc
  daddr := da
  pos := 0
  progress := 0
  wrote := 0
  cause := 0
  faddr := 0
  flags := 0
  finished := false
  pins := pins
  data := []
  dataPoison := []
  after := after
  widening := false

/-- The posted commands of a strand on its die that have not been performed, as codes of `after`. -/
def State.postedCodes (s : State) (n : Nat) : List Nat :=
  let d := s.die (dieOf n)
  ((d.launches.filter fun l => l.sid == n).map fun l => 3 * l.id + 1) ++ ((d.sideQ.filter fun c => c.sid == n).map fun c => 3 * c.id + 2)

/-- What a command with acquire waits for: its strand's earlier commands in the queue and, where `wide`, its posted ones. -/
def State.afterCodes (s : State) (q : List Cmd) (acq wide : Bool) : List Nat :=
  if acq then ((q.filter fun c => c.sid == s.cur).map fun c => 3 * c.id) ++ (if wide then s.postedCodes s.cur else []) else []

/-- The agent of a copy engine command: the descriptor's address stands for the pc (R320). -/
def State.copyAgent (s : State) (da : Word) : Agent := { s.agentOf s.cur with source := 3, pc := da }

/-- The agent of a layout engine command. -/
def State.layoutAgent (s : State) (da : Word) : Agent := { s.agentOf s.cur with source := 4, unit := dieOf s.cur, pc := da }

/-- Steps 4 and 5 for the copy engine: a queue of 64. -/
def State.handCopy (s : State) (c : State → Nat → Cmd) : State :=
  let k := s.myCore
  if 64 ≤ k.copyQ.length then s.waitIssued (c s k.copyNext).desc (c s k.copyNext).pins
  else (s.updMyCore fun k => { k with copyQ := k.copyQ ++ [c s k.copyNext], copyNext := k.copyNext + 1 }).done

/-- Steps 4 and 5 for the layout engine: a queue of 256. -/
def State.handLayout (s : State) (c : State → Nat → Cmd) : State :=
  let d := s.myDie
  if 256 ≤ d.layoutQ.length then s.waitIssued (c s d.cmdNext).desc (c s d.cmdNext).pins
  else (s.updDie (dieOf s.cur) fun d => { d with layoutQ := d.layoutQ ++ [c s d.cmdNext], cmdNext := d.cmdNext + 1 }).done

/-- post(cmd): a wait at 256, else one more posted command (R33, R162). -/
def State.post (s : State) (k : State → State) : State :=
  if 256 ≤ s.me.posted then s.waitHere else (k (s.upd fun x => { x with posted := x.posted + 1 })).done

/-- A posted command has been performed: COUNT falls and the wake count rises (R33, R188). -/
def State.unpost (s : State) (n : Nat) : State := s.updStrand n fun x => { x.raise with posted := x.posted - 1 }

/-! ## Order -/

/-- Everything a command waits for before it reads has ended. -/
def State.mayRead (s : State) (e : Engine) (c : Cmd) : Bool :=
  let d := s.die (dieOf c.sid)
  c.after.all fun n =>
    if n % 3 = 0 then (s.cmd e (n / 3)).isNone
    else if n % 3 = 1 then d.launches.all fun l => l.id != n / 3
    else d.sideQ.all fun x => x.id != n / 3

/-! ## Fragments (R245) -/

/-- One access of a fragment. With `clean`, line poison fails its check. -/
structure Side where
  addr : Word
  bit : Nat
  width : Nat
  align : Nat
  acc : Acc
  clean : Bool
  deriving DecidableEq, Repr

/-- A unit of a command: what it reads, what it writes, the source address FADDR would name. -/
structure Move where
  src : List Side
  dst : List Side
  faddr : Word
  deriving DecidableEq, Repr

/-- Bytes, checked as an engine read or write; `planes` for the layout engine (R84). -/
def sideRead (planes : Bool) (a : Word) (b w : Nat) : Side := ⟨a, b, w, if w < 8 then 1 else w / 8, ⟨[0], false, false, false, planes, false⟩, false⟩
def sideWrite (planes : Bool) (a : Word) (b w : Nat) : Side := ⟨a, b, w, if w < 8 then 1 else w / 8, ⟨[1], true, false, false, planes, false⟩, false⟩

/-- The sub-tile an address lies in; windows and physical windows have no boundary. -/
def State.subKey (s : State) (ag : Agent) (o : Word) : Nat × Nat :=
  match recAddr ag.tb (objNum o) with
  | none => (objNum o, 0)
  | some ra =>
    let r := parseRec (toWords 8 (s.readBytes ra 64))
    if !isWindow o && s.recValid r && decide (r.kind < 2) then
      let p := 8 * objOff o
      (objNum o, (r.place (p / r.bits) * r.bits + p % r.bits) / 8 / r.subSize)
    else (objNum o, 0)

/-- How many units from `u` on have the key `k`. -/
def runLen (key : Nat → List (Nat × Nat)) (k : List (Nat × Nat)) (u n : Nat) : Nat :=
  match n with
  | 0 => 0
  | n + 1 => if key u = k then 1 + runLen key k (u + 1) n else 0

/-- The check of one side. -/
def State.checkSide (s : State) (ag : Agent) (holds : List Nat) (d : Side) : Chk Hit :=
  match s.walk ag d.acc holds d.addr d.align d.bit d.width with
  | .ok h => match h.reach with
    | .ctrl _ _ => .fail (.plain 8)
    | .bytes _ => if d.clean && s.readsPoison h then .fail (.plain 9) else .ok h
  | x => x

/-- The place of a cause in R89's order, the null object and invalid records first. -/
def causeRank (f : Fail) (a : Word) : Nat :=
  if f.cause = 8 ∧ (bit f.flags 2 = true ∨ objNum a = 0) then 0
  else match f.cause with
  | 5 => 1
  | 6 => 2
  | 8 => 3
  | 7 => 4
  | 0x12 => 4
  | _ => 5

/-- A failed side: its fail, its address, and the unit's FADDR. -/
structure BadSide where
  fail : Fail
  addr : Word
  faddr : Word
  deriving DecidableEq, Repr

/-- The better of two failures: the higher cause, the earlier of equals. -/
def BadSide.better (a b : BadSide) : BadSide := if causeRank b.fail b.addr < causeRank a.fail a.addr then b else a

/-- The outcome of a fragment's check: it waits, it fails with what it records and its FADDR, or it passes with what each unit
reaches. -/
inductive FragChk where
  | wait (w : Await)
  | fail (f : Fail) (addr faddr : Word)
  | ok (us : List (List Hit × List Hit))
  deriving DecidableEq, Repr

/-- Failed sides of units, those of a kind in order. -/
def badSides (s : State) (ag : Agent) (holds : List Nat) (us : List Move) (pick : Move → List Side) : List BadSide :=
  us.flatMap fun u => (pick u).filterMap fun d => match s.checkSide ag holds d with
    | .fail f => some ⟨f, d.addr, u.faddr⟩
    | _ => none

/-- What sides that passed reach. -/
def hitsOf (s : State) (ag : Agent) (holds : List Nat) (ds : List Side) : List Hit :=
  ds.filterMap fun d => match s.checkSide ag holds d with
    | .ok h => some h
    | _ => none

/-- The check of a fragment (R245 stage 1). -/
def State.checkFragment (s : State) (ag : Agent) (holds : List Nat) (us : List Move) : FragChk :=
  let waits := us.findSome? fun u => (u.src ++ u.dst).findSome? fun d => match s.checkSide ag holds d with
    | .wait w => some w
    | _ => none
  match waits with
  | some w => .wait w
  | none =>
    let bad := badSides s ag holds us Move.src ++ badSides s ag holds us Move.dst
    let first := us.find? fun u => (u.src ++ u.dst).any fun d => match s.checkSide ag holds d with
      | .fail _ => true
      | _ => false
    match bad, first with
    | b :: r, some u => let w := r.foldl BadSide.better b; .fail w.fail w.addr u.faddr
    | _, _ => .ok (us.map fun u => (hitsOf s ag holds u.src, hitsOf s ag holds u.dst))

/-- Every piece of a fragment's units. -/
def fragPieces (us : List (List Hit × List Hit)) : List Piece := us.flatMap fun u => (u.1 ++ u.2).flatMap Hit.pieces

/-- Sources of a unit carry poison. -/
def State.srcPoison (s : State) (u : List Hit × List Hit) : Bool := u.1.any fun h => s.piecesPoisoned h.pieces

/-- Places a unit writes. -/
def dstPlaces (u : List Hit × List Hit) : List (Nat × Nat × Nat) := u.2.flatMap fun h => placesOf h.pieces ++ placesOf h.mirrors

/-- Allocations, dropped-write records and the sources' ECC effects of a fragment. -/
def State.openUnits (s : State) (us : List (List Hit × List Hit)) : State :=
  let t := us.foldl (fun (t : State) u => u.2.foldl (fun (t : State) h => t.allocateAll h.allocs) t) s
  (t.eccPieces (us.flatMap fun u => u.1.flatMap Hit.pieces)).noteDroppedPieces
    (us.flatMap fun u => u.2.flatMap fun h => h.pieces ++ h.mirrors)

/-- Poison of the lines a fragment's units wrote (R199). -/
def State.flagUnits (s t : State) (us : List (List Hit × List Hit)) : State :=
  let (bad, clean) := us.partition s.srcPoison
  t.flagLines (bad.flatMap dstPlaces) (clean.flatMap dstPlaces)

/-- A store of a value through a hit, a moving bit-plane sub-tile's destination included. -/
def State.writeHit (s : State) (h : Hit) (v : Nat) : State := (s.writePieces .l2 h.pieces v).writePieces .l2 h.mirrors v

/-- The data of the last source of each unit moved to its destination, one unit after another. -/
def State.moveUnits (s : State) (us : List (List Hit × List Hit)) : State :=
  let t := s.openUnits us
  t.flagUnits (us.foldl (fun (t : State) u => match u.1.getLast?, u.2 with
    | some h, d :: _ => t.writeHit d (t.readPieces h.pieces)
    | _, _ => t) t) us

/-- Pins of a fragment (R245 stage 2). -/
def fragPins (asid : Nat) (us : List (List Hit × List Hit)) (old : List Pin) : List Pin :=
  (us.flatMap fun u => (u.1 ++ u.2).flatMap fun h => h.pins asid).foldl (fun l p => if l.contains p then l else p :: l) old

/-! ## Completion (R245, R246) -/

/-- A completion record's bytes (R246). -/
def crecBytes (status cause flags progress : Nat) (faddr : Word) : List Byte :=
  ofWords [BitVec.ofNat 64 (status + cause * 256 + flags * 65536), BitVec.ofNat 64 progress, faddr, 0]

/-- Bytes an agent writes at an object address it has pinned; a write its memory can no longer take is dropped. -/
def State.agentWrite (s : State) (ag : Agent) (holds : List Nat) (o : Word) (bs : List Byte) : State :=
  match s.walk ag .engWrite holds o 1 0 (8 * bs.length) with
  | .ok h => ((s.allocateAll h.allocs).noteDroppedPieces h.pieces).writePieces .l2 h.pieces (ofBytes bs)
  | _ => s

/-- An agent's step that writes `n` bytes at an object address it has pinned, when the rows let it; 0 names no record. -/
def State.whenRec (s : State) (ag : Agent) (holds : List Nat) (o : Word) (n : Nat) (k : State) : State :=
  let c := s.walk ag .engWrite holds o 1 0 (8 * n)
  if o != 0 && s.chkWaits c then s.noteChk c else k

/-- The record, then the arrival or the failure, with the bytes written. -/
def State.completeCmd (s : State) (c : Cmd) : State :=
  let holds := c.pins.map (·.entry)
  let crec := wordAt c.desc 4
  let s1 := if crec = 0 then s
    else s.agentWrite c.agent holds crec
      (crecBytes (if c.cause = 0 then 1 else 2) c.cause c.flags c.progress (if c.cause = 0 then 0 else c.faddr))
  s1.barrierUpd c.agent holds (wordAt c.desc 3) (if c.cause = 0 then Bar.arrive c.wrote else Bar.fail c.cause c.wrote)

/-- The checks of what a command writes at its end. -/
def State.endChks (s : State) (c : Cmd) : List (Chk Hit) :=
  let holds := c.pins.map (·.entry)
  (if wordAt c.desc 4 = 0 then [] else [s.walk c.agent .engWrite holds (wordAt c.desc 4) 1 0 256])
    ++ (if wordAt c.desc 3 = 0 then [] else [s.walkBarrier c.agent holds (wordAt c.desc 3)])

/-- A command's end, once the rows of its record and its barrier word let it; until then `w` says what waits (R107, R140). -/
def State.whenDone (s : State) (c : Cmd) (w : State → State) (k : State) : State :=
  if (s.endChks c).any s.chkWaits then w ((s.endChks c).foldl State.noteChk s) else k

/-- The stream a command belongs to keeps the command's pins until sclose (R309). -/
def State.keepStreamPins (s : State) (e : Engine) (c : Cmd) : State :=
  match e with
  | .copy k =>
    if c.kind = .stream then
      s.updCore k.val fun x => { x with streams := x.streams.map fun p =>
        if p.2.isOpen ∧ p.2.cmd = c.id then (p.1, { p.2 with pins := c.pins }) else p }
    else s
  | _ => s

/-- ENGINE_COMMAND_DONE (R246); of a memory-side command the strand's posted count falls as well (R33). -/
def execEngineCommandDone (e : Engine) (c : Nat) (s : State) : Host.Outcome State Fault Refusal :=
  run (fun s => match s.cmd e c with
    | some x =>
      if x.finished then
        s.whenDone x id (
          let t := ((s.completeCmd x).keepStreamPins e x).dropCmd e c
          match e with
          | .mside _ => t.unpost x.sid
          | _ => t)
      else s
    | none => s) s

end Sys2Proof.Machine
end

