-- ==== Sys2Proof/Machine/Copy.lean ====
section
/-! DEFINITION. The copy engine: ocopy, ogather, vsave, vrest, vxcore, and copy streams (R248-R254). -/

namespace Sys2Proof.Machine

/-! ## One fragment (R245) -/

/-- What a kind of command does in fragments. -/
structure Work where
  /-- Units of the whole command. -/
  total : Nat
  /-- What PROGRESS gains by `n` units from unit `pos` on, and the BYTES of each unit. -/
  counts : Nat → Nat → Nat
  bytes : Nat
  unit : Nat → Move
  /-- A fragment ends where this changes. -/
  key : Nat → List (Nat × Nat)
  skip : Bool
  /-- What a fragment that passed does. -/
  perform : State → Cmd → List (List Hit × List Hit) → State × Cmd
  /-- Rows a fragment that passed reaches beside its units' (R107, R140). -/
  rows : State → Cmd → List (List Hit × List Hit) → List Nat := fun _ _ _ => []
  /-- What a command that stops leaves. -/
  fails : State → Cmd → State

/-- A fragment of `n` units of a command has failed: its record, and the command goes on behind it or stops (R245). -/
def State.failUnits (s : State) (e : Engine) (c : Cmd) (w : Work) (n : Nat) (f : Fail) (a fa : Word) : State :=
  let s1 := s.recordFail c.agent f a
  if w.skip then
    s1.putCmd e { c.stop f.cause fa with pos := c.pos + n, flags := c.flags ||| 8, finished := decide (w.total ≤ c.pos + n) }
  else (w.fails s1 c).putCmd e (c.stop f.cause fa)

/-- The units of a command's next fragment. -/
def Work.fragLen (w : Work) (c : Cmd) : Nat := runLen w.key (w.key c.pos) c.pos (w.total - c.pos)

/-- The next fragment of a command: nothing while it may not read, waits, or has finished. -/
def State.fragment (s : State) (e : Engine) (c : Cmd) (w : Work) : State :=
  if c.finished || !s.mayRead e c then s
  else
    let n := w.fragLen c
    let us := (List.range n).map fun i => w.unit (c.pos + i)
    match s.checkFragment c.agent (c.pins.map (·.entry)) us with
    | .wait w => s.noteAwait w
    | .fail f a fa => s.failUnits e c w n f a fa
    | .ok hs =>
      let c1 := { c with pins := fragPins c.agent.asid hs c.pins }
      if s.piecesWait (fragPieces hs) none then (s.notePieces (fragPieces hs) none).putCmd e c1
      else s.whenFree (w.rows s c1 hs) <|
        let (t, d) := w.perform s c1 hs
        if d.finished ∨ d.widening then t.putCmd e d
        else
          t.putCmd e { d with
            pos := c.pos + n
            progress := c.progress + w.counts c.pos n
            wrote := d.wrote + n * w.bytes
            finished := decide (w.total ≤ c.pos + n) }

/-- A plain move of data. -/
def performMove (s : State) (c : Cmd) (hs : List (List Hit × List Hit)) : State × Cmd := (s.moveUnits hs, c)

/-! ## ocopy and ogather (R248) -/

/-- The destination overlaps the source at a higher address (R93). -/
def Cmd.descending (c : Cmd) : Bool :=
  decide ((wordAt c.desc 0).toNat < (wordAt c.desc 1).toNat)
    && decide ((wordAt c.desc 1).toNat < (wordAt c.desc 0).toNat + (wordAt c.desc 2).toNat)

/-- The destination overlaps the source, at a higher or a lower address: SKIP is ignored (R248). -/
def Cmd.overlaps (c : Cmd) : Bool :=
  decide ((wordAt c.desc 0).toNat < (wordAt c.desc 1).toNat + (wordAt c.desc 2).toNat)
    && decide ((wordAt c.desc 1).toNat < (wordAt c.desc 0).toNat + (wordAt c.desc 2).toNat)

/-- The move of byte `i` of a range. -/
def byteMove (src dst : Word) (i : Nat) : Move :=
  let a := src + BitVec.ofNat 64 i
  ⟨[sideRead false a 0 8], [sideWrite false (dst + BitVec.ofNat 64 i) 0 8], a⟩

/-- ocopy's work. -/
def ocopyWork (s : State) (c : Cmd) : Work :=
  let src := wordAt c.desc 0
  let dst := wordAt c.desc 1
  let len := (wordAt c.desc 2).toNat
  let at_ (u : Nat) := if c.descending then len - 1 - u else u
  { total := len
    counts := fun _ n => n
    bytes := 1
    unit := fun u => byteMove src dst (at_ u)
    key := fun u => [s.subKey c.agent (src + BitVec.ofNat 64 (at_ u)), s.subKey c.agent (dst + BitVec.ofNat 64 (at_ u))]
    skip := (wordAt c.desc 5).getLsbD 0 && !c.overlaps
    perform := performMove
    fails := fun t _ => t }

/-- Index `j` of an ogather, when its check passes. -/
def State.gatherIndex (s : State) (c : Cmd) (j : Nat) : Option Nat :=
  match s.checkSide c.agent (c.pins.map (·.entry)) (sideRead false (wordAt c.desc 5 + BitVec.ofNat 64 (4 * j)) 0 32) with
  | .ok h => some (s.readPieces h.pieces)
  | _ => none

/-- ogather's work (R248): a fragment stays within one row, and the read of its index is part of its check. A fragment whose
index cannot be read reports the index's address (log 35). -/
def ogatherWork (s : State) (c : Cmd) : Work :=
  let src := wordAt c.desc 0
  let dst := wordAt c.desc 1
  let q := (wordAt c.desc 6).toNat
  let idxSide (j : Nat) : Side := { sideRead false (wordAt c.desc 5 + BitVec.ofNat 64 (4 * j)) 0 32 with clean := true }
  let row (u : Nat) : Option Word := (s.gatherIndex c (u / q)).map fun x => src + BitVec.ofNat 64 (x * q + u % q)
  { total := (wordAt c.desc 2).toNat * q
    counts := fun _ n => n
    bytes := 1
    unit := fun u =>
      let d := sideWrite false (dst + BitVec.ofNat 64 u) 0 8
      match row u with
      | some a => ⟨[idxSide (u / q), sideRead false a 0 8], [d], a⟩
      | none => ⟨[idxSide (u / q)], [d], (idxSide (u / q)).addr⟩
    key := fun u => [(u / q, 0), s.subKey c.agent ((row u).getD 0), s.subKey c.agent (dst + BitVec.ofNat 64 u)]
    skip := (wordAt c.desc 7).getLsbD 0
    perform := performMove
    fails := fun t _ => t }

/-! ## vsave, vrest, vxcore (R249, R250) -/

/-- Line `u` of an image, written. -/
def lineWrite (a : Word) (u : Nat) : Side := { sideWrite false (a + BitVec.ofNat 64 (64 * u)) 0 512 with align := 64 }
def lineRead (a : Word) (u : Nat) : Side := { sideRead false (a + BitVec.ofNat 64 (64 * u)) 0 512 with align := 64 }

/-- Lines of a fragment written from captured data, the first at unit `u`. -/
def State.writeImage (c : Cmd) (s : State) (u : Nat) (hs : List (List Hit × List Hit)) : State :=
  match hs with
  | [] => s
  | h :: r =>
    let ps := h.2.flatMap Hit.pieces
    let t := s.writePieces .l2 ps (ofBytes ((c.data.drop (64 * u)).take 64))
    let bad := c.dataPoison.getD u false
    (if bad then t.flagLines (placesOf ps) [] else t.flagLines [] (placesOf ps)).writeImage c (u + 1) r

/-- vsave's work: the image captured at issue goes to memory line by line. -/
def vsaveWork (s : State) (c : Cmd) : Work :=
  let dst := wordAt c.desc 1
  { total := c.data.length / 64
    counts := fun _ n => 64 * n
    bytes := 64
    unit := fun u => ⟨[], [lineWrite dst u], dst + BitVec.ofNat 64 (64 * u)⟩
    key := fun u => [s.subKey c.agent (dst + BitVec.ofNat 64 (64 * u))]
    skip := false
    perform := fun t d hs => ((t.openUnits hs).writeImage d d.pos hs, d)
    fails := fun t _ => t }

/-- The registers a vsave or vrest selects, with `h` lane groups. -/
def Cmd.regs (c : Cmd) (h : Nat) : List (ImgReg × Nat) := imageRegs h (wordAt c.desc 5).toNat (wordAt c.desc 6).toNat

/-- Line `l` behind the header restored into the register it belongs to. -/
def Strand.restoreLine (x : Strand) (regs : List (ImgReg × Nat)) (l : Nat) (bs : List Byte) (p : Bool) : Strand :=
  match imageAt regs (64 * l) with
  | some (r, o) =>
    ((List.range 64).foldl (fun (y : Strand) i => y.setImgByte r (o + i) (bs.getD i 0)) x).setImgPoison r (o / 64) p
  | none => x

/-- Lines of a fragment restored, the first at unit `u`; unit 0 is the header. -/
def State.restoreLines (regs : List (ImgReg × Nat)) (n : Nat) (s : State) (u : Nat) (hs : List (List Hit × List Hit)) : State :=
  match hs with
  | [] => s
  | h :: r =>
    let ps := h.1.flatMap Hit.pieces
    let t := if u = 0 then s
      else s.updStrand n fun x => x.restoreLine regs (u - 1) (toBytes 64 (s.readPieces ps)) (s.piecesPoisoned ps)
    t.restoreLines regs n (u + 1) r

/-- A vrest that stops: the groups and tile rows of line `u` on are marked poisoned. -/
def Strand.markRest (x : Strand) (regs : List (ImgReg × Nat)) (u : Nat) : Strand :=
  (List.range (imageSize regs / 64)).foldl (fun (y : Strand) l =>
    if l + 1 < u then y
    else match imageAt regs (64 * l) with
    | some (r, o) => (match r with
      | .v n => { y with vp := y.vp.put false (64 * n + o / 512) true }
      | .t n => (y.tileRowsAt n (o / 64)).foldl (fun (z : Strand) q => { z with tp := z.tp.put false (256 * n + q) true }) y
      | _ => y)
    | none => y) x

/-- The register bytes that `n` lines of an image from line `p` on restore: all but the header's (R249; log 35). -/
def restoredBytes (p n : Nat) : Nat := 64 * (n - if p = 0 then 1 else 0)

/-- vrest's work; it fails with cause 0x04 at its start when the header names another number of lane groups. -/
def vrestWork (s : State) (c : Cmd) : Work :=
  let src := wordAt c.desc 0
  let h := s.groups c.sid
  let regs := c.regs h
  { total := 1 + imageSize regs / 64
    counts := fun p n => restoredBytes p n
    bytes := 0
    unit := fun u => ⟨[lineRead src u], [], src + BitVec.ofNat 64 (64 * u)⟩
    key := fun u => [s.subKey c.agent (src + BitVec.ofNat 64 (64 * u))]
    skip := false
    perform := fun t d hs =>
      let u := t.openUnits hs
      let head := u.readPieces ((hs.head?.map fun p => p.1.flatMap Hit.pieces).getD [])
      if d.pos = 0 ∧ head % 256 ≠ h then (u, d.stop 4 0)
      else (u.restoreLines regs d.sid d.pos hs, { d with wrote := d.wrote + restoredBytes d.pos hs.length })
    fails := fun t d => t.updStrand d.sid fun x => x.markRest regs d.pos }

/-- vxcore's work: bytes captured at issue go to a window. -/
def vxcoreWork (s : State) (c : Cmd) : Work :=
  let dst := wordAt c.desc 1
  { total := c.data.length
    counts := fun _ n => n
    bytes := 1
    unit := fun u => ⟨[], [sideWrite false (dst + BitVec.ofNat 64 u) 0 8], dst + BitVec.ofNat 64 u⟩
    key := fun u => [s.subKey c.agent (dst + BitVec.ofNat 64 u)]
    skip := false
    perform := fun t d hs =>
      ((t.flagUnits (hs.zipIdx.foldl (fun (t : State) p => match p.1.2 with
        | h :: _ => t.writeHit h (d.data.getD (d.pos + p.2) 0).toNat
        | [] => t) (t.openUnits hs)) hs), d)
    fails := fun t _ => t }

/-! ## The instructions -/

/-- A copy engine command whose fields `ok` checks: steps 1 to 3, `extra` at the end of them, then the hand-over (R243). -/
def State.copyCmd (s : State) (a : GReg) (kind : CmdKind) (sc : Scope) (acq rel : Bool) (ok : State → List Word → List Bool)
    (fill : State → Cmd → Cmd) (stop : State → List Word → Option State) : State :=
  let da := s.me.getG a
  s.withDesc da fun s ws =>
    s.withFields da (ok s ws) (s.withBar (wordAt ws 3) fun p1 => s.withCrec (wordAt ws 4) 32 32 fun p2 =>
      match stop s ws with
      | some t => t
      | none => s.handCopy fun s i =>
        fill s (newCmd i kind s.cur (s.copyAgent da) sc acq rel ws da (p1 ++ p2) (s.afterCodes s.myCore.copyQ acq (scopeWide sc))))

/-- LEN from 1 to `n`. -/
def lenOk (w : Word) (n : Nat) : Bool := decide (1 ≤ w.toNat) && decide (w.toNat ≤ n)

/-- OCOPY (R248). -/
def execOcopy (a : GReg) (sc : Scope) (acq rel : Bool) (s : State) : Host.Outcome State Fault Refusal :=
  run (fun s => s.copyCmd a .ocopy sc acq rel (fun _ ws =>
    [true, true, lenOk (wordAt ws 2) 1099511627776, true, true, (wordAt ws 5).toNat < 2, wordAt ws 6 == 0, wordAt ws 7 == 0])
    (fun _ c => c) (fun _ _ => none)) s

/-- OGATHER (R248). -/
def execOgather (a : GReg) (sc : Scope) (acq rel : Bool) (s : State) : Host.Outcome State Fault Refusal :=
  run (fun s => s.copyCmd a .ogather sc acq rel (fun _ ws =>
    [true, true, lenOk (wordAt ws 2) 1048576, true, true, (wordAt ws 5).toNat % 4 == 0, lenOk (wordAt ws 6) 65536,
     (wordAt ws 7).toNat < 2]) (fun _ c => c) (fun _ _ => none)) s

/-- An image address: 64-byte aligned and no window (R249). -/
def imageAddr (w : Word) : Bool := w.toNat % 64 == 0 && !isWindow w

/-- A vrest of the strand that has not finished with its registers (R249). -/
def State.restoring (s : State) (n : Nat) : Bool := (s.core (coreOf n)).copyQ.any fun c => c.sid == n && !c.finished && c.kind == .vrest

/-- A vrest of the strand has still to write one of some registers (R249). -/
def State.restorePending (s : State) (n : Nat) (rs : List ImgReg) : Bool :=
  (s.core (coreOf n)).copyQ.any fun c => c.sid == n && !c.finished && c.kind == .vrest
    && (c.regs (s.groups n)).any fun p => rs.contains p.1

/-- The registers a vsave's or vrest's selection words name. -/
def State.selected (s : State) (ws : List Word) : List ImgReg :=
  (imageRegs (s.groups s.cur) (wordAt ws 5).toNat (wordAt ws 6).toNat).map Prod.fst

/-- The mask or scale register of a selection that carries an uncorrectable error (R384). -/
def State.selectedBad (s : State) (ws : List Word) : Option RegName :=
  (s.selected ws).findSome? fun r => match r with
    | .k n => if n ≠ 0 ∧ s.me.badRegs.contains (.k n) then some (.k n) else none
    | .e n => if s.me.badRegs.contains (.e n) then some (.e n) else none
    | _ => none

/-- VSAVE (R249): the registers are read at issue, as earlier instructions and a vrest leave them. -/
def execVsave (a : GReg) (sc : Scope) (acq rel : Bool) (s : State) : Host.Outcome State Fault Refusal :=
  run (fun s => if s.restoring s.cur then s.hold
    else s.copyCmd a .vsave sc acq rel (fun _ ws =>
      [wordAt ws 0 == 0, imageAddr (wordAt ws 1), wordAt ws 2 == 0, true, true, true, (wordAt ws 6).toNat < 4294967296,
       wordAt ws 7 == 0])
      (fun s c =>
        let h := s.groups s.cur
        { c with data := s.me.image h (wordAt c.desc 5).toNat (wordAt c.desc 6).toNat
                 dataPoison := s.me.imagePoison h (wordAt c.desc 5).toNat (wordAt c.desc 6).toNat })
      (fun s ws => (s.selectedBad ws).map s.consumeReg)) s

/-- VREST (R249): it waits for an earlier one of the strand that has still to write a register both select. -/
def execVrest (a : GReg) (sc : Scope) (acq rel : Bool) (s : State) : Host.Outcome State Fault Refusal :=
  run (fun s => s.copyCmd a .vrest sc acq rel (fun _ ws =>
    [imageAddr (wordAt ws 0), wordAt ws 1 == 0, wordAt ws 2 == 0, true, true, true, (wordAt ws 6).toNat < 4294967296,
     wordAt ws 7 == 0]) (fun _ c => c) (fun s ws => if s.restorePending s.cur (s.selected ws) then some s.hold else none)) s

/-- The register bytes a vxcore reads, as element indices of U8. -/
def vxcoreBytes (ws : List Word) : List Nat := (List.range (wordAt ws 2).toNat).map fun i => (wordAt ws 5).toNat + i

/-- The vector register a vxcore names. -/
def vxcoreReg (ws : List Word) : VReg := Fin.ofNat 64 (wordAt ws 0).toNat

/-- VXCORE (R250): the bytes are read at issue, as a vrest leaves them (R249), and a poisoned group among them is consumed. -/
def execVxcore (a : GReg) (sc : Scope) (acq rel : Bool) (s : State) : Host.Outcome State Fault Refusal :=
  run (fun s => s.copyCmd a .vxcore sc acq rel (fun s ws =>
    [(wordAt ws 0).toNat < 64, isWindow (wordAt ws 1),
     decide (1 ≤ (wordAt ws 2).toNat) && decide ((wordAt ws 2).toNat + (wordAt ws 5).toNat ≤ 4096 * s.groups s.cur),
     true, true, true, wordAt ws 6 == 0, wordAt ws 7 == 0])
    (fun s c => { c with data := (vxcoreBytes c.desc).map fun i => BitVec.ofNat 8 (s.me.elem (vxcoreReg c.desc) 0xA i) })
    (fun s ws =>
      if s.restorePending s.cur [.v (vxcoreReg ws).val] then some s.hold
      else ((vxcoreBytes ws).find? fun i => s.me.elemPoison (vxcoreReg ws) 0xA i).map fun i => s.consume (.mask 0 []) i)) s

/-! ## Copy streams (R251-R254) -/

def Core.stream (c : Core) (n : Nat) : Stream := c.streams.get Stream.closed n
def Core.setStream (c : Core) (n : Nat) (t : Stream) : Core := { c with streams := c.streams.put Stream.closed n t }

/-- Two rings share a byte. -/
def ringsMeet (a n b m : Nat) : Bool := decide (a < b + m) && decide (b < a + n)

/-- The stream sopen takes, or the code that says why none is opened. -/
def Core.freeStream (c : Core) (base len : Nat) : Except Word Nat :=
  match (List.range 8).find? fun n => !(c.stream n).isOpen with
  | none => .error 0x8000000000000001
  | some n =>
    if (List.range 8).any fun m => (c.stream m).isOpen && ringsMeet base len (c.stream m).base (c.stream m).len then
      .error 0x8000000000000002
    else .ok n

/-- The fields of sopen's descriptor (R252). -/
def sopenOk (ws : List Word) : List Bool :=
  let out := (wordAt ws 7).getLsbD 0
  let base := (wordAt ws 5).toNat
  let len := (wordAt ws 6).toNat
  [!out || wordAt ws 0 == 0, out || wordAt ws 1 == 0, lenOk (wordAt ws 2) 1099511627776, true, true,
   decide (base < 2097152) && base % 512 == 0,
   [4096, 8192, 16384, 32768, 65536, 131072, 262144, 524288, 1048576].contains len && decide (base + len ≤ 2097152),
   (wordAt ws 7).toNat < 2]

/-- SOPEN (R252). -/
def execSopen (d a : GReg) (sc : Scope) (acq rel : Bool) (s : State) : Host.Outcome State Fault Refusal :=
  run (fun s =>
    let da := s.me.getG a
    s.withDesc da fun s ws =>
      s.withFields da (sopenOk ws) (s.withBar (wordAt ws 3) fun p1 => s.withCrec (wordAt ws 4) 32 32 fun p2 =>
        let base := (wordAt ws 5).toNat
        let len := (wordAt ws 6).toNat
        match s.myCore.freeStream base len with
        | .error w => s.retireWith d w
        | .ok n =>
          if 64 ≤ s.myCore.copyQ.length then s.waitIssued ws (p1 ++ p2)
          else
            let i := s.myCore.copyNext
            let out := (wordAt ws 7).getLsbD 0
            let c := newCmd i .stream s.cur (s.copyAgent da) sc acq rel ws da (p1 ++ p2)
              (s.afterCodes s.myCore.copyQ acq (scopeWide sc))
            let t : Stream :=
              { isOpen := true, fail := false, outbound := out, count := if out then len else 0, cmd := i, owner := s.cur
                base := base, len := len, total := (wordAt ws 2).toNat, moved := 0, passed := 0
                pins := [] }
            (s.updMyCore fun k => { (k.setStream n t) with copyQ := k.copyQ ++ [c], copyNext := i + 1 }).retireWith d
              (BitVec.ofNat 64 n))) s

/-- A stream instruction names an open stream (R253, R254). -/
def State.withStream (s : State) (a : GReg) (k : Nat → Stream → State) : State :=
  let w := s.me.getG a
  if 8 ≤ w.toNat ∨ (s.myCore.stream w.toNat).isOpen = false then s.trap 8 w else k w.toNat (s.myCore.stream w.toNat)

/-- SADV (R253). -/
def execSadv (d a b : GReg) (s : State) : Host.Outcome State Fault Refusal :=
  run (fun s => s.withStream a fun n t =>
    let m := s.me.getG b
    if t.count < m.toNat then s.trap 6 m
    else (s.updMyCore fun k => k.setStream n { t with count := t.count - m.toNat, passed := t.passed + m.toNat }).retireWith d
      (BitVec.ofNat 64 (t.count - m.toNat))) s

/-- The command of a stream, in the copy engine's queue. -/
def State.streamCmd (s : State) (c : CoreId) (t : Stream) : Option Cmd := (s.cmd (.copy c) t.cmd).filter fun x => x.kind == .stream

/-- The core of the strand whose turn it is, as an engine. -/
def State.myEngine (s : State) : CoreId := Fin.ofNat 256 (coreOf s.cur)

/-- Closing: the command completes unless it has ended, and the stream is freed (R254). -/
def State.closeStream (s : State) (d : GReg) (n : Nat) (t : Stream) : State :=
  let free (u : State) : State := (u.updMyCore fun k => k.setStream n Stream.closed).retireWith d (BitVec.ofNat 64 t.moved)
  match s.streamCmd s.myEngine t with
  | none => free s
  | some c =>
    if c.finished then free s
    else s.whenDone c State.hold
      (free ((s.completeCmd { c with progress := t.moved, wrote := t.moved }).dropCmd (.copy s.myEngine) c.id))

/-- SCLOSE (R254): outbound, the strand waits for published bytes to drain. -/
def State.sclose (s : State) (d a : GReg) : State :=
  s.withStream a fun n t => if t.outbound && !t.fail && decide (t.moved < t.passed) then s.hold else s.closeStream d n t

/-- SCLOSE (R254). -/
def execSclose (d a : GReg) (s : State) : Host.Outcome State Fault Refusal := run (fun s => s.sclose d a) s

/-- A fragment of a stream fails (R252). -/
def State.failStream (s : State) (c : CoreId) (n : Nat) (t : Stream) (x : Cmd) (f : Fail) (a fa : Word) : State :=
  (((s.recordFail x.agent f a).updCore c.val fun k => k.setStream n { t with fail := true }).putCmd (.copy c) (x.stop f.cause fa))

/-- The stream and its command have gone `m` bytes on. -/
def State.streamOn (s : State) (c : CoreId) (n : Nat) (t : Stream) (x : Cmd) (m : Nat) (hs : List (List Hit × List Hit)) : State :=
  ((s.updCore c.val fun k => k.setStream n { t with moved := t.moved + m, count := t.count + m }).putCmd (.copy c)
    { x with progress := x.progress + m, wrote := x.wrote + m, finished := decide (t.total ≤ t.moved + m)
             pins := fragPins x.agent.asid hs x.pins })

/-- The ring's address of byte `b` of a stream. -/
def Stream.ringAddr (t : Stream) (c : Nat) (b : Nat) : Nat := scratchAddr c (t.base + b % t.len)

/-- A piece of one byte at a physical address. -/
def byteHit (a : Nat) : Hit := ⟨.bytes [⟨.mem a none, 0, 8⟩], [], [], []⟩

/-- Up to `m` bytes of a stream, within one sub-tile of the object: the check, then `go`. -/
def State.streamFragment (s : State) (c : CoreId) (n m : Nat) (inbound : Bool)
    (go : Stream → Cmd → Nat → List (List Hit × List Hit) → State) : State :=
  let t := (s.core c.val).stream n
  if !t.isOpen || t.fail || t.outbound == inbound then s
  else match s.streamCmd c t with
  | none => s
  | some x =>
    let room := if inbound then Nat.min (t.total - t.moved) (t.len - (t.moved - t.passed)) else Nat.min (t.total - t.moved) (t.passed - t.moved)
    let obj := (if inbound then wordAt x.desc 0 else wordAt x.desc 1) + BitVec.ofNat 64 t.moved
    let key (u : Nat) := [s.subKey x.agent (obj + BitVec.ofNat 64 u)]
    let len := runLen key (key 0) 0 (Nat.min m room)
    if x.finished || !s.mayRead (.copy c) x || len = 0 then s
    else
      let us := (List.range len).map fun i =>
        let a := obj + BitVec.ofNat 64 i
        if inbound then (⟨[sideRead false a 0 8], [], a⟩ : Move) else ⟨[], [sideWrite false a 0 8], a⟩
      match s.checkFragment x.agent (x.pins.map (·.entry)) us with
      | .wait w => s.noteAwait w
      | .fail f a fa => s.failStream c n t x f a fa
      | .ok hs => if s.piecesWait (fragPieces hs) none then s.notePieces (fragPieces hs) none else go t x len hs

/-- STREAM_INBOUND_FILL (R252). -/
def execStreamInboundFill (c : CoreId) (st : Fin 8) (bytes : Nat) (s : State) : Host.Outcome State Fault Refusal :=
  run (fun s => s.streamFragment c st.val bytes true fun t x m hs =>
    let us := hs.zipIdx.map fun p => (p.1.1, [byteHit (t.ringAddr c.val (t.moved + p.2))])
    (s.moveUnits us).streamOn c st.val t x m hs) s

/-- STREAM_OUTBOUND_DRAIN (R252). -/
def execStreamOutboundDrain (c : CoreId) (st : Fin 8) (bytes : Nat) (s : State) : Host.Outcome State Fault Refusal :=
  run (fun s => s.streamFragment c st.val bytes false fun t x m hs =>
    let us := hs.zipIdx.map fun p => ([byteHit (t.ringAddr c.val (t.moved + p.2))], p.1.2)
    (s.moveUnits us).streamOn c st.val t x m hs) s

end Sys2Proof.Machine
end

