-- ==== Sys2Proof/Machine/Varith.lean ====
section
/-! DEFINITION. Vector arithmetic: integer, bitwise, floating-point, sign injection, estimates, compares, merge and move,
conversion, narrow formats, block dot products and reductions (R213-R228). -/

namespace Sys2Proof.Machine

/-! ## Operands (R214, R215) -/

/-- The pattern of element `i` of the second operand in format `f`; `uns` zero-extends the immediate (R150). -/
def Strand.operand2 (x : Strand) (b : VSrc) (f : Nat) (uns : Bool) (i : Nat) : Nat :=
  match b with
  | .vv r => x.elem r f i
  | .vs g => (x.getG g).toNat % 2 ^ fmtBits f
  | .vi m => (if uns then m.toNat else (m.signExtend 64).toNat) % 2 ^ fmtBits f

/-- Elements of the second operand that are read. -/
def reads2 (b : VSrc) (f : Nat) (is : List Nat) : List (VReg × Nat × Nat) :=
  match b with
  | .vv r => is.map fun i => (r, f, i)
  | _ => []

/-- Formats that count for R190: AF, BF in form vv, and DF where a vector is written. -/
def fmts2 (x : Strand) (b : VSrc) (d : Bool) : List Nat :=
  x.af :: (match b with
    | .vv _ => [x.bf]
    | _ => []) ++ (if d then [x.df] else [])

/-- An instruction that gives each active element its result `f a b d`; `acc` says that it reads d, the destination (R229). -/
def vecOp (legal : Strand → Bool) (uns acc : Bool) (v a : VReg) (b : VSrc) (k : KReg)
    (f : Strand → Nat → Nat → Nat → Nat) (s : State) : Host.Outcome State Fault Refusal :=
  run (fun s => s.compute (legal s.me) (fmts2 s.me b true) fun t =>
    let x := t.me
    let is := x.actives k
    { reads := is.map (fun i => (a, x.af, i)) ++ reads2 b x.bf is ++ (if acc then is.map fun i => (v, x.df, i) else [])
      dest := .vec v x.df (is.map fun i => (i, f x (x.elem a x.af i) (x.operand2 b x.bf uns i) (x.elem v x.df i)))
      scales := []
      cands := is.length
      stoch := false }) s

/-- An instruction of one source that gives each active element its result. -/
def vecOp1 (legal : Strand → Bool) (v a : VReg) (k : KReg) (f : Strand → Nat → Nat → Nat) (s : State) :
    Host.Outcome State Fault Refusal :=
  run (fun s => s.compute (legal s.me) [s.me.af, s.me.df] fun t =>
    let x := t.me
    let is := x.actives k
    { reads := is.map fun i => (a, x.af, i)
      dest := .vec v x.df (is.map fun i => (i, f x i (x.elem a x.af i)))
      scales := []
      cands := is.length
      stoch := false }) s

/-- A compare to mask (R222). -/
def maskOp (legal : Strand → Bool) (kd : KReg) (a : VReg) (b : VSrc) (k : KReg) (f : Strand → Nat → Nat → Bool) (s : State) :
    Host.Outcome State Fault Refusal :=
  run (fun s => s.compute (legal s.me) (fmts2 s.me b false) fun t =>
    let x := t.me
    let is := x.actives k
    { reads := is.map (fun i => (a, x.af, i)) ++ reads2 b x.bf is
      dest := .mask kd (is.map fun i => (i, f x (x.elem a x.af i) (x.operand2 b x.bf false i)))
      scales := []
      cands := is.length
      stoch := false }) s

/-! ## Format families (R213) -/

def Strand.intFormats (x : Strand) : Bool := isInt x.af && isInt x.bf && isInt x.df
def Strand.bitFormats (x : Strand) : Bool :=
  x.intFormats && fmtBits x.af == fmtBits x.df && fmtBits x.bf == fmtBits x.df
def Strand.shiftFormats (x : Strand) : Bool := x.intFormats && fmtBits x.af == fmtBits x.df
def Strand.floatFormats (x : Strand) : Bool := isFloat x.af && isFloat x.bf && isFloat x.df
def Strand.signFormats (x : Strand) : Bool := isFloat x.df && x.af == x.df && x.bf == x.df
def Strand.float1Formats (x : Strand) : Bool := isFloat x.af && isFloat x.df
def Strand.intCompare (x : Strand) : Bool := isInt x.af && isInt x.bf
def Strand.floatCompare (x : Strand) : Bool := isFloat x.af && isFloat x.bf
def Strand.moveFormats (x : Strand) : Bool := x.df != 0xE && x.df != 0xF
def Strand.convertFormats (x : Strand) : Bool := (isInt x.af || isFloat x.af) && (isInt x.df || isFloat x.df)
/-- FP32, FP16 and BF16. -/
def wideFloat (f : Nat) : Bool := 6 ≤ f && f ≤ 8
def Strand.quantFormats (x : Strand) : Bool := wideFloat x.af && x.df == 9
def Strand.dequantFormats (x : Strand) : Bool := x.af == 9 && wideFloat x.df
/-- The scale count of R55 fits the register. -/
def Strand.scalesFit (x : Strand) : Bool := decide (x.vl.toNat = 0) || decide ((x.vl.toNat - 1) / x.bl ≤ 4095)

/-! ## Integers (R217, R218) -/

/-- The integer value of an element, read as unsigned where the instruction says so (R214). -/
def intRead (uns : Bool) (f v : Nat) : Int := if uns then (v : Int) else intValue f v

/-- An instruction of the integer-value family: the exact result, wrapped or clamped to DF (R217). -/
def intOp (uns acc always : Bool) (v a : VReg) (b : VSrc) (k : KReg) (r : Nat → Int → Int → Int → Int) (s : State) :
    Host.Outcome State Fault Refusal :=
  vecOp Strand.intFormats false acc v a b k (fun x p q d =>
    putInt x.df (x.sat || always) (r x.df (intRead uns x.af p) (intRead uns x.bf q) (intValue x.df d))) s

/-- The high half of a product (R217). -/
def highOp (uns : Bool) (v a : VReg) (b : VSrc) (k : KReg) (s : State) : Host.Outcome State Fault Refusal :=
  vecOp Strand.intFormats false false v a b k (fun x p q _ =>
    let w := fmtBits x.df
    wrapBits w (intRead uns x.af p * intRead uns x.bf q / ((2 ^ w : Nat) : Int))) s

/-- The smaller and the larger integer. -/
def minInt (a b : Int) : Int := if b < a then b else a
def maxInt (a b : Int) : Int := if a < b then b else a

/-- The quotient of R217. -/
def quotInt (df : Nat) (a b : Int) : Int := if b = 0 then (if a < 0 then intMin df else intMax df) else a.tdiv b

/-- The remainder of R217. -/
def modInt (a b : Int) : Int := if b = 0 then a else a - b * a.tdiv b

/-- A bitwise instruction (R218). -/
def bitsOp (v a : VReg) (b : VSrc) (k : KReg) (r : Nat → Nat → Nat → Nat) (s : State) : Host.Outcome State Fault Refusal :=
  vecOp Strand.bitFormats false false v a b k (fun x p q _ => r (2 ^ fmtBits x.df - 1) p q) s

/-- A shift: `r w a n` (R218). -/
def shiftOp (v a : VReg) (b : VSrc) (k : KReg) (r : Nat → Nat → Nat → Nat) (s : State) : Host.Outcome State Fault Refusal :=
  vecOp Strand.shiftFormats true false v a b k (fun x p q _ => r (fmtBits x.df) p (q % fmtBits x.df)) s

/-- The shifts of R218 on `w` bits. -/
def shiftLeft (w a n : Nat) : Nat := a * 2 ^ n % 2 ^ w
def shiftRight (_w a n : Nat) : Nat := a / 2 ^ n
def shiftArith (w a n : Nat) : Nat := wrapBits w (twos w a / ((2 ^ n : Nat) : Int))
def rotateLeft (w a n : Nat) : Nat := a * 2 ^ n % 2 ^ w + a / 2 ^ (w - n)

/-! ## Floating point (R219-R222) -/

/-- A result written to DF under vtype (R49, R52, R60). -/
def Strand.roundDf (x : Strand) (n : ExactNum) : Nat := encodeFloat x.df (.rm x.rm) x.sat n

/-- An instruction of the float family. -/
def floatOp (acc : Bool) (v a : VReg) (b : VSrc) (k : KReg) (r : Rounding → ExactNum → ExactNum → ExactNum → ExactNum) (s : State) :
    Host.Outcome State Fault Refusal :=
  vecOp Strand.floatFormats false acc v a b k (fun x p q d =>
    x.roundDf (r x.rm (decodeFloat x.af p) (decodeFloat x.bf q) (decodeFloat x.df d))) s

/-- A function of one float. -/
def floatOp1 (v a : VReg) (k : KReg) (r : ExactNum → ExactNum) (s : State) : Host.Outcome State Fault Refusal :=
  vecOp1 Strand.float1Formats v a k (fun x _ p => x.roundDf (r (decodeFloat x.af p))) s

/-- A sign injection: `r` of a's sign and the second sign (R220). -/
def signOp (v a : VReg) (b : VSrc) (k : KReg) (r : Bool → Bool → Bool) (s : State) : Host.Outcome State Fault Refusal :=
  vecOp Strand.signFormats false false v a b k (fun x p q _ =>
    let n := fmtBits x.df - 1
    p % 2 ^ n + (r (bit p n) (bit q n)).toNat * 2 ^ n) s

/-- A compare of integers. -/
def intCmp (uns : Bool) (kd : KReg) (a : VReg) (b : VSrc) (k : KReg) (r : Int → Int → Bool) (s : State) :
    Host.Outcome State Fault Refusal :=
  maskOp Strand.intCompare kd a b k (fun x p q => r (intRead uns x.af p) (intRead uns x.bf q)) s

/-- A compare of floats. -/
def floatCmp (kd : KReg) (a : VReg) (b : VSrc) (k : KReg) (r : ExactNum → ExactNum → Bool) (s : State) :
    Host.Outcome State Fault Refusal :=
  maskOp Strand.floatCompare kd a b k (fun x p q => r (decodeFloat x.af p) (decodeFloat x.bf q)) s

/-! ## Reductions (R69, R70, R228) -/

/-- One level of the tree: neighbours combined, absent entries passed by (R69). -/
def treeLevel {α : Type} (f : α → α → α) (l : List (Option α)) : List (Option α) :=
  match l with
  | [] => []
  | [a] => [a]
  | some a :: some b :: r => some (f a b) :: treeLevel f r
  | some a :: none :: r => some a :: treeLevel f r
  | none :: b :: r => b :: treeLevel f r

/-- The tree over 2^n entries. -/
def treeOf {α : Type} (f : α → α → α) (n : Nat) (l : List (Option α)) : Option α :=
  match n with
  | 0 => l.headD none
  | n + 1 => treeOf f n (treeLevel f l)

/-- A reduction: `r` of the initial pattern and the entries from 0 up to vl, absent where inactive. It has one combining step
for each active element, the initial value's among them (R231; log 67). -/
def reduceOp (legal : Strand → Bool) (v a : VReg) (k : KReg) (r : Strand → Nat → List (Option Nat) → Nat) (s : State) :
    Host.Outcome State Fault Refusal :=
  run (fun s => s.compute (legal s.me && s.me.vstart == 0) [s.me.af] fun t =>
    let x := t.me
    let is := x.actives k
    let es := (List.range x.vl.toNat).map fun i => if x.getK k i then some (x.elem a x.af i) else none
    { reads := is.map (fun i => (a, x.af, i)) ++ [(v, x.df, 0)]
      dest := .vec v x.df [(0, if is = [] then x.elem v x.df 0 else r x (x.elem v x.df 0) es)]
      scales := []
      cands := is.length
      stoch := false }) s

/-- The entries that are there. -/
def present (es : List (Option Nat)) : List Nat := es.filterMap id

/-- An integer reduction: the exact result of `r` over the values, then wrapped or clamped once. -/
def intReduce (uns : Bool) (v a : VReg) (k : KReg) (r : Int → Int → Int) (s : State) : Host.Outcome State Fault Refusal :=
  reduceOp (fun x => isInt x.af && isInt x.df) v a k (fun x init es =>
    putInt x.df x.sat ((present es).foldl (fun acc p => r acc (intRead uns x.af p)) (intRead uns x.df init))) s

/-- A bitwise reduction. -/
def bitsReduce (v a : VReg) (k : KReg) (r : Nat → Nat → Nat) (s : State) : Host.Outcome State Fault Refusal :=
  reduceOp (fun x => isInt x.af && isInt x.df && fmtBits x.af == fmtBits x.df) v a k
    (fun _ init es => (present es).foldl r init) s

/-- A float minimum or maximum by the tree, rounded once. -/
def pickReduce (smaller : Bool) (v a : VReg) (k : KReg) (s : State) : Host.Outcome State Fault Refusal :=
  reduceOp Strand.float1Formats v a k (fun x init es =>
    match treeOf (ExactNum.pick smaller) 16 (es.map fun e => e.map (decodeFloat x.af)) with
    | some n => x.roundDf (ExactNum.pick smaller (decodeFloat x.df init) n)
    | none => init) s

/-! ## Moves and conversions (R223-R226) -/

/-- Random or rounding mode for element `i` of an instruction under the generator's advanced value (R58, R59). -/
def howFor (x : Strand) (stoch : Bool) (gen : Word) (i : Nat) : How := if stoch then .stoch (randomOf gen i) else .rm x.rm

/-- An instruction that rounds to a narrow format, stochastically under SR. -/
def narrowOp (legal : Strand → Bool) (narrow : Strand → Bool) (v a : VReg) (k : KReg)
    (f : Strand → How → Nat → Nat → Nat) (s : State) : Host.Outcome State Fault Refusal :=
  run (fun s => s.compute (legal s.me) [s.me.af, s.me.df] fun t =>
    let x := t.me
    let is := x.actives k
    let st := x.sr && narrow x && !is.isEmpty
    { reads := is.map fun i => (a, x.af, i)
      dest := .vec v x.df (is.map fun i => (i, f x (howFor x st (advanceX t.myCore.x) i) i (x.elem a x.af i)))
      scales := []
      cands := is.length
      stoch := st }) s

/-- The scale byte of element `i` (R55). -/
def Strand.scaleOf (x : Strand) (e : EReg) (i : Nat) : Nat := (x.e.get 0 (4096 * e.val + i / x.bl)).toNat

/-- The active values of block `j` (R57). -/
def Strand.blockVals (x : Strand) (a : VReg) (is : List Nat) (j : Nat) : List ExactNum :=
  (is.filter fun i => i / x.bl == j).map fun i => decodeFloat x.af (x.elem a x.af i)

/-- How many blocks hold an active element (R231). -/
def Strand.blocksOf (x : Strand) (is : List Nat) : Nat := ((is.map fun i => i / x.bl).eraseDups).length

/-- vpack's scale byte of block `j`. -/
def Strand.packScale (x : Strand) (a : VReg) (is : List Nat) (ty j : Nat) : Nat :=
  ty * 64 + (blockScale ty x.sat (x.blockVals a is j)).field

/-- The accumulator after block `j` of a floating or Q4 block dot (R66). -/
def Strand.dotBlock (x : Strand) (a b : VReg) (is : List Nat) (acc j : Nat) : Nat :=
  let js := is.filter fun i => i / x.bl == j
  if js = [] then acc
  else
    let ea := (x.e.get 0 (4096 * (a.val % 16) + j)).toNat
    let eb := (x.e.get 0 (4096 * (b.val % 16) + j)).toNat
    addBlock acc (blockValue x.af x.bf ea eb (js.map fun i => (dotElem x.af ea (x.elem a x.af i), dotElem x.bf eb (x.elem b x.bf i))))

/-! ## The instructions -/

/-- VADD (R217). -/
def execVadd (v a : VReg) (b : VSrc) (k : KReg) (_dt : Bool) (s : State) : Host.Outcome State Fault Refusal :=
  intOp false false false v a b k (fun _ p q _ => p + q) s

/-- VSUB (R217). -/
def execVsub (v a : VReg) (b : VSrc) (k : KReg) (_dt : Bool) (s : State) : Host.Outcome State Fault Refusal :=
  intOp false false false v a b k (fun _ p q _ => p - q) s

/-- VMUL (R217). -/
def execVmul (v a : VReg) (b : VSrc) (k : KReg) (_dt : Bool) (s : State) : Host.Outcome State Fault Refusal :=
  intOp false false false v a b k (fun _ p q _ => p * q) s

/-- VMULHS (R217). -/
def execVmulhs (v a : VReg) (b : VSrc) (k : KReg) (_dt : Bool) (s : State) : Host.Outcome State Fault Refusal :=
  highOp false v a b k s

/-- VMULHU (R217). -/
def execVmulhu (v a : VReg) (b : VSrc) (k : KReg) (_dt : Bool) (s : State) : Host.Outcome State Fault Refusal :=
  highOp true v a b k s

/-- VMULADD (R217). -/
def execVmuladd (v a : VReg) (b : VSrc) (k : KReg) (_dt : Bool) (s : State) : Host.Outcome State Fault Refusal :=
  intOp false true false v a b k (fun _ p q d => d + p * q) s

/-- VMULSUB (R217). -/
def execVmulsub (v a : VReg) (b : VSrc) (k : KReg) (_dt : Bool) (s : State) : Host.Outcome State Fault Refusal :=
  intOp false true false v a b k (fun _ p q d => d - p * q) s

/-- VMIN (R217). -/
def execVmin (v a : VReg) (b : VSrc) (k : KReg) (_dt : Bool) (s : State) : Host.Outcome State Fault Refusal :=
  intOp false false false v a b k (fun _ p q _ => minInt p q) s

/-- VMAX (R217). -/
def execVmax (v a : VReg) (b : VSrc) (k : KReg) (_dt : Bool) (s : State) : Host.Outcome State Fault Refusal :=
  intOp false false false v a b k (fun _ p q _ => maxInt p q) s

/-- VMINU (R217). -/
def execVminu (v a : VReg) (b : VSrc) (k : KReg) (_dt : Bool) (s : State) : Host.Outcome State Fault Refusal :=
  intOp true false false v a b k (fun _ p q _ => minInt p q) s

/-- VMAXU (R217). -/
def execVmaxu (v a : VReg) (b : VSrc) (k : KReg) (_dt : Bool) (s : State) : Host.Outcome State Fault Refusal :=
  intOp true false false v a b k (fun _ p q _ => maxInt p q) s

/-- VADDSAT (R217). -/
def execVaddsat (v a : VReg) (b : VSrc) (k : KReg) (_dt : Bool) (s : State) : Host.Outcome State Fault Refusal :=
  intOp false false true v a b k (fun _ p q _ => p + q) s

/-- VSUBSAT (R217). -/
def execVsubsat (v a : VReg) (b : VSrc) (k : KReg) (_dt : Bool) (s : State) : Host.Outcome State Fault Refusal :=
  intOp false false true v a b k (fun _ p q _ => p - q) s

/-- VQUOT (R217). -/
def execVquot (v a : VReg) (b : VSrc) (k : KReg) (_dt : Bool) (s : State) : Host.Outcome State Fault Refusal :=
  intOp false false false v a b k (fun df p q _ => quotInt df p q) s

/-- VQUOTU (R217). -/
def execVquotu (v a : VReg) (b : VSrc) (k : KReg) (_dt : Bool) (s : State) : Host.Outcome State Fault Refusal :=
  intOp true false false v a b k (fun df p q _ => quotInt df p q) s

/-- VMOD (R217). -/
def execVmod (v a : VReg) (b : VSrc) (k : KReg) (_dt : Bool) (s : State) : Host.Outcome State Fault Refusal :=
  intOp false false false v a b k (fun _ p q _ => modInt p q) s

/-- VMODU (R217). -/
def execVmodu (v a : VReg) (b : VSrc) (k : KReg) (_dt : Bool) (s : State) : Host.Outcome State Fault Refusal :=
  intOp true false false v a b k (fun _ p q _ => modInt p q) s

/-- VAND (R218). -/
def execVand (v a : VReg) (b : VSrc) (k : KReg) (_dt : Bool) (s : State) : Host.Outcome State Fault Refusal :=
  bitsOp v a b k (fun _ p q => p &&& q) s

/-- VOR (R218). -/
def execVor (v a : VReg) (b : VSrc) (k : KReg) (_dt : Bool) (s : State) : Host.Outcome State Fault Refusal :=
  bitsOp v a b k (fun _ p q => p ||| q) s

/-- VXOR (R218). -/
def execVxor (v a : VReg) (b : VSrc) (k : KReg) (_dt : Bool) (s : State) : Host.Outcome State Fault Refusal :=
  bitsOp v a b k (fun _ p q => p ^^^ q) s

/-- VANDN (R218). -/
def execVandn (v a : VReg) (b : VSrc) (k : KReg) (_dt : Bool) (s : State) : Host.Outcome State Fault Refusal :=
  bitsOp v a b k (fun m p q => p &&& (m - q)) s

/-- VSHL (R218). -/
def execVshl (v a : VReg) (b : VSrc) (k : KReg) (_dt : Bool) (s : State) : Host.Outcome State Fault Refusal :=
  shiftOp v a b k shiftLeft s

/-- VSHR (R218). -/
def execVshr (v a : VReg) (b : VSrc) (k : KReg) (_dt : Bool) (s : State) : Host.Outcome State Fault Refusal :=
  shiftOp v a b k shiftRight s

/-- VSAR (R218). -/
def execVsar (v a : VReg) (b : VSrc) (k : KReg) (_dt : Bool) (s : State) : Host.Outcome State Fault Refusal :=
  shiftOp v a b k shiftArith s

/-- VROL (R218). -/
def execVrol (v a : VReg) (b : VSrc) (k : KReg) (_dt : Bool) (s : State) : Host.Outcome State Fault Refusal :=
  shiftOp v a b k rotateLeft s

/-- VFADD (R219). -/
def execVfadd (v a : VReg) (b : VSrc) (k : KReg) (_dt : Bool) (s : State) : Host.Outcome State Fault Refusal :=
  floatOp false v a b k (fun r p q _ => ExactNum.add r p q) s

/-- VFSUB (R219). -/
def execVfsub (v a : VReg) (b : VSrc) (k : KReg) (_dt : Bool) (s : State) : Host.Outcome State Fault Refusal :=
  floatOp false v a b k (fun r p q _ => ExactNum.add r p q.minus) s

/-- VFMUL (R219). -/
def execVfmul (v a : VReg) (b : VSrc) (k : KReg) (_dt : Bool) (s : State) : Host.Outcome State Fault Refusal :=
  floatOp false v a b k (fun _ p q _ => ExactNum.mul p q) s

/-- VFMULADD (R219). -/
def execVfmuladd (v a : VReg) (b : VSrc) (k : KReg) (_dt : Bool) (s : State) : Host.Outcome State Fault Refusal :=
  floatOp true v a b k (fun r p q d => ExactNum.fma r p q d) s

/-- VFMULSUB (R219). -/
def execVfmulsub (v a : VReg) (b : VSrc) (k : KReg) (_dt : Bool) (s : State) : Host.Outcome State Fault Refusal :=
  floatOp true v a b k (fun r p q d => ExactNum.fms r p q d) s

/-- VFMIN (R219). -/
def execVfmin (v a : VReg) (b : VSrc) (k : KReg) (_dt : Bool) (s : State) : Host.Outcome State Fault Refusal :=
  floatOp false v a b k (fun _ p q _ => ExactNum.pick true p q) s

/-- VFMAX (R219). -/
def execVfmax (v a : VReg) (b : VSrc) (k : KReg) (_dt : Bool) (s : State) : Host.Outcome State Fault Refusal :=
  floatOp false v a b k (fun _ p q _ => ExactNum.pick false p q) s

/-- VFDIV (R219). -/
def execVfdiv (v a : VReg) (b : VSrc) (k : KReg) (_dt : Bool) (s : State) : Host.Outcome State Fault Refusal :=
  floatOp false v a b k (fun _ p q _ => ExactNum.div p q) s

/-- VFSQRT (R219). -/
def execVfsqrt (v a : VReg) (k : KReg) (_dt : Bool) (s : State) : Host.Outcome State Fault Refusal :=
  floatOp1 v a k ExactNum.sqrt s

/-- VFREC (R221). -/
def execVfrec (v a : VReg) (k : KReg) (_dt : Bool) (s : State) : Host.Outcome State Fault Refusal :=
  floatOp1 v a k ExactNum.recip s

/-- VFRSQ (R221). -/
def execVfrsq (v a : VReg) (k : KReg) (_dt : Bool) (s : State) : Host.Outcome State Fault Refusal :=
  floatOp1 v a k ExactNum.rsqrt s

/-- VFEXP (R221). -/
def execVfexp (v a : VReg) (k : KReg) (_dt : Bool) (s : State) : Host.Outcome State Fault Refusal :=
  floatOp1 v a k ExactNum.exp2 s

/-- VFLOG (R221). -/
def execVflog (v a : VReg) (k : KReg) (_dt : Bool) (s : State) : Host.Outcome State Fault Refusal :=
  floatOp1 v a k ExactNum.log2 s

/-- VFSETSIGN (R220). -/
def execVfsetsign (v a : VReg) (b : VSrc) (k : KReg) (_dt : Bool) (s : State) : Host.Outcome State Fault Refusal :=
  signOp v a b k (fun _ q => q) s

/-- VFNEGSIGN (R220). -/
def execVfnegsign (v a : VReg) (b : VSrc) (k : KReg) (_dt : Bool) (s : State) : Host.Outcome State Fault Refusal :=
  signOp v a b k (fun _ q => !q) s

/-- VFXORSIGN (R220). -/
def execVfxorsign (v a : VReg) (b : VSrc) (k : KReg) (_dt : Bool) (s : State) : Host.Outcome State Fault Refusal :=
  signOp v a b k (fun p q => p != q) s

/-- VCEQ (R222). -/
def execVceq (kd : KReg) (a : VReg) (b : VSrc) (k : KReg) (_dt : Bool) (s : State) : Host.Outcome State Fault Refusal :=
  intCmp false kd a b k (fun p q => decide (p = q)) s

/-- VCNE (R222). -/
def execVcne (kd : KReg) (a : VReg) (b : VSrc) (k : KReg) (_dt : Bool) (s : State) : Host.Outcome State Fault Refusal :=
  intCmp false kd a b k (fun p q => decide (p ≠ q)) s

/-- VCLT (R222). -/
def execVclt (kd : KReg) (a : VReg) (b : VSrc) (k : KReg) (_dt : Bool) (s : State) : Host.Outcome State Fault Refusal :=
  intCmp false kd a b k (fun p q => decide (p < q)) s

/-- VCLE (R222). -/
def execVcle (kd : KReg) (a : VReg) (b : VSrc) (k : KReg) (_dt : Bool) (s : State) : Host.Outcome State Fault Refusal :=
  intCmp false kd a b k (fun p q => decide (p ≤ q)) s

/-- VCLTU (R222). -/
def execVcltu (kd : KReg) (a : VReg) (b : VSrc) (k : KReg) (_dt : Bool) (s : State) : Host.Outcome State Fault Refusal :=
  intCmp true kd a b k (fun p q => decide (p < q)) s

/-- VCLEU (R222). -/
def execVcleu (kd : KReg) (a : VReg) (b : VSrc) (k : KReg) (_dt : Bool) (s : State) : Host.Outcome State Fault Refusal :=
  intCmp true kd a b k (fun p q => decide (p ≤ q)) s

/-- VFCEQ (R222). -/
def execVfceq (kd : KReg) (a : VReg) (b : VSrc) (k : KReg) (_dt : Bool) (s : State) : Host.Outcome State Fault Refusal :=
  floatCmp kd a b k (fun p q => p.eq q) s

/-- VFCNE (R222). -/
def execVfcne (kd : KReg) (a : VReg) (b : VSrc) (k : KReg) (_dt : Bool) (s : State) : Host.Outcome State Fault Refusal :=
  floatCmp kd a b k (fun p q => !p.eq q) s

/-- VFCLT (R222). -/
def execVfclt (kd : KReg) (a : VReg) (b : VSrc) (k : KReg) (_dt : Bool) (s : State) : Host.Outcome State Fault Refusal :=
  floatCmp kd a b k (fun p q => p.lt q) s

/-- VFCLE (R222). -/
def execVfcle (kd : KReg) (a : VReg) (b : VSrc) (k : KReg) (_dt : Bool) (s : State) : Host.Outcome State Fault Refusal :=
  floatCmp kd a b k (fun p q => p.lt q || p.eq q) s

/-- VFCUN (R222). -/
def execVfcun (kd : KReg) (a : VReg) (b : VSrc) (k : KReg) (_dt : Bool) (s : State) : Host.Outcome State Fault Refusal :=
  floatCmp kd a b k (fun p q => p.isNan || q.isNan) s

/-- VSEL (R223): k is a selector, so every element from vstart up to vl is written. -/
def execVsel (v a : VReg) (b : VSrc) (k : KReg) (_dt : Bool) (s : State) : Host.Outcome State Fault Refusal :=
  run (fun s => s.compute s.me.moveFormats [s.me.df] fun t =>
    let x := t.me
    let is := x.span
    { reads := (is.filter fun i => !x.getK k i).map (fun i => (a, x.df, i)) ++ reads2 b x.df (is.filter fun i => x.getK k i)
      dest := .vec v x.df (is.map fun i => (i, if x.getK k i then x.operand2 b x.df false i else x.elem a x.df i))
      scales := []
      cands := is.length
      stoch := false }) s

/-- VMOVE (R223). -/
def execVmove (v : VReg) (b : VSrc) (k : KReg) (_dt : Bool) (s : State) : Host.Outcome State Fault Refusal :=
  run (fun s => s.compute s.me.moveFormats [s.me.df] fun t =>
    let x := t.me
    let is := x.actives k
    { reads := reads2 b x.df is
      dest := .vec v x.df (is.map fun i => (i, x.operand2 b x.df false i))
      scales := []
      cands := is.length
      stoch := false }) s

/-- VCVT (R224). -/
def execVcvt (v a : VReg) (k : KReg) (_dt : Bool) (s : State) : Host.Outcome State Fault Refusal :=
  narrowOp Strand.convertFormats (fun x => x.df == 4 || x.df == 5) v a k
    (fun x how _ p => if x.af = x.df then p else convert x.af x.df how x.rm x.sat p) s

/-- VQUANT (R225). -/
def execVquant (v a : VReg) (e : EReg) (k : KReg) (_dt : Bool) (s : State) : Host.Outcome State Fault Refusal :=
  narrowOp (fun x => x.quantFormats && x.scalesFit) (fun _ => true) v a k
    (fun x how i p => quantise (x.scaleOf e i / 64) (x.scaleOf e i % 64) how (decodeFloat x.af p)) s

/-- VDEQUANT (R225). -/
def execVdequant (v a : VReg) (e : EReg) (k : KReg) (_dt : Bool) (s : State) : Host.Outcome State Fault Refusal :=
  vecOp1 (fun x => x.dequantFormats && x.scalesFit) v a k
    (fun x i p => x.roundDf (dequantise (x.scaleOf e i / 64) (x.scaleOf e i % 64) p)) s

/-- VPACK (R226): scale bytes of every block below vl, and the codes of the active elements. -/
def execVpack (v a : VReg) (ty : BitVec 2) (e : EReg) (k : KReg) (_dt : Bool) (s : State) :
    Host.Outcome State Fault Refusal :=
  run (fun s => s.compute (s.me.quantFormats && s.me.scalesFit && s.me.vstart == 0) [s.me.af, s.me.df] fun t =>
    let x := t.me
    let is := x.actives k
    let st := x.sr && !is.isEmpty
    let scale := x.packScale a is ty.toNat
    { reads := is.map fun i => (a, x.af, i)
      dest := .vec v x.df (is.map fun i => (i, quantise ty.toNat (scale (i / x.bl) % 64) (howFor x st (advanceX t.myCore.x) i)
        (decodeFloat x.af (x.elem a x.af i))))
      scales := (List.range (ceilDiv x.vl.toNat x.bl)).map fun j => (4096 * e.val + j, BitVec.ofNat 8 (scale j))
      cands := x.blocksOf is
      stoch := st }) s

/-- VBDOT (R227). -/
def execVbdot (v a b : VReg) (k : KReg) (_dt : Bool) (s : State) : Host.Outcome State Fault Refusal :=
  run (fun s =>
    let whole := isInt s.me.af
    s.compute (dotPair s.me.af s.me.bf && s.me.df == (if whole then 2 else 8) && (whole || s.me.scalesFit) && s.me.vstart == 0)
        [s.me.af, s.me.bf] fun t =>
      let x := t.me
      let is := x.actives k
      let acc := x.elem v x.df 0
      { reads := is.map (fun i => (a, x.af, i)) ++ is.map (fun i => (b, x.bf, i)) ++ [(v, x.df, 0)]
        dest := .vec v x.df [(0, if whole then
            intDot x.sat acc (is.map fun i => (intValue x.af (x.elem a x.af i), intValue x.bf (x.elem b x.bf i)))
          else (List.range (ceilDiv x.vl.toNat x.bl)).foldl (x.dotBlock a b is) acc)]
        scales := []
        cands := x.blocksOf is
        stoch := false }) s

/-- VRSUM (R228). -/
def execVrsum (v a : VReg) (k : KReg) (_dt : Bool) (s : State) : Host.Outcome State Fault Refusal :=
  intReduce false v a k (fun p q => p + q) s

/-- VRMIN (R228). -/
def execVrmin (v a : VReg) (k : KReg) (_dt : Bool) (s : State) : Host.Outcome State Fault Refusal :=
  intReduce false v a k minInt s

/-- VRMAX (R228). -/
def execVrmax (v a : VReg) (k : KReg) (_dt : Bool) (s : State) : Host.Outcome State Fault Refusal :=
  intReduce false v a k maxInt s

/-- VRMINU (R228). -/
def execVrminu (v a : VReg) (k : KReg) (_dt : Bool) (s : State) : Host.Outcome State Fault Refusal :=
  intReduce true v a k minInt s

/-- VRMAXU (R228). -/
def execVrmaxu (v a : VReg) (k : KReg) (_dt : Bool) (s : State) : Host.Outcome State Fault Refusal :=
  intReduce true v a k maxInt s

/-- VRAND (R228). -/
def execVrand (v a : VReg) (k : KReg) (_dt : Bool) (s : State) : Host.Outcome State Fault Refusal :=
  bitsReduce v a k (fun p q => p &&& q) s

/-- VROR (R228). -/
def execVror (v a : VReg) (k : KReg) (_dt : Bool) (s : State) : Host.Outcome State Fault Refusal :=
  bitsReduce v a k (fun p q => p ||| q) s

/-- VRXOR (R228). -/
def execVrxor (v a : VReg) (k : KReg) (_dt : Bool) (s : State) : Host.Outcome State Fault Refusal :=
  bitsReduce v a k (fun p q => p ^^^ q) s

/-- VFRSUM (R69, R228): in the last addition the initial value comes first among the sources of R50 (log 62). -/
def execVfrsum (v a : VReg) (k : KReg) (_dt : Bool) (s : State) : Host.Outcome State Fault Refusal :=
  reduceOp Strand.float1Formats v a k (fun x init es =>
    match treeOf (fun p q => decodeFloat x.df (x.roundDf (ExactNum.add x.rm p q))) 16 (es.map fun e => e.map (decodeFloat x.af)) with
    | some n => x.roundDf (ExactNum.add x.rm (decodeFloat x.df init) n)
    | none => init) s

/-- VFROSUM (R70, R228): in each addition the running sum comes first among the sources of R50 (log 62). -/
def execVfrosum (v a : VReg) (k : KReg) (_dt : Bool) (s : State) : Host.Outcome State Fault Refusal :=
  reduceOp Strand.float1Formats v a k (fun x init es =>
    (present es).foldl (fun acc p => x.roundDf (ExactNum.add x.rm (decodeFloat x.df acc) (decodeFloat x.af p))) init) s

/-- VFRMIN (R228). -/
def execVfrmin (v a : VReg) (k : KReg) (_dt : Bool) (s : State) : Host.Outcome State Fault Refusal :=
  pickReduce true v a k s

/-- VFRMAX (R228). -/
def execVfrmax (v a : VReg) (k : KReg) (_dt : Bool) (s : State) : Host.Outcome State Fault Refusal :=
  pickReduce false v a k s

end Sys2Proof.Machine
end

