-- ==== Sys2Proof/Machine/Layout.lean ====
section
/-! DEFINITION. The layout engine: lturn, ltile, ltrans, lconv, lconvo, lscale, lrepl (R255, R256), outlier splitting
(R72-R74, R323) and widening (R75, R76, R324). -/

namespace Sys2Proof.Machine

/-! ## Objects and elements -/

/-- The record of an object, when it is valid; windows have none. -/
def State.objRec (s : State) (ag : Agent) (o : Word) : Option Rec :=
  if isWindow o then none
  else match recAddr ag.tb (objNum o) with
  | none => none
  | some ra =>
    let r := parseRec (toWords 8 (s.readBytes ra 64))
    if s.recValid r then some r else none

/-- An address may stand for elements of a format in a layout command: a window's may, of any; a record that cannot be read
fails its fragment. -/
def State.fmtIs (s : State) (ag : Agent) (o : Word) (f : Nat) : Bool :=
  match s.objRec ag o with
  | some r => r.fmt == f
  | none => true

/-- The format of the elements a command moves unchanged: an object's, U8 between two windows (R81; log 69). -/
def State.movedFmt (s : State) (c : Cmd) : Nat :=
  match s.objRec c.agent (wordAt c.desc 0), s.objRec c.agent (wordAt c.desc 1) with
  | some r, _ => r.fmt
  | none, some r => r.fmt
  | none, none => 0xA

/-- Element `i` from `o` up, of `w` bits: its byte's address and its bit there. -/
def spotOf (o : Word) (w i : Nat) : Word × Nat := (o + BitVec.ofNat 64 (i * w / 8), i * w % 8)

def elemRead (o : Word) (w i : Nat) : Side := let p := spotOf o w i; sideRead true p.1 p.2 w
def elemWrite (o : Word) (w i : Nat) : Side := let p := spotOf o w i; sideWrite true p.1 p.2 w

/-- A destination of lconv and lconvo needs N as well (R85). -/
def convWrite (o : Word) (w i : Nat) : Side := { elemWrite o w i with acc := ⟨[1, 6], true, false, false, true, false⟩ }

/-- The object keeps T2 elements as planes P and N while it is in tier 1 (R118). -/
def pnPlanes (r : Option Rec) : Bool :=
  match r with
  | some r => r.layout == 3 && r.fmt == 0xE
  | none => false

/-- The T2 code of a pair of plane bits, P the lower (R118). -/
def pairCode (ticks i v : Nat) : Nat :=
  match v with
  | 0 => 0
  | 1 => 1
  | 2 => 3
  | _ => (Config.bothPlanes ticks i).toNat

/-- The value of pieces in canonical form: with `pn`, every pair of plane bits P and N is turned into its T2 code (R118,
R119). -/
def State.readCanon (s : State) (pn : Bool) (i : Nat) (ps : List Piece) : Nat :=
  match ps with
  | [] => 0
  | [p] => s.readPiece p
  | p :: q :: r =>
    if pn && p.width == 1 then pairCode s.ticks i (s.readPiece p + 2 * s.readPiece q) + 4 * s.readCanon pn (i + 1) r
    else s.readPiece p + 2 ^ p.width * s.readCanon pn (i + 1) (q :: r)

/-- The code of an element. -/
def State.readCode (s : State) (pn : Bool) (i : Nat) (h : Hit) : Nat := s.readCanon pn i h.pieces

/-- What a T2 code puts into planes P and N. -/
def planesOfCode (c : Nat) : Nat := if c = 1 then 1 else if c = 3 then 2 else 0

/-- An element's code written, a moving sub-tile's destination included. -/
def State.writeCode (s : State) (pn : Bool) (h : Hit) (v : Nat) : State :=
  let inPlanes (ps : List Piece) := if pn && ps.length == 2 then planesOfCode v else v
  (s.writePieces .l2 h.pieces (inPlanes h.pieces)).writePieces .l2 h.mirrors (inPlanes h.mirrors)

/-- The codes a unit reads: its element's last, turned from planes where `pn`, and the byte of a scale array as it stands (R118). -/
def State.readUnit (s : State) (pn : Bool) (i : Nat) (hs : List Hit) : List Nat :=
  match hs with
  | [] => []
  | [h] => [s.readCode pn i h]
  | h :: r => s.readPieces h.pieces :: s.readUnit pn i r

/-- Units in order: the codes each reads, taken through `f` with the unit's number, go to its destination. -/
def State.mapUnits (s : State) (ps pd : Bool) (f : Nat → List Nat → Nat) (i : Nat) (us : List (List Hit × List Hit)) : State :=
  match us with
  | [] => s
  | u :: r =>
    let t := match u.2 with
      | d :: _ => s.writeCode pd d (f i (s.readUnit ps i u.1))
      | [] => s
    t.mapUnits ps pd f (i + 1) r

/-- A fragment of units that go through `f` one by one (R245 stage 2). -/
def State.performUnits (s : State) (ps pd : Bool) (f : Nat → List Nat → Nat) (i : Nat) (us : List (List Hit × List Hit)) : State :=
  let t := s.openUnits us
  (t.flagUnits (t.mapUnits ps pd f i us) us).tick

/-- Bytes that units `pos` to `pos + n - 1` write in elements of `w` bits. -/
def unitBytes (w : Nat) (unit : Nat → Move) (pos n : Nat) : Nat :=
  let ds := (List.range n).filterMap fun i => ((unit (pos + i)).dst.head?).map Side.addr
  if 8 ≤ w then w / 8 * ds.length else ds.eraseDups.length

/-! ## lturn, ltile, ltrans -/

/-- A command that moves codes of one format unchanged: `place` gives each unit its source and destination elements, counted
from SRC and DST, or none for an inactive column (R87). -/
def movedWork (s : State) (c : Cmd) (total : Nat) (place : Nat → Option (Nat × Nat)) : Work :=
  let src := wordAt c.desc 0
  let dst := wordAt c.desc 1
  let rs := s.objRec c.agent src
  let rd := s.objRec c.agent dst
  let w := fmtBits (s.movedFmt c)
  let unit (u : Nat) : Move := match place u with
    | some (i, j) => ⟨[elemRead src w i], [elemWrite dst w j], (spotOf src w i).1⟩
    | none => ⟨[], [], src⟩
  { total := total
    counts := fun p n => (List.range n).countP fun i => (place (p + i)).isSome
    bytes := 0
    unit := unit
    key := fun u => match place u with
      | some (i, j) => [s.subKey c.agent (spotOf src w i).1, s.subKey c.agent (spotOf dst w j).1]
      | none => []
    skip := false
    perform := fun t d hs =>
      (t.performUnits (pnPlanes rs) (pnPlanes rd) (fun _ vs => vs.getD 0 0) d.pos hs,
       { d with wrote := d.wrote + unitBytes w unit d.pos hs.length })
    fails := fun t _ => t }

/-- lturn's work. -/
def lturnWork (s : State) (c : Cmd) : Work := movedWork s c (wordAt c.desc 2).toNat fun u => some (u, u)

/-- The innermost extent of an object and the column its address names; a scratchpad window is one row (log 69). -/
def State.columnOf (s : State) (ag : Agent) (w : Nat) (o : Word) : Nat × Nat :=
  match s.objRec ag o with
  | some r => (r.ext 0, 8 * objOff o / r.bits % r.ext 0)
  | none => (8 * 2097152 / w, 8 * objOff o / w)

/-- The work of a window of LEN columns and P1 rows; `turn` transposes it. -/
def windowWork (s : State) (c : Cmd) (turn : Bool) : Work :=
  let w := (wordAt c.desc 2).toNat
  let (xs, os) := s.columnOf c.agent (fmtBits (s.movedFmt c)) (wordAt c.desc 0)
  let (xd, od) := s.columnOf c.agent (fmtBits (s.movedFmt c)) (wordAt c.desc 1)
  movedWork s c (w * (wordAt c.desc 6).toNat) fun u =>
    let r := u / w
    let k := u % w
    let cd := if turn then r else k
    if xs ≤ os + k ∨ xd ≤ od + cd then none
    else some (r * xs + k, if turn then k * xd + r else r * xd + k)

/-! ## The conversion word (R255) -/

/-- A conversion word's fields. -/
structure Conv where
  df : Nat
  af : Nat
  bl : Nat
  rm : Rounding
  sr : Bool
  sat : Bool
  ty : Nat
  fb : Bool
  deriving DecidableEq, Repr

def parseConv (w : Word) : Conv :=
  { df := wbits w 0 4, af := wbits w 4 4, bl := blockLen (wbits w 12 2), rm := roundingOf (wbits w 14 2), sr := w.getLsbD 16
    sat := w.getLsbD 17, ty := wbits w 18 2, fb := w.getLsbD 20 }

/-- The word's zero fields are zero. -/
def convWordOk (w : Word) : Bool := wbits w 21 43 == 0 && wbits w 8 4 == 0

/-- Q4 and T2, the formats with scale bytes. -/
def blockFmt (f : Nat) : Bool := f == 9 || f == 0xE

/-- The pairs R61 to R63 define. -/
def convPair (af df : Nat) : Bool :=
  ((isInt af || isFloat af) && (isInt df || isFloat df)) || (wideFloat af && blockFmt df) || (blockFmt af && wideFloat df)

/-- Elements a block has; a conversion without scales goes element by element. -/
def Conv.block (v : Conv) : Nat := if blockFmt v.af || blockFmt v.df then v.bl else 1

/-- The code type of a format's codes under a scale byte's or command's type. -/
def codeType (f ty : Nat) : Nat := if f = 0xE then 4 else ty

/-- The generator of a command's stochastic rounding (R255). -/
def seedX (p2 : Word) : Word := BitVec.ofNat 64 (wbits p2 32 32 * 0x100000001) ^^^ 0x9E3779B97F4A7C15

/-- How element `i` of a command is rounded (R58, R255). -/
def Conv.how (v : Conv) (p2 : Word) (i : Nat) : How :=
  if v.sr && (v.df == 4 || v.df == 5 || blockFmt v.df) then .stoch (randomOf (seedX p2) i) else .rm v.rm

/-- The key of the block an element lies in: where its first and last elements lie on both sides. -/
def State.blockKey (s : State) (c : Cmd) (ws wd bl total u : Nat) : List (Nat × Nat) :=
  let first := u / bl * bl
  let last := Nat.min (first + bl) total - 1
  let at_ (o : Word) (w i : Nat) := s.subKey c.agent (spotOf o w i).1
  [at_ (wordAt c.desc 0) ws first, at_ (wordAt c.desc 0) ws last, at_ (wordAt c.desc 1) wd first, at_ (wordAt c.desc 1) wd last]

/-! ## lconv without blocks, and from blocks -/

/-- The value of a conversion's element: read as a code of AF, with its scale byte first when AF has one. -/
def Conv.value (v : Conv) (p2 : Word) (i : Nat) (vs : List Nat) : Nat :=
  if blockFmt v.af then
    let sc := vs.getD 0 0
    encodeFloat v.df (.rm v.rm) v.sat (dequantise (codeType v.af (sc / 64)) (sc % 64) (vs.getD 1 0))
  else if v.af = v.df then vs.getD 0 0
  else convert v.af v.df (v.how p2 i) v.rm v.sat (vs.getD 0 0)

/-- lconv's work for a destination without scale bytes. -/
def plainWork (s : State) (c : Cmd) (v : Conv) : Work :=
  let src := wordAt c.desc 0
  let dst := wordAt c.desc 1
  let total := (wordAt c.desc 2).toNat
  let ws := fmtBits v.af
  let wd := fmtBits v.df
  let unit (u : Nat) : Move :=
    let e := elemRead src ws u
    ⟨if blockFmt v.af then [sideRead true (wordAt c.desc 6 + BitVec.ofNat 64 (u / v.bl)) 0 8, e] else [e], [convWrite dst wd u], e.addr⟩
  { total := total
    counts := fun _ n => n
    bytes := 0
    unit := unit
    key := s.blockKey c ws wd v.block total
    skip := false
    perform := fun t d hs =>
      (t.performUnits (pnPlanes (s.objRec c.agent src)) (pnPlanes (s.objRec c.agent dst)) (v.value (wordAt c.desc 7)) d.pos hs,
       { d with wrote := d.wrote + unitBytes wd unit d.pos hs.length })
    fails := fun t _ => t }

/-! ## Outliers (R72-R74, R323) -/

/-- The exponent a block's threshold stands on, before the clamp (R73). A block whose E is 0x3F has no e1 under R57: that no
element of it is an outlier is the model's choice (log 37). -/
def BlockScale.threshold (b : BlockScale) : Option Int :=
  match b with
  | .special e => if e = 0x3F then none else some ((e : Int) - 32)
  | .exp e => some e

/-- An element is an outlier: |x| at least τ x 2^e1 (R73). -/
def isOutlier (tau : ExactNum) (e : Option Int) (x : ExactNum) : Bool :=
  match e, tau, x with
  | some e, .fin _ tm te, .fin _ m k => !(ExactNum.fin false m k).lt (.fin false tm (te + e))
  | _, _, _ => false

/-- The outlier flags of a block (R73 steps 1 and 2); without a threshold there are none. -/
def outlierFlags (ty : Nat) (sat : Bool) (tau : Option ExactNum) (xs : List ExactNum) : List Bool :=
  match tau with
  | some t => xs.map (isOutlier t (blockScale ty sat xs).threshold)
  | none => xs.map fun _ => false

/-- The scale of a block's remaining elements (R73 step 3). -/
def restScale (ty : Nat) (sat : Bool) (tau : Option ExactNum) (xs : List ExactNum) : BlockScale :=
  blockScale ty sat (((xs.zip (outlierFlags ty sat tau xs)).filter fun p => !p.2).map (·.1))

/-- The first unused entry of a row's list of `n` entries at `a` (R72). -/
def State.freeEntry (s : State) (a n : Nat) : Option Nat :=
  (List.range n).find? fun j => s.readNum (a + 8 * j + 4) 4 == 0xFFFFFFFF

/-- An outlier of element `e` of an object appended to its row's list (R73, R323), or none when the list is full. -/
def State.appendOutlier (s : State) (r : Rec) (e : Nat) (x : ExactNum) : Option State :=
  let a := r.ola + 8 * r.oln * (e / r.ext 0)
  (s.freeEntry a r.oln).map fun j =>
    s.physWrite (a + 8 * j) (toBytes 8 (e % r.ext 0 * 4294967296 + encodeFloat 7 (.rm .rne) true x))

/-- The list an outlier of element `e` goes to lies in a window whose requests are refused (R363). -/
def State.listRefused (s : State) (r : Rec) (e : Nat) : Bool :=
  r.oln != 0 && s.windowRefused (r.ola + 8 * r.oln * (e / r.ext 0))

/-- A counter of a record: `n` bytes at `a`, one more, at most its maximum (R74, R75). -/
def State.countUp (s : State) (a n : Nat) : State := s.physWrite a (toBytes n (Nat.min (s.readNum a n + 1) (256 ^ n - 1)))

/-- The physical address of an object's record, 0 when it has none. -/
def recordOf (ag : Agent) (o : Word) : Nat := (recAddr ag.tb (objNum o)).getD 0

/-- One element of a block written: its code, or an outlier's. -/
def State.quantUnit (s : State) (c : Cmd) (v : Conv) (sat : Bool) (ex i : Nat) (outlier : Bool) (x : ExactNum) : State × Nat × Bool :=
  let ty := codeType v.df v.ty
  let dst := wordAt c.desc 1
  if outlier then
    match s.objRec c.agent dst with
    | some r =>
      (match s.appendOutlier r (8 * objOff dst / r.bits + i) x with
       | some t => (t, magCode ty x.neg 0, false)
       | none => (s.countUp (recordOf c.agent dst + 4) 2, magCode ty x.neg ((magnitudes ty x.neg).length - 1), true))
    | none => (s, 0, false)
  else (s, quantise ty ex (({ v with sat := sat } : Conv).how (wordAt c.desc 7) i) x, false)

/-- The units of one block written, its scale byte with the first (R57, R73); the result says whether a list was full. -/
def State.quantBlock (s : State) (c : Cmd) (v : Conv) (sat pd : Bool) (ex i : Nat)
    (l : List ((List Hit × List Hit) × ExactNum × Bool)) (full : Bool) : State × Bool :=
  match l with
  | [] => (s, full)
  | (u, x, o) :: r =>
    let (t, code, f) := s.quantUnit c v sat ex i o x
    let t1 := match u.2 with
      | d :: _ => t.writeCode pd d code
      | [] => t
    let t2 := match u.2 with
      | _ :: sc :: _ => t1.writeHit sc (v.ty * 64 + ex)
      | _ => t1
    t2.quantBlock c v sat pd ex (i + 1) r (full || f)

/-- The blocks of a fragment's units, at most `n` of them. -/
def blocksOf {α : Type} (bl n : Nat) (us : List α) : List (List α) :=
  match n with
  | 0 => []
  | n + 1 => if us.isEmpty then [] else us.take bl :: blocksOf bl n (us.drop bl)

/-- The values of a block's elements. -/
def State.blockNums (s : State) (v : Conv) (us : List (List Hit × List Hit)) : List ExactNum :=
  us.map fun u => decodeFloat v.af (((u.1.map fun h => s.readPieces h.pieces)).getD 0 0)

/-- A block that takes part of a poisoned source taints everything it writes (R199). -/
def taintBlock (s : State) (us : List (List Hit × List Hit)) : List (List Hit × List Hit) :=
  let bad := us.find? s.srcPoison
  us.map fun u => match bad with
    | some b => (b.1, u.2)
    | none => u

/-- Every block of a fragment quantised and written. -/
def State.quantBlocks (s : State) (c : Cmd) (v : Conv) (tau : Option ExactNum) (sat pd : Bool) (i : Nat)
    (bs : List (List (List Hit × List Hit))) (full : Bool) : State × Bool :=
  match bs with
  | [] => (s, full)
  | us :: r =>
    let ty := codeType v.df v.ty
    let xs := s.blockNums v us
    let ex := (restScale ty sat tau xs).field
    let (t, f) := s.quantBlock c v sat pd ex i (us.zip (xs.zip (outlierFlags ty sat tau xs))) full
    t.quantBlocks c v tau sat pd (i + us.length) r f

/-! ## Widening (R75, R76, R324) -/

/-- The record of a widened Q4 object. -/
def Rec.widen (r : Rec) : Rec := { r with fmt := 4 }

/-- A ZERO entry has a reservation that a fill may use (R311, R318, R363). -/
def State.mayFill (s : State) (r : Rec) (e : Ent) : Bool := e.loc0 != 0 && !s.dupRefused r e.loc0 && !s.windowRefused e.loc0

/-- Sub-tile `j` of an object. -/
def State.entOf (s : State) (r : Rec) (j : Nat) : Ent := s.readEnt (r.rta + 16 * j)

/-- The object's residency table has capacity for the widening: every further sub-tile is ZERO and may be filled, and so is
every ZERO one that takes elements of a sub-tile that is not (R76, R324). That R301's limits on the widened record's size and tile
bytes deny none is the model's choice (log 17). -/
def State.canWiden (s : State) (r : Rec) : Bool :=
  r.relst != 1 && (List.range r.widen.subCount).all fun j =>
    let e := s.entOf r j
    if r.subCount ≤ j then !s.windowRefused (r.rta + 16 * j) && s.entValid r e && e.state == 1 && s.mayFill r e
    else e.state != 1 || s.mayFill r e || (s.entOf r (j / 2)).state == 1

/-- The widened record of a bit-plane object would still have a sub-tile size of R117; where not, the model has no capacity for it
(DESIGN CHOICE, log 17). -/
def Rec.widePlanes (r : Rec) : Bool := r.layout < 2 || 32768 * r.widen.bits ≤ r.subSize

/-- Every pin on the object but the command's own (R324). -/
def State.foreignPins (s : State) (c : Cmd) (r : Rec) : Nat :=
  ((List.range r.subCount).map fun j =>
    let e := r.rta + 16 * j
    s.otherPins e + s.arrayPins e - c.pins.countP fun p => p.entry == e).sum

/-- The sub-tiles a widening fills first: every further one, and a ZERO one that takes elements of one that is not. -/
def State.wideAllocs (s : State) (r : Rec) : List Alloc :=
  ((List.range r.widen.subCount).filter fun j =>
    (s.entOf r j).state == 1 && (decide (r.subCount ≤ j) || (s.entOf r (j / 2)).state != 1)).map fun j =>
      ⟨r.rta + 16 * j, r, (s.entOf r j).loc0⟩

/-- Where element `e` of an object lies, under record `w` of its table: none where its sub-tile can be neither read nor
written. -/
def State.elemHit (s : State) (w : Rec) (e : Nat) : Option Hit :=
  let t := s.entOf w (w.place e * w.bits / 8 / w.subSize)
  let at_ (mirror : Option Nat) (zero : Bool) : Hit :=
    let c := w.chunkPieces t.loc0 mirror zero (e * w.bits) w.bits
    w.hit ⟨.bytes c.1, [], [], c.2⟩
  match t.state with
  | 1 => some (at_ none true)
  | 5 => some (at_ (some t.loc1) false)
  | 0 => none
  | 6 => none
  | 7 => none
  | _ => some (at_ none false)

/-- The E4M3 code of element `e` of a Q4 object that is widened: the value of its code under its block's scale byte, which
R75 does not name and which is free, as is what a sub-tile that cannot be read gives (log 17). -/
def State.wideCode (s : State) (v : Conv) (e : Nat) (src : Option Hit) : Nat :=
  match src with
  | some h =>
    let sc := (Config.widenScale s.ticks (e / v.bl)).toNat
    encodeFloat 4 (.rm v.rm) v.sat (dequantise (codeType 9 (sc / 64)) (sc % 64) (s.readCode false e h))
  | none => (Config.widened s.ticks e).toNat

/-- Every element of a widened object, converted in place: all read before any is written (R324 step 3). -/
def State.widenElems (s t : State) (v : Conv) (r w : Rec) : State :=
  let us := (List.range r.count).filterMap fun e => (t.elemHit w e).map fun d => (e, s.elemHit r e, d)
  let u := us.foldl (fun (u : State) x => u.writeCode false x.2.2 (s.wideCode v x.1 x.2.1)) t
  s.flagUnits u (us.map fun x => (x.2.1.toList, [x.2.2]))

/-- The rows a widening reaches: the record's, the table's and the sub-tiles'. -/
def State.widenRows (s : State) (r : Rec) (ra : Nat) : List Nat :=
  ra :: (List.range r.widen.subCount).flatMap fun j => (r.rta + 16 * j) :: (s.entOf r j).rows r

/-- The widening of a command's destination, once its pins have gone (R324) and its rows let it (R107, R140), and the command that
converts again. -/
def State.widen (s : State) (e : Engine) (c : Cmd) : State :=
  let dst := wordAt c.desc 1
  let ra := recordOf c.agent dst
  match s.objRec c.agent dst with
  | none => ({ s with marks := s.marks.filter fun m => m.addr != ra || m.owner.isSome }).putCmd e { c with widening := false }
  | some r =>
    if s.foreignPins c r ≠ 0 then s
    else s.whenFree (s.widenRows r ra) <|
      let w := r.widen
      let s2 := (s.widenElems (s.allocateAll (s.wideAllocs r)) (parseConv (wordAt c.desc 5)) r w).tick
      let word := s2.readNum ra 8
      let s3 := (s2.physWrite ra (toBytes 8 (word - field word 8 4 * 256 + 4 * 256))).countUp (ra + 6) 1
      let d := { c with
        widening := false, kind := .lconv, pos := 0, progress := 0, flags := c.flags ||| 4
        desc := [wordAt c.desc 0, dst + BitVec.ofNat 64 (objOff dst), wordAt c.desc 2, wordAt c.desc 3, wordAt c.desc 4,
          setBits (wordAt c.desc 5) 0 4 4, 0, wordAt c.desc 7] }
      ({ s3 with marks := s3.marks.filter fun m => m.addr != ra || m.owner.isSome }).putCmd e d

/-- The outliers among a fragment's units, by their places. -/
def State.outliersOf (s : State) (v : Conv) (tau : Option ExactNum) (hs : List (List Hit × List Hit)) : List Nat :=
  let flags := (blocksOf v.bl hs.length hs).flatMap fun us => outlierFlags (codeType v.df v.ty) v.sat tau (s.blockNums v us)
  (List.range hs.length).filter fun i => flags.getD i false

/-- The rows a fragment's outliers reach: those of their lists, and of the record that counts what finds no room (R74, R323). -/
def State.outlierRows (s : State) (d : Cmd) (v : Conv) (tau : Option ExactNum) (hs : List (List Hit × List Hit)) : List Nat :=
  let dst := wordAt d.desc 1
  match s.objRec d.agent dst with
  | some r => match s.outliersOf v tau hs with
    | [] => []
    | is => recordOf d.agent dst :: is.flatMap fun i => rowsOf (r.ola + 8 * r.oln * ((8 * objOff dst / r.bits + d.pos + i) / r.ext 0)) (8 * r.oln)
  | none => []

/-- A fragment of a conversion to block codes: the widening it calls for, or the blocks written. Where the widening is denied,
the whole fragment converts as with SAT 1, and the fragments before it stay as written: the model's choice (log 38). -/
def State.quantPerform (s : State) (d : Cmd) (v : Conv) (tau : Option ExactNum) (wrote : Nat → Nat)
    (hs : List (List Hit × List Hit)) : State × Cmd :=
  let ty := codeType v.df v.ty
  let bs := blocksOf v.bl hs.length hs
  let dst := wordAt d.desc 1
  let rd := s.objRec d.agent dst
  let outside := v.fb && v.df == 9 && !bit d.flags 1 && bs.any fun us => (restScale ty v.sat tau (s.blockNums v us)).outOfRange
  let able := match rd with
    | some r => r.widePlanes && s.canWiden r
    | none => false
  let badList : Option Nat := rd.bind fun r => (s.outliersOf v tau hs).find? fun i =>
    s.listRefused r (8 * objOff dst / r.bits + d.pos + i)
  if let some i := badList then
    (s.recordFail d.agent ⟨7, 1, 0, 0⟩ (spotOf dst 4 (d.pos + i)).1, d.stop 7 (spotOf (wordAt d.desc 0) (fmtBits v.af) (d.pos + i)).1)
  else if outside && able then ({ s with marks := ⟨recordOf d.agent dst, none⟩ :: s.marks }, { d with widening := true })
  else
    let sat := v.sat || bit d.flags 1 || outside
    let t := s.openUnits hs
    let (u, full) := t.quantBlocks d v tau sat (pnPlanes rd) d.pos bs false
    ((t.flagUnits u (bs.flatMap (taintBlock s))).tick,
     { d with wrote := d.wrote + wrote hs.length, flags := d.flags ||| full.toNat ||| 2 * outside.toNat })

/-- The work of lconv and lconvo to Q4 or T2, with the scale array at P1. -/
def quantWork (s : State) (c : Cmd) (v : Conv) (tau : Option ExactNum) : Work :=
  let src := wordAt c.desc 0
  let dst := wordAt c.desc 1
  let total := (wordAt c.desc 2).toNat
  let ws := fmtBits v.af
  let wd := fmtBits v.df
  let unit (u : Nat) : Move :=
    let e := elemRead src ws u
    let d := convWrite dst wd u
    ⟨[e], if u % v.bl = 0 then [d, sideWrite true (wordAt c.desc 6 + BitVec.ofNat 64 (u / v.bl)) 0 8] else [d], e.addr⟩
  { total := total
    counts := fun _ n => n
    bytes := 0
    unit := unit
    key := s.blockKey c ws wd v.bl total
    skip := false
    perform := fun t d hs => t.quantPerform d v tau (fun n => unitBytes wd unit d.pos n + ceilDiv n v.bl) hs
    rows := fun t d hs => t.outlierRows d v tau hs
    fails := fun t _ => t }

/-! ## lscale and lrepl -/

/-- lscale's work: one scale byte for each block, to DST. -/
def lscaleWork (s : State) (c : Cmd) (v : Conv) : Work :=
  let src := wordAt c.desc 0
  let dst := wordAt c.desc 1
  let total := (wordAt c.desc 2).toNat
  let ws := fmtBits v.af
  let unit (u : Nat) : Move :=
    let e := elemRead src ws u
    ⟨[e], if u % v.bl = 0 then [sideWrite true (dst + BitVec.ofNat 64 (u / v.bl)) 0 8] else [], e.addr⟩
  let at_ (o : Word) (i : Nat) := s.subKey c.agent (o + BitVec.ofNat 64 i)
  { total := total
    counts := fun _ n => n
    bytes := 0
    unit := unit
    key := fun u =>
      let first := u / v.bl * v.bl
      [s.subKey c.agent (spotOf src ws first).1, s.subKey c.agent (spotOf src ws (Nat.min (first + v.bl) total - 1)).1,
       at_ dst (u / v.bl)]
    skip := false
    perform := fun t d hs =>
      let bs := blocksOf v.bl hs.length hs
      let t1 := t.openUnits hs
      let t2 := bs.foldl (fun (x : State) us => match us with
        | u :: _ => (match u.2 with
          | h :: _ => x.writeHit h (v.ty * 64 + (blockScale v.ty v.sat (t1.blockNums v us)).field)
          | [] => x)
        | [] => x) t1
      (t1.flagUnits t2 (bs.flatMap (taintBlock t)), { d with wrote := d.wrote + bs.length })
    fails := fun t _ => t }

/-- The canonical number of the element at physical position `p` of a tiled object, unless it is padding (R302). -/
def Rec.canon (r : Rec) (p : Nat) : Option Nat :=
  let area := 2 ^ (r.tw + r.th)
  let t := p / area
  let k := t % r.tilesN
  let c0 := k % r.tilesX * 2 ^ r.tw + p % area % 2 ^ r.tw
  let c1 := k / r.tilesX * 2 ^ r.th + p % area / 2 ^ r.tw
  if c0 < r.ext 0 ∧ c1 < r.ext 1 then some (t / r.tilesN * (r.ext 0 * r.ext 1) + c1 * r.ext 0 + c0) else none

/-- Elements a sub-tile has room for. -/
def Rec.subElems (r : Rec) : Nat := r.subSize * 8 / r.bits

/-- The number, in canonical order, of the first element in sub-tile `j`'s own order (R302). -/
def Rec.firstElem (r : Rec) (j : Nat) : Nat :=
  if r.layout = 1 then ((List.range r.subElems).findSome? fun i => r.canon (j * r.subElems + i)).getD 0 else j * r.subElems

/-- The object address of sub-tile `j`'s first byte; one beyond the object counts in sub-tiles. -/
def Rec.subFirst (r : Rec) (num j : Nat) : Word :=
  BitVec.ofNat 64 (num * 1099511627776 + if r.subCount ≤ j then j * r.subSize else r.firstElem j * r.bits / 8)

/-- The elements of sub-tile `j` of a tiled object. -/
def Rec.tileElems (r : Rec) (j : Nat) : List Nat := (List.range r.subElems).filterMap fun i => r.canon (j * r.subElems + i)

/-- Element `k` of sub-tile `j`, in canonical order. -/
def Rec.subElem (r : Rec) (j k : Nat) : Nat :=
  if r.layout = 1 then
    let l := r.tileElems j
    (l.find? fun x => (l.countP fun y => decide (y < x)) == k).getD r.count
  else j * r.subElems + k

/-- Bytes of the object in sub-tile `j`; a sub-tile the object does not have counts whole, and fails its check. -/
def Rec.subBytes (r : Rec) (j : Nat) : Nat :=
  if r.subCount ≤ j then r.subSize
  else if r.layout = 1 then ceilDiv ((r.tileElems j).length * r.bits) 8
  else Nat.min r.subSize (r.size - j * r.subSize)

/-- The sub-tile and the byte in it that byte `u` of `n` sub-tiles from `j` up is. -/
def Rec.locate (r : Rec) (j n u : Nat) : Nat × Nat :=
  match n with
  | 0 => (j, u)
  | n + 1 => if u < r.subBytes j then (j, u) else r.locate (j + 1) n (u - r.subBytes j)

/-- lrepl's work: bytes of each sub-tile in canonical order, in chunks of at most an element. -/
def lreplWork (s : State) (c : Cmd) : Work :=
  let src := wordAt c.desc 0
  let dst := wordAt c.desc 1
  let len := (wordAt c.desc 2).toNat
  let j0 := wbits (wordAt c.desc 6) 0 28
  let n := wbits (wordAt c.desc 6) 32 29
  let rd := s.objRec c.agent dst
  let r := rd.getD (parseRec [])
  let base : Word := BitVec.ofNat 64 (objNum dst * 1099511627776)
  let w := Nat.min 8 r.bits
  let from_ (u : Nat) : Word := src + BitVec.ofNat 64 ((r.locate j0 n u).2 % len)
  let unit (u : Nat) : Move := match rd with
    | none => ⟨[sideRead true src 0 8], [sideWrite true dst 0 8], src⟩
    | some r =>
      let (j, q) := r.locate j0 n u
      let chunk (i : Nat) : Side :=
        let p := 8 * q + i * w
        let b := r.subElem j (p / r.bits) * r.bits + p % r.bits
        sideWrite true (base + BitVec.ofNat 64 (b / 8)) (b % 8) w
      ⟨[sideRead true (from_ u) 0 8], (List.range (8 / w)).map chunk, from_ u⟩
  { total := match rd with
      | some r => ((List.range n).map fun i => r.subBytes (j0 + i)).sum
      | none => 1
    counts := fun p n => (p + n) * 8 / r.bits - p * 8 / r.bits
    bytes := 1
    unit := unit
    key := fun u => [s.subKey c.agent (from_ u), ((r.locate j0 n u).1, 0)]
    skip := false
    perform := fun t d hs =>
      let t1 := t.openUnits hs
      let t2 := hs.foldl (fun (x : State) u => match u.1 with
        | h :: _ =>
          let v := x.readCode (pnPlanes (s.objRec c.agent src)) 0 h
          u.2.zipIdx.foldl (fun (y : State) p => y.writeCode (pnPlanes rd) p.1 (v / 2 ^ (w * p.2) % 2 ^ w)) x
        | [] => x) t1
      (t1.flagUnits t2 hs, d)
    fails := fun t _ => t }

/-! ## A command's start and its work -/

/-- The formats of a command agree with its objects and with each other (R255, R256). lscale takes the formats that have a Q4
scale (log 37), and lrepl no window as DST (log 69). -/
def State.layoutFits (s : State) (c : Cmd) : Bool :=
  let src := wordAt c.desc 0
  let dst := wordAt c.desc 1
  let v := parseConv (wordAt c.desc 5)
  let same := match s.objRec c.agent src, s.objRec c.agent dst with
    | some a, some b => a.fmt == b.fmt
    | _, _ => true
  let fits := s.fmtIs c.agent src v.af && s.fmtIs c.agent dst v.df
  match c.kind with
  | .lturn => same
  | .ltile => same
  | .ltrans => same && !blockFmt (s.movedFmt c)
  | .lconv => fits && convPair v.af v.df
  | .lconvo => fits && convPair v.af v.df
  | .lscale => fits && wideFloat v.af && v.df == 0xA
  | .lrepl => !isWindow dst
  | _ => true

/-- The work of a layout command. -/
def layoutWork (s : State) (c : Cmd) : Work :=
  let v := parseConv (wordAt c.desc 5)
  match c.kind with
  | .ltile => windowWork s c false
  | .ltrans => windowWork s c true
  | .lconv => if blockFmt v.df then quantWork s c v none else plainWork s c v
  | .lconvo => quantWork s c v (some (decodeFloat 8 (wbits (wordAt c.desc 7) 0 32)))
  | .lscale => lscaleWork s c v
  | .lrepl => lreplWork s c
  | _ => lturnWork s c

/-- A turn of a layout command: its widening, its start's check, or its next fragment. -/
def State.layoutFragment (s : State) (e : Engine) (c : Cmd) : State :=
  if c.widening then s.widen e c
  else if c.pos = 0 ∧ c.finished = false ∧ s.mayRead e c ∧ s.layoutFits c = false then s.putCmd e (c.stop 4 0)
  else s.fragment e c (layoutWork s c)

/-! ## The instructions -/

/-- A layout engine command whose fields `ok` checks (R243). -/
def State.layoutCmd (s : State) (a : GReg) (kind : CmdKind) (sc : Scope) (acq rel : Bool) (ok : List Word → List Bool) : State :=
  let da := s.me.getG a
  s.withDesc da fun s ws =>
    s.withFields da (ok ws) (s.withBar (wordAt ws 3) fun p1 => s.withCrec (wordAt ws 4) 32 32 fun p2 =>
      s.handLayout fun s i =>
        newCmd i kind s.cur (s.layoutAgent da) sc acq rel ws da (p1 ++ p2) (s.afterCodes s.myDie.layoutQ acq true))

/-- LTURN (R256). -/
def execLturn (a : GReg) (sc : Scope) (acq rel : Bool) (s : State) : Host.Outcome State Fault Refusal :=
  run (fun s => s.layoutCmd a .lturn sc acq rel fun ws =>
    [true, true, true, true, true, wordAt ws 5 == 0, wordAt ws 6 == 0, wordAt ws 7 == 0]) s

/-- The fields of ltile and ltrans. -/
def windowOk (ws : List Word) : List Bool :=
  [true, true, true, true, true, wordAt ws 5 == 0, lenOk (wordAt ws 6) 4294967296, wordAt ws 7 == 0]

/-- LTILE (R256). -/
def execLtile (a : GReg) (sc : Scope) (acq rel : Bool) (s : State) : Host.Outcome State Fault Refusal :=
  run (fun s => s.layoutCmd a .ltile sc acq rel windowOk) s

/-- LTRANS (R256). -/
def execLtrans (a : GReg) (sc : Scope) (acq rel : Bool) (s : State) : Host.Outcome State Fault Refusal :=
  run (fun s => s.layoutCmd a .ltrans sc acq rel windowOk) s

/-- LCONV (R256): P1 names a scale array only for a pair that has one. -/
def execLconv (a : GReg) (sc : Scope) (acq rel : Bool) (s : State) : Host.Outcome State Fault Refusal :=
  run (fun s => s.layoutCmd a .lconv sc acq rel fun ws =>
    let v := parseConv (wordAt ws 5)
    [true, true, true, true, true, convWordOk (wordAt ws 5), blockFmt v.af || blockFmt v.df || wordAt ws 6 == 0,
     wbits (wordAt ws 7) 0 32 == 0]) s

/-- A positive FP32 value. -/
def positiveNum (x : ExactNum) : Bool := !x.isNan && !x.neg && !x.isZero

/-- LCONVO (R256, R73, R74). -/
def execLconvo (a : GReg) (sc : Scope) (acq rel : Bool) (s : State) : Host.Outcome State Fault Refusal :=
  run (fun s => s.layoutCmd a .lconvo sc acq rel fun ws =>
    [true, true, true, true, true, convWordOk (wordAt ws 5) && (parseConv (wordAt ws 5)).df == 9, true,
     positiveNum (decodeFloat 8 (wbits (wordAt ws 7) 0 32))]) s

/-- LSCALE (R256). -/
def execLscale (a : GReg) (sc : Scope) (acq rel : Bool) (s : State) : Host.Outcome State Fault Refusal :=
  run (fun s => s.layoutCmd a .lscale sc acq rel fun ws =>
    [true, true, true, true, true, convWordOk (wordAt ws 5), wordAt ws 6 == 0, wordAt ws 7 == 0]) s

/-- LREPL (R256): P1 holds j0 in [27:0] and the count in [60:32]. -/
def execLrepl (a : GReg) (sc : Scope) (acq rel : Bool) (s : State) : Host.Outcome State Fault Refusal :=
  run (fun s => s.layoutCmd a .lrepl sc acq rel fun ws =>
    let n := wbits (wordAt ws 6) 32 29
    [true, true, lenOk (wordAt ws 2) 16777216, true, true, wordAt ws 5 == 0,
     wbits (wordAt ws 6) 28 4 == 0 && wbits (wordAt ws 6) 61 3 == 0 && decide (1 ≤ n) && decide (n ≤ 268435456),
     wordAt ws 7 == 0]) s

end Sys2Proof.Machine
end

