-- ==== Sys2Proof/Machine/Fence.lean ====
section
/-! DEFINITION. Barrier instructions (R257-R259), farm and oinv (R268, R269, R308), and cache instructions (R270, R271). -/

namespace Sys2Proof.Machine

/-! ## Barrier instructions -/

/-- An access to the barrier word at ga: a failed check traps with tval := ga (R257). -/
def State.withBarrier (s : State) (a : Word) (k : State → List Piece → State) : State :=
  s.checked (s.walkBarrier (s.agentOf s.cur) s.myHolds a) a fun h =>
    if s.piecesWait h.pieces (some s.cur) then s.holdRows h.pieces (s.pinsOf h.entries)
    else k (s.opened h) h.pieces

/-- A change of the barrier word at ga, as a release where the instruction is one (R35, R258). -/
def State.barrierOp (s : State) (a : Word) (sc : Scope) (rel : Bool) (f : Bar → Bar) : State :=
  if s.releaseWaits sc rel then s.hold
  else s.withBarrier a fun t ps => (t.barChange ps f).done

/-- binit's new word (R258). -/
def Bar.init (expect : Nat) (b : Bar) : Bar :=
  { expect := expect % 4294967296, arrived := 0, failed := false, cause := 0, waiters := b.waiters, bytes := 0 }

/-- BINIT (R257, R258). -/
def execBinit (a b : GReg) (sc : Scope) (rel : Bool) (s : State) : Host.Outcome State Fault Refusal :=
  run (fun s => s.barrierOp (s.me.getG a) sc rel (Bar.init (s.me.getG b).toNat)) s

/-- BARRIVE (R257, R258): the arrival adds nothing to BYTES. -/
def execBarrive (a : GReg) (sc : Scope) (s : State) : Host.Outcome State Fault Refusal :=
  run (fun s => s.barrierOp (s.me.getG a) sc true (Bar.arrive 0)) s

/-- BFAIL (R257, R258). -/
def execBfail (a b : GReg) (sc : Scope) (s : State) : Host.Outcome State Fault Refusal :=
  run (fun s =>
    let v := s.me.getG b
    if v = 0 ∨ 255 < v.toNat then s.trap 6 v
    else s.barrierOp (s.me.getG a) sc true (Bar.fail v.toNat 0)) s

/-- The end of a released bwait: its status, or the trap of a failure that names g0 (R259). -/
def State.bwaitEnd (s : State) (d : GReg) (a : Word) (b : Bar) : State :=
  if b.failed ∧ d = 0 then s.trap 0x0F a else s.retireWith d b.status

/-- bwait, at its issue and at every turn while it waits (R259). -/
def State.bwait (s : State) (d a : GReg) : State :=
  let o := s.me.getG a
  s.withBarrier o fun t ps =>
    let b := parseBar (t.readPieces ps)
    let waiting := t.me.st == .wait
    if b.released then
      (if waiting then t.barChange ps fun x => { x with waiters := x.waiters - 1 } else t).bwaitEnd d o b
    else
      let u := if waiting then t else (t.barChange ps fun x => { x with waiters := x.waiters + 1 }).waitHere
      if u.me.preq then u.hardPreempt u.cur else u

/-- BWAIT (R257, R259). -/
def execBwait (d a : GReg) (_sc : Scope) (s : State) : Host.Outcome State Fault Refusal := run (fun s => s.bwait d a) s

/-- BTEST (R257, R259). -/
def execBtest (d a : GReg) (_sc : Scope) (_acq : Bool) (s : State) : Host.Outcome State Fault Refusal :=
  run (fun s => s.withBarrier (s.me.getG a) fun t ps => t.retireWith d (parseBar (t.readPieces ps)).status) s

/-! ## farm (R268) -/

/-- The fields of farm's descriptor. -/
def farmOk (ws : List Word) : List Bool :=
  [(wordAt ws 0).toNat % 4 == 0, wbits (wordAt ws 1) 48 16 == 0, wbits (wordAt ws 2) 32 32 != 0, true, true,
   (wordAt ws 5).toNat < 5, wordAt ws 6 == 0, wordAt ws 7 == 0]

/-- A context that strand `n`'s farm instruction may take: the first free one, when more are free than arbitration keeps for
the packets it has chosen, and no farm instruction of the die that issued earlier waits for one (R268, R277; log 54). -/
def State.strandCtx (s : State) : Option Nat :=
  let issue (x : Strand) : Nat := if x.held then x.heldAt else s.now
  let earlier := s.strands.any fun p => dieOf p.1 == dieOf s.cur && p.1 != s.cur && p.2.farmWait
    && (decide (issue p.2 < issue s.me) || (issue p.2 == issue s.me && (!s.me.held || decide (p.1 < s.cur))))
  if s.myDie.farmsUsed + s.myDie.farmsChosen < 64 && !earlier then s.myDie.freeCtx else none

/-- FARM (R268): WAIT while it may take no context of the die; BAR stays pinned. -/
def execFarm (d a : GReg) (sc : Scope) (rel : Bool) (s : State) : Host.Outcome State Fault Refusal :=
  run (fun s =>
    if s.releaseWaits sc rel then s.hold
    else
      let da := s.me.getG a
      s.withDesc da fun s ws => s.withFields da (farmOk ws) (
        s.withBarWord (wordAt ws 4) fun pins =>
          match s.strandCtx with
          | some f =>
            (s.declareFarm (dieOf s.cur) f (newFarm (wbits (wordAt ws 1) 0 48) (wbits (wordAt ws 2) 0 32)
              (wbits (wordAt ws 2) 32 32) (wordAt ws 0) (wordAt ws 3) (wordAt ws 4) (scopeCode (wordAt ws 5).toNat)
              (s.agentOf s.cur) pins)).retireWith d (BitVec.ofNat 64 f)
          | none => (s.upd fun x => { x with farmWait := true }).waitIssued ws pins)) s

/-! ## oinv (R269, R308) -/

/-- The sub-tiles an oinv names: from gb[27:0], gb[63:32] of them, 0 for all; those beyond the last stop there (R308). -/
def namedSubs (r : Rec) (b : Word) : List Nat :=
  let j0 := wbits b 0 28
  let n := wbits b 32 32
  if n = 0 then List.range r.subCount
  else (List.range (Nat.min n (r.subCount - j0))).map fun i => j0 + i

/-- The residency entries an oinv names; an object of a window kind, or an invalid record, has none. -/
def State.namedEnts (s : State) (r : Rec) (b : Word) : List Nat :=
  if s.recValid r ∧ r.kind < 2 then (namedSubs r b).map fun j => r.rta + 16 * j else []

/-- The entries whose cached copies an oinv drops: those it names, and where memory's record is invalid those of the record a
cache may still hold and of the one memory would hold with V = 1 (R308 step 4; log 18). -/
def State.droppedEnts (s : State) (ra : Nat) (b : Word) : List Nat :=
  let r := parseRec (toWords 8 (s.readBytes ra 64))
  let o := parseRec (toWords 8 (s.oldBytes (wbits s.me.asid 0 12) ra 64))
  s.namedEnts r b ++ (if s.recValid r then [] else s.namedEnts o b ++ s.namedEnts { r with v := true } b)

/-- What the agents learn when an oinv of an object retires: software has written its record or entries while V was 0 (R307),
so its sub-tiles in tier 1 are counted as its entries now stand (R318; log 57). -/
def State.learnEnts (s : State) (r : Rec) (es : List Nat) : State :=
  es.foldl (fun (t : State) e => if t.entValid r (t.readEnt e) then t.placeEnt r e (t.readEnt e) else t) s

/-- A holder still has a pin on one of the entries (R91). -/
def State.anyPinned (s : State) (es : List Nat) : Bool := es.any fun e => s.otherPins e + s.arrayPins e != 0

/-- oinv in supervisor mode, at its issue and at every turn while it waits for pins. -/
def State.invalidate (s : State) (d : GReg) (a b : Word) : State :=
  match if isWindow a then none else recAddr (s.agentOf s.cur).tb (objNum a) with
  | none => s.retireWith d 0
  | some ra =>
    let r := parseRec (toWords 8 (s.readBytes ra 64))
    let es := s.namedEnts r b
    if s.anyPinned es then
      let u := s.unmark s.cur
      ({ u with marks := (ra :: es).map (fun e => Mark.mk e (some s.cur)) ++ u.marks } : State).hold
    else
      (((s.droppedEnts ra b).foldl (fun (t : State) e => t.dropCached e 16) ((s.unmark s.cur).dropCached ra 64)).learnEnts r
        es).retireWith d 0

/-- OINV (R269). -/
def execOinv (d a b : GReg) (s : State) : Host.Outcome State Fault Refusal :=
  run (fun s => s.privileged fun s => s.invalidate d (s.me.getG a) (s.me.getG b)) s

/-! ## Caches (R270, R271) -/

/-- The canonical bytes of an object that byte `o` of its sub-tile `j` belongs to, by each element it holds; padding belongs to
none (R302). -/
def Rec.canonBytes (r : Rec) (j o : Nat) : List Nat :=
  if r.layout = 1 then (List.range (Nat.max 1 (8 / r.bits))).filterMap fun i =>
    (r.canon ((j * r.subSize + o) * 8 / r.bits + i)).map fun e => e * r.bits / 8 + o % Nat.max 1 (r.bits / 8)
  else [j * r.subSize + o]

/-- A physical line holds bytes of [off, off + n) of a sub-tile `j` at `loc`. A bit-plane sub-tile in tier 1 counts whole. -/
def Rec.lineIn (r : Rec) (j loc off n line : Nat) : Bool :=
  if isTier1 loc ∧ r.layout ≥ 2 then (r.ranges loc).any fun p => decide (p.1 ≤ 64 * line) && decide (64 * line < p.1 + p.2)
  else (List.range 64).any fun i =>
    let pa := 64 * line + i
    decide (loc ≤ pa) && decide (pa < loc + r.subSize) && (r.canonBytes j (pa - loc)).any fun c => decide (off ≤ c) && decide (c < off + n)

/-- A physical line overlaps [off, off + n) of an object. -/
def State.covers (s : State) (r : Rec) (off n line : Nat) : Bool :=
  if !s.recValid r then false
  else if r.kind = 2 then false
  else if r.kind = 3 then decide (r.rta + off < 64 * line + 64) && decide (64 * line < r.rta + off + n)
  else (List.range r.subCount).any fun j =>
    let e := s.readEnt (r.rta + 16 * j)
    (decide (2 ≤ e.state) && decide (e.state ≤ 5) && r.lineIn j e.loc0 off n line) || (e.state == 5 && r.lineIn j e.loc1 off n line)

/-- The part of [o, o + n) in the object `i` places after o's, as its record, offset and length. -/
def State.spanOf (s : State) (o : Word) (n i : Nat) : Option (Rec × Nat × Nat) :=
  let first := if i = 0 then objOff o else 0
  let len := if i = 0 then Nat.min n (1099511627776 - objOff o) else n - Nat.min n (1099511627776 - objOff o)
  (s.objRec (s.agentOf s.cur) (BitVec.ofNat 64 ((objNum o + i) * 1099511627776))).map fun r => (r, first, len)

/-- A physical line overlaps [o, o + n), which reaches into at most two objects. -/
def State.coversRange (s : State) (o : Word) (n line : Nat) : Bool :=
  (List.range 2).any fun i => match s.spanOf o n i with
    | some (r, f, l) => decide (0 < l) && s.covers r f l line
    | none => false

/-- The length check of the cache instructions, which comes first (R271). -/
def State.withLength (s : State) (b : Word) (k : State) : State := if lenOk b 1099511627776 then k else s.trap 6 b

/-- The range check of cwb and cinv: inside one object, with R or W (R271). -/
def State.withCacheRange (s : State) (o : Word) (n : Nat) (k : State) : State :=
  if isWindow o then (if 2097152 < objOff o + n then s.trap 6 o else k)
  else s.checked (s.walkRec (s.agentOf s.cur) o false s.myHolds) o fun r =>
    if r.size < objOff o + n ∨ ceilDiv (r.count * r.bits) 8 < objOff o + n then s.trap 6 o
    else if (!bit r.perm 0 && !bit r.perm 1) || (decide (2 ≤ r.kind) && !s.me.supervisor) then s.trap 8 o
    else k

/-- Dirty L1 copies of the range written to their home L2 (R271). -/
def State.writeBack (s : State) (o : Word) (n : Nat) : State :=
  { s with l2 := s.l2.filter fun p => !s.coversRange o n (p.1 / 64) }

/-- CWB (R271). -/
def execCwb (a b : GReg) (s : State) : Host.Outcome State Fault Refusal :=
  run (fun s =>
    let o := s.me.getG a
    let n := (s.me.getG b).toNat
    s.withLength (s.me.getG b) (s.withCacheRange o n (s.writeBack o n).done)) s

/-- Instruction lines of the range dropped from a core (R271). -/
def State.dropInstr (s : State) (o : Word) (n c : Nat) : State :=
  s.updCore c fun k => { k with icache := k.icache.filter fun p => !s.coversRange o n p.1 }

/-- The cores an icinv reaches: its own, those of its die, or all (R271). -/
def State.icinvCores (s : State) (sc : Scope) : List Nat :=
  match sc with
  | .strand => [coreOf s.cur]
  | .core => [coreOf s.cur]
  | .die => (List.range 32).map fun i => 32 * dieOf s.cur + i
  | _ => List.range 256

/-- CINV (R271): every cached copy in the module, those of instruction caches too. -/
def execCinv (a b : GReg) (s : State) : Host.Outcome State Fault Refusal :=
  run (fun s =>
    let o := s.me.getG a
    let n := (s.me.getG b).toNat
    s.withLength (s.me.getG b) (s.withCacheRange o n
      (let t := { s.writeBack o n with arr := s.arr.filter fun p => !s.coversRange o n (p.1 / 64) }
       ((List.range 256).foldl (fun (u : State) c => u.dropInstr o n c) t).done))) s

/-- ICINV (R271). -/
def execIcinv (a b : GReg) (sc : Scope) (s : State) : Host.Outcome State Fault Refusal :=
  run (fun s =>
    let n := (s.me.getG b).toNat
    s.withLength (s.me.getG b) ((s.icinvCores sc).foldl (fun (u : State) c => u.dropInstr (s.me.getG a) n c) s).done) s

/-- FBAR (R271): instructions are fetched one at a time, so every later one is fetched after it. -/
def execFbar (s : State) : Host.Outcome State Fault Refusal := strandOp (fun x => x) s

end Sys2Proof.Machine
end

