-- ==== Sys2Proof/Machine/Side.lean ====
section
/-! DEFINITION. Memory-side operations and store prefixes (R272, R273), and a turn of any engine command (R245). -/

namespace Sys2Proof.Machine

/-! ## mside (R272) -/

/-- Bytes of an element of an operation. -/
def sideBytes (op : Nat) : Nat := if op = 2 then 4 else 8

/-- The new element: the fill word, the wrapped sum, or the FP32 sum under RNE with SAT = 0 (R272). Of two NaNs the old DST
element's stands, as source A of R50 (log 62). -/
def sideValue (op : Nat) (fill old src : Nat) : Nat :=
  match op with
  | 0 => fill
  | 1 => (old + src) % 2 ^ 64
  | _ => encodeFloat 8 (.rm .rne) false (ExactNum.add .rne (decodeFloat 8 old) (decodeFloat 8 src))

/-- The elements of a fragment, one after another. -/
def State.sideUnits (s : State) (op fill : Nat) (us : List (List Hit × List Hit)) : State :=
  match us with
  | [] => s
  | u :: r =>
    let t := match u.2 with
      | d :: _ =>
        let src := match u.1 with
          | h :: _ => s.readPieces h.pieces
          | [] => 0
        s.writeHit d (sideValue op fill (s.readPieces d.pieces) src)
      | [] => s
    t.sideUnits op fill r

/-- The work of an mside command. -/
def sideWork (s : State) (c : Cmd) : Work :=
  let op := match c.kind with
    | .fill => 0
    | .addI64 => 1
    | _ => 2
  let n := sideBytes op
  let at_ (o : Word) (u : Nat) : Word := o + BitVec.ofNat 64 (n * u)
  let src := wordAt c.desc 0
  let dst := wordAt c.desc 1
  { total := (wordAt c.desc 2).toNat / n
    counts := fun _ m => n * m
    bytes := n
    unit := fun u => if op = 0 then ⟨[], [sideWrite false (at_ dst u) 0 64], at_ dst u⟩
      else ⟨[sideRead false (at_ src u) 0 (8 * n)], [sideWrite false (at_ dst u) 0 (8 * n)], at_ src u⟩
    key := fun u => if op = 0 then [s.subKey c.agent (at_ dst u)]
      else [s.subKey c.agent (at_ src u), s.subKey c.agent (at_ dst u)]
    skip := (wordAt c.desc 5).getLsbD 8
    perform := fun t d hs =>
      let us := if op = 0 then hs else hs.map fun u => (u.1 ++ u.2, u.2)
      let t1 := t.openUnits us
      (t1.flagUnits (t1.sideUnits op (wordAt c.desc 6).toNat hs) us, d)
    fails := fun t _ => t }

/-- The fields of mside's descriptor (R272). That P0[7:2], of which the rule says nothing, must be zero as the bits above SKIP is
the model's choice (log 39). -/
def sideOk (ws : List Word) : List Bool :=
  let op := wbits (wordAt ws 5) 0 2
  let n := sideBytes op
  [op == 0 || (wordAt ws 0).toNat % n == 0, (wordAt ws 1).toNat % n == 0, (wordAt ws 2).toNat % n == 0, true, true,
   op != 3 && wbits (wordAt ws 5) 2 6 == 0 && wbits (wordAt ws 5) 9 55 == 0, true, wordAt ws 7 == 0]

/-- The kind of command an operation is. -/
def sideKind (ws : List Word) : CmdKind :=
  match wbits (wordAt ws 5) 0 2 with
  | 0 => .fill
  | 1 => .addI64
  | _ => .addF32

/-- A command handed to the die's memory side. -/
def State.handSide (s : State) (c : Nat → Cmd) : State :=
  s.updDie (dieOf s.cur) fun d => { d with sideQ := d.sideQ ++ [c d.cmdNext], cmdNext := d.cmdNext + 1 }

/-- MSIDE (R272). -/
def execMside (a : GReg) (sc : Scope) (acq rel : Bool) (s : State) : Host.Outcome State Fault Refusal :=
  run (fun s =>
    let da := s.me.getG a
    s.withDesc da fun s ws =>
      s.withFields da (sideOk ws) (s.withBar (wordAt ws 3) fun p1 => s.withCrec (wordAt ws 4) 32 32 fun p2 =>
        if 256 ≤ s.me.posted then s.waitIssued ws (p1 ++ p2)
        else s.post fun t => t.handSide fun i =>
          newCmd i (sideKind ws) s.cur { s.agentOf s.cur with pc := da } sc acq rel ws da (p1 ++ p2)
            (s.afterCodes s.myDie.sideQ acq (scopeWide sc)))) s

/-! ## sprefix (R273) -/

/-- The check of every line of a store prefix, the first failure standing. -/
def State.prefixHits (s : State) (a : Word) (n : Nat) : Chk (List Hit) :=
  match n with
  | 0 => .ok []
  | n + 1 =>
    match s.walk (s.agentOf s.cur) .engWrite s.myHolds a 64 0 512 with
    | .fail f => .fail f
    | .wait p => .wait p
    | .ok h => match s.prefixHits (a + 64) n with
      | .ok r => .ok (h :: r)
      | x => x

/-- The first line of a store prefix whose check fails. -/
def State.prefixFail (s : State) (a : Word) (n : Nat) : Word :=
  match n with
  | 0 => a
  | n + 1 =>
    match s.walk (s.agentOf s.cur) .engWrite s.myHolds a 64 0 512 with
    | .fail _ => a
    | _ => s.prefixFail (a + 64) n

/-- Zeros and clear poison in the lines. -/
def State.prefixWrite (s : State) (hs : List Hit) : State :=
  hs.foldl (fun (t : State) h => t.flagLines [] (placesOf h.pieces)) (s.moveUnits (hs.map fun h => ([⟨.bytes [], [], [], []⟩], [h])))

/-- The command a store prefix is until it has been performed. -/
def State.prefixCmd (s : State) (a : Word) (hs : List Hit) (i : Nat) : Cmd :=
  { newCmd i .sprefix s.cur (s.agentOf s.cur) .strand false false [] a (hs.flatMap fun h => h.pins (s.agentOf s.cur).asid) []
    with finished := true }

/-- SPREFIX (R273): its lines are written when it is issued, before any later access of the strand, and it is posted until
SPREFIX_PERFORMED. -/
def execSprefix (a b : GReg) (s : State) : Host.Outcome State Fault Refusal :=
  run (fun s =>
    let o := s.me.getG a
    let n := (s.me.getG b).toNat
    if o.toNat % 64 ≠ 0 then s.trap 5 o
    else if n % 64 ≠ 0 ∨ n < 64 ∨ 16777216 < n then s.trap 5 o
    else s.checked (s.prefixHits o (n / 64)) (s.prefixFail o (n / 64)) fun hs =>
      let ps := hs.flatMap Hit.pieces
      if s.piecesWait ps (some s.cur) then s.holdRows ps (hs.flatMap fun h => h.pins (s.agentOf s.cur).asid)
      else s.post fun t => (t.prefixWrite hs).handSide fun i => s.prefixCmd o hs i) s

/-- SPREFIX_PERFORMED (R33, R273). -/
def execSprefixPerformed (d : Die) (c : Nat) (s : State) : Host.Outcome State Fault Refusal :=
  run (fun s => match s.cmd (.mside d) c with
    | some x => if x.kind = .sprefix then (s.dropCmd (.mside d) c).unpost x.sid else s
    | none => s) s

/-! ## A turn of an engine command (R245) -/

/-- The work of a command, by its kind; none where it moves bytes in events of its own (R252) or has moved them (R273). -/
def State.cmdWork (s : State) (c : Cmd) : Option Work :=
  match c.kind with
  | .ocopy => some (ocopyWork s c)
  | .ogather => some (ogatherWork s c)
  | .vsave => some (vsaveWork s c)
  | .vrest => some (vrestWork s c)
  | .vxcore => some (vxcoreWork s c)
  | .fill => some (sideWork s c)
  | .addI64 => some (sideWork s c)
  | .addF32 => some (sideWork s c)
  | .stream => none
  | .sprefix => none
  | _ => some (layoutWork s c)

/-- The next fragment of a command: a layout command's widening or check may come first. -/
def State.cmdFragment (s : State) (e : Engine) (c : Cmd) : State :=
  match e, s.cmdWork c with
  | _, none => s
  | .layout _, some _ => s.layoutFragment e c
  | _, some w => s.fragment e c w

/-- ENGINE_FRAGMENT (R245). -/
def execEngineFragment (e : Engine) (c : Nat) (s : State) : Host.Outcome State Fault Refusal :=
  run (fun s => match s.cmd e c with
    | some x => s.cmdFragment e x
    | none => s) s

end Sys2Proof.Machine
end

