-- ==== Sys2Proof/Machine/Rows.lean ====
section
/-! DEFINITION. Rows and runs of the array engine: row contents (R113-R116), row fields (R128), run registers (R123), run
faults (R142), and what a micro-op turn does before and after its own effect (R131-R133). -/

namespace Sys2Proof.Machine

/-! ## Row contents -/

/-- Lanes of a mitten row, all ones (R114). -/
def rowOnes : Nat := 2 ^ 262144 - 1

/-- The address lies in the row at `a`. -/
def inRow (a k : Nat) : Bool := decide (a ≤ k) && decide (k < a + 32768)

/-- A byte as it stands in the arrays (R106). -/
def State.rowByte (s : State) (k : Nat) : Byte := (s.arr.get none k).getD (s.mem.get memDefault k)

/-- The lanes of the row at `a`, lane i at bit i (R116). An unlisted byte of memory is zero. -/
def State.readRow (s : State) (a : Nat) : Nat :=
  let keys := (s.mem.filter fun p => inRow a p.1).map (·.1)
    ++ ((s.arr.filter fun p => inRow a p.1 && s.mem.get memDefault p.1 == memDefault).map (·.1))
  keys.foldl (fun v k => v + (s.rowByte k).toNat * 2 ^ (8 * (k - a))) 0

/-- The cells of a row's lanes at `a`, in memory's canonical form. -/
def rowCells (a v : Nat) : Sparse Byte :=
  (List.range 32768).filterMap fun i =>
    let b : Byte := BitVec.ofNat 8 (v / 2 ^ (8 * i))
    if b = memDefault then none else some (a + i, b)

/-- A row of a mitten written by the sequencer: every cached copy of it goes, and the arrays hold its lanes (R106). -/
def State.writeRow (s : State) (a v : Nat) : State :=
  { s with
    cores := s.cores.map fun p => (p.1, { p.2 with icache := p.2.icache.filter fun q => !inRow a (64 * q.1) })
    mem := (s.mem.filter fun p => decide (p.1 < a)) ++ rowCells a v ++ (s.mem.filter fun p => decide (a + 32768 ≤ p.1))
    l2 := s.l2.filter fun p => !inRow a p.1
    arr := s.arr.filter fun p => !inRow a p.1 }

/-- The 16 subarrays of a row each hold the pattern `p` (R114). -/
def perSubarray (p : Nat) : Nat := (List.range 16).foldl (fun v d => v + p * 2 ^ (16384 * d)) 0

/-- The distance of a shift (R130). -/
def shiftDist (a : Nat) : Nat := if a = 0 then 1 else if a = 1 then 16 else 1024

/-- Columns move up by `d` within each subarray, and the lowest take 0 (R130). -/
def rowShl (v d : Nat) : Nat := v * 2 ^ d &&& perSubarray (2 ^ 16384 - 2 ^ d)
/-- Columns move down by `d` within each subarray, and the highest take 0 (R130). -/
def rowShr (v d : Nat) : Nat := v / 2 ^ d &&& perSubarray (2 ^ (16384 - d) - 1)

/-- The bitwise majority (R129). -/
def majority (x y z : Nat) : Nat := (x &&& y) ||| (x &&& z) ||| (y &&& z)

/-- The complement of a row. -/
def rowNot (v : Nat) : Nat := rowOnes ^^^ v

/-- The one bits among `n` bits of a number. -/
def popcount (n v : Nat) : Nat :=
  match n with
  | 0 => 0
  | n + 1 => v % 2 + popcount n (v / 2)

/-- The lanes of accumulator `a` (R114). -/
def laneSegment (v a : Nat) : Nat := v / 2 ^ (1024 * a) % 2 ^ 1024

/-! ## Runs -/

/-- The running run in a mitten of a stack, numbered 2,560 x stack + mitten (R122). -/
def State.runAt (s : State) (m : Nat) : Option (Launch × Run) :=
  (s.die (m / 2560)).launches.findSome? fun l =>
    (l.runs.find? fun r => r.stage == .running && r.mitten == m % 2560).map fun r => (l, r)

def State.updLaunch (s : State) (d id : Nat) (f : Launch → Launch) : State :=
  s.updDie d fun x => { x with launches := x.launches.map fun l => if l.id = id then f l else l }

def Launch.setRun (l : Launch) (r : Run) : Launch := { l with runs := l.runs.map fun x => if x.index = r.index then r else x }

/-- A run of die `d` set in its launch. -/
def State.putRun (s : State) (d : Nat) (r : Run) : State := s.updLaunch d r.launch fun l => l.setRun r

/-- How a run may use a data row, over its operand sub-tiles: bit 0 reading, bit 1 writing; 0 outside them (R128). -/
def Run.access (r : Run) (row : Nat) : Nat :=
  (r.ops.filter fun o => decide (o.row ≤ row) && decide (row < o.row + o.rows)).foldl (fun a o => a ||| o.access) 0

/-- Base register `i` of a run. -/
def Run.base (r : Run) (i : Nat) : Int := (r.b.get 0 i).toInt

/-- A data row a field names may be used, or the run fault (R128). -/
def Run.dataRow (r : Run) (i : Int) (write : Bool) : Except Nat Nat :=
  if i < 0 ∨ 1007 < i then .error 2
  else
    let a := r.access i.toNat
    if a = 0 then .error 2
    else if bit a (if write then 1 else 0) then .ok i.toNat else .error 3

/-- A row field, `j` rows on, under base register `i` (R128); a row after m1 is none. A field of a data row stays one: its
`j`-th row is data row b[i] + f + j even where f + j reaches 1,008 (log 63). -/
def Run.resolve (r : Run) (f i j : Nat) (write : Bool) : Except Nat Nat :=
  if f < 1008 then r.dataRow (r.base i + f + j) write
  else if 1021 < f + j ∨ (write = true ∧ (f + j = 1018 ∨ f + j = 1019)) then .error 2
  else .ok (f + j)

/-- The row X of a field names: under b[B] (R128). -/
def Run.rowX (r : Run) (x b : Nat) (write : Bool) : Except Nat Nat := r.resolve x b 0 write
/-- The row Y: under b[B xor 1] (R128). -/
def Run.rowY (r : Run) (y b : Nat) : Except Nat Nat := r.resolve y (b ^^^ 1) 0 false

/-- The address of a data row of the run's mitten. -/
def Run.rowAt (r : Run) (stack row : Nat) : Nat := rowAddr stack r.mitten row

/-- The lanes a micro-op reads in a row, or run fault 0x01 for a compute or dual-contact row not written in the step; a
dual-contact row reads as the complement of what was written (R115, R128). -/
def State.lanes (s : State) (stack : Nat) (r : Run) (row : Nat) : Except Nat Nat :=
  if row < 1008 then .ok (s.readRow (r.rowAt stack row))
  else if row = 1018 then .ok 0
  else if row = 1019 then .ok rowOnes
  else match r.rows.get none row with
  | some v => .ok (if row = 1016 ∨ row = 1017 then rowNot v else v)
  | none => .error 1

/-- What a row holds in the columns a partial write keeps: free lanes for a row not yet written in the step (R128), which a
run and its shadow need not share. -/
def State.keptLanes (s : State) (stack : Nat) (r : Run) (row : Nat) : Nat :=
  if row < 1008 then s.readRow (r.rowAt stack row)
  else match r.rows.get none row with
  | some v => v
  | none => (Config.openRow s.ticks (2560 * row + r.mitten)).toNat

/-! ## The outcome of a micro-op -/

/-- What a micro-op does: the state beside rows and run, the run, the data rows written, the next pc, whether the step ends
with it, and whether the run does. -/
structure MicroOut where
  st : State
  run : Run
  rows : List (Nat × Nat)
  next : Nat
  boundary : Bool
  ends : Bool
  deriving DecidableEq, Repr

/-- Nothing but the advance. -/
def microOut (s : State) (r : Run) : MicroOut :=
  { st := s, run := r, rows := [], next := r.pc + 1, boundary := false, ends := false }

/-- A run fault: its code, rraise's software code, and the state with the marks that stand (R136, R142). -/
structure MicroFault where
  code : Nat
  swc : Nat
  st : State
  deriving DecidableEq, Repr

/-- A row added to a set of rows. -/
def addRow (l : List Nat) (row : Nat) : List Nat := if l.contains row then l else row :: l

/-- A row written; `whole` says in all its columns. -/
def MicroOut.put (o : MicroOut) (row v : Nat) (whole : Bool) : MicroOut :=
  if row < 1008 then
    { o with
      run := { o.run with written := addRow o.run.written row, whole := if whole then addRow o.run.whole row else o.run.whole }
      rows := (row, v) :: o.rows }
  else { o with run := { o.run with rows := o.run.rows.put none row (some v) } }

/-- A micro-op's effect, or its run fault. -/
abbrev MicroEff := State → Launch → Run → Except MicroFault MicroOut

/-- A row field's fault as a micro-op's. -/
def orFault (s : State) (e : Except Nat Nat) (k : Nat → Except MicroFault MicroOut) : Except MicroFault MicroOut :=
  match e with
  | .ok v => k v
  | .error c => .error ⟨c, 0, s⟩

/-! ## Sealing, scrub and faults -/

/-- A row of the run's mitten sealed: its ECC matches, and POISON clears when a micro-op wrote it whole (R137, R139). -/
def DieState.seal (d : DieState) (mitten row : Nat) (whole : Bool) : DieState :=
  let k := 2560 * row + mitten
  if d.rowUnsealed.get false k then
    { d with rowUnsealed := d.rowUnsealed.put false k false
             rowPoison := if whole then d.rowPoison.put false k false else d.rowPoison
             rowErrs := d.rowErrs.filter fun p => p.1 / 2048 != k }
  else d

/-- Rows of a run sealed. -/
def State.sealRows (s : State) (stack : Nat) (r : Run) (rows : List Nat) : State :=
  s.updDie stack fun d => rows.foldl (fun (x : DieState) row => x.seal r.mitten row (r.whole.contains row)) d

/-- Errors of a row's groups. -/
def DieState.errsOf (d : DieState) (k : Nat) : List (Nat × Nat) := d.rowErrs.filter fun p => p.1 / 2048 == k

/-- The single-bit errors of a row corrected and counted (R136). -/
def DieState.fixRow (d : DieState) (k : Nat) : DieState :=
  { d with cecnt := Nat.min (d.cecnt + (d.errsOf k).countP fun p => p.2 == 1) 4294967295
           rowErrs := d.rowErrs.filter fun p => !(p.1 / 2048 == k && p.2 == 1) }

/-- The scrub of a row: its single-bit errors corrected and counted, and an uncorrectable one poisons the row and is counted;
false for a row that then stands poisoned (R136). In an rcheck, whose failing row keeps no correction, `partial_` is false. -/
def State.scrubRow (s : State) (stack mitten row : Nat) (partial_ : Bool) : State × Bool :=
  let k := 2560 * row + mitten
  let d := s.die stack
  if d.rowPoison.get false k then (s, false)
  else if (d.errsOf k).any fun p => p.2 != 1 then
    (s.updDie stack fun d =>
      let e := if partial_ then d.fixRow k else d
      { e with rowPoison := e.rowPoison.put false k true, uecnt := Nat.min (e.uecnt + 1) 4294967295 }, false)
  else (s.updDie stack fun d => d.fixRow k, true)

/-- The cause of an array fault code (R142). -/
def faultCause (code : Nat) : Nat :=
  match code with
  | 3 => 8
  | 6 => 6
  | 7 => 9
  | 9 => 0x10
  | _ => 0x0E

/-- RS in bytes, and the result region's base and length (R261). -/
def Launch.stride (l : Launch) : Nat := 1024 * wbits (wordAt l.desc 1) 39 12
def Launch.regionLen (l : Launch) : Nat := 1024 * wbits (wordAt l.desc 1) 51 12
def Launch.region (l : Launch) : Word := wordAt l.desc 7

/-- The operands a run may write. -/
def Run.written? (r : Run) : List RunOp := r.ops.filter fun o => decide (2 ≤ o.access)

/-- The damage record of a run fault (R142, R387, R388). -/
def runDamage (stack : Nat) (l : Launch) (r : Run) (code swc : Nat) : Damage where
  kind := 1
  cause := faultCause code
  srck := 3
  phys := false
  asid := l.agent.asid
  opmask := (r.written?.map fun o => 2 ^ o.num).sum
  afc := code
  swc := swc
  unit := 2560 * stack + r.mitten
  aux := r.index
  addr := if l.regionLen = 0 then 0 else (l.region + BitVec.ofNat 64 (r.index * l.stride)).toNat
  len := if l.regionLen = 0 then 0 else l.stride
  pc := l.agent.pc.toNat
  desc := l.daddr.toNat

/-- An operand sub-tile of a failed run made POISONED, and its rows with it (R142). -/
def State.poisonOp (s : State) (stack : Nat) (l : Launch) (r : Run) (o : RunOp) : State :=
  let e := s.readEnt o.pin.entry
  let e' : Ent := { e with state := 6, loc1 := 0 }
  let s0 := s.needRow o.pin.entry
  let s1 := if e.state = 6 then s0
    else match s0.objRec l.agent o.addr with
    | some c => s0.writeEnt c o.pin.entry e'
    | none => s0.physWrite o.pin.entry (ofWords ({ e' with gen := e'.gen + 1 } : Ent).words)
  s1.updDie stack fun d =>
    { d with rowPoison := (List.range o.rows).foldl (fun m i => m.put false (2560 * (o.row + i) + r.mitten) true) d.rowPoison }

/-- What the end of a run frees: waits on its rows, and a shadow bank that was leaving force, in force until the last of its
shadow runs ends, those that started since the clear among them (R138, R141, R143; log 65). -/
def State.freeRun (s : State) (stack : Nat) (r : Run) : State :=
  s.updDie stack fun d =>
    let d1 := { d with lockWait := d.lockWait.filter fun p => !(p.1 % 2560 == r.mitten && decide (2 ≤ r.access (p.1 / 2560))) }
    { d1 with dupHold := d1.dupHold.filter fun b => d1.launches.any fun l => l.runs.any fun x =>
        x.stage == .running && (match x.shadow with
          | some m => m / 40 == b
          | none => false) }

/-- The data rows of the run's operands. -/
def Run.opRows (r : Run) : List Nat := r.ops.flatMap fun o => (List.range o.rows).map fun i => o.row + i

/-- The row states of rows of a mitten, sealed and without poison or errors (R139). -/
def DieState.freshRows (d : DieState) (mitten : Nat) (rows : List Nat) : DieState :=
  let gone (k : Nat) : Bool := rows.any fun row => 2560 * row + mitten == k
  { d with rowUnsealed := d.rowUnsealed.filter fun p => !gone p.1
           rowPoison := d.rowPoison.filter fun p => !gone p.1
           rowErrs := d.rowErrs.filter fun p => !gone (p.1 / 2048) }

/-- The shadow mitten's rows of the run's operands hold no defined value once it has ended (R138). -/
def State.openShadow (s : State) (stack : Nat) (r : Run) : State :=
  match r.shadow with
  | some m => (r.opRows.foldl (fun (t : State) row =>
      t.writeRow (rowAddr stack m row) (Config.openRow s.ticks (2560 * row + m)).toNat) s).updDie stack fun d => d.freshRows m r.opRows
  | none => s

/-- A run fault (R142): the run stops and the launch is marked, then the damage record, the poisoned operands, and the mitten
freed. The rows it wrote and never sealed count as sealed, with the ECC they have (log 64). -/
def State.runFault (s : State) (stack : Nat) (l : Launch) (r : Run) (code swc : Nat) : State :=
  let s0 := (s.putRun stack { r with stage := .failed, midStep := false, todo := [] }).updLaunch stack l.id fun x =>
    { x with failed := true }
  let s1 := s0.damage stack (runDamage stack l r code swc)
  let s2 := r.written?.foldl (fun (t : State) o => t.poisonOp stack l r o) s1
  let s3 := s2.updDie stack fun d =>
    { d with rowUnsealed := r.written.foldl (fun m row => m.put false (2560 * row + r.mitten) false) d.rowUnsealed }
  s3.freeRun stack r

/-- The end of a run: every unsealed row sealed (R129, R137). -/
def State.endRun (s : State) (stack : Nat) (r : Run) : State := (s.sealRows stack r r.written).freeRun stack r

/-- No step may start in the mitten's bank: a slot is due or in progress (R134). -/
def State.slotHolds (s : State) (stack mitten : Nat) : Bool :=
  let d := s.die stack
  d.refreshDue.contains (mitten / 40) || decide (s.now < d.slotEnd.get 0 (mitten / 40))

/-- An access waits for rows, one of them in the mitten and none of them locked for its holder. -/
def State.waitsAt (s : State) (stack mitten : Nat) (rows : List Nat) (holder : Option Nat) : Bool :=
  (rows.any fun a => decide (a / 137438953472 = stack) && rowKey a % 2560 == mitten) && !rows.any fun a => s.rowLocked a holder

/-- Horizontal accesses to the mitten were waiting when the step ended, for rows no lock holds (R134 item 2): a strand's, or an
agent's whose turn is put off. -/
def State.accessesWait (s : State) (stack mitten : Nat) : Bool :=
  (s.strands.any fun p => s.waitsAt stack mitten p.2.rowWait (some p.1))
    || s.waiting.any fun w => s.waitsAt stack mitten w.2 none

/-- At a step boundary of the run other work comes first, in its own mitten or in its shadow's (R134, R138). -/
def State.stepHeld (s : State) (stack : Nat) (r : Run) : Bool :=
  s.slotHolds stack r.mitten || s.accessesWait stack r.mitten || match r.shadow with
    | some m => s.slotHolds stack m || s.accessesWait stack m
    | none => false

/-- The data rows of a run's operands in a mitten, by their addresses. -/
def Run.rowsIn (r : Run) (stack mitten : Nat) : List Nat :=
  r.ops.flatMap fun o => (List.range o.rows).map fun i => rowAddr stack mitten (o.row + i)

/-- The operand rows of a run as its next step finds them: with acquire every dirty copy of their lines has been written back
to the arrays, without acquire those that have reached them by then; within a step they stand as they are (R106, R140). -/
def State.stepView (s : State) (stack : Nat) (l : Launch) (r : Run) : State :=
  if r.midStep then s
  else
    let rows := r.rowsIn stack r.mitten ++ (r.shadow.map (r.rowsIn stack)).getD []
    let back (k : Nat) : Bool := (l.acq || Config.reachedRows s.ticks (k / 64)) && rows.any fun a => inRow a k
    { s with l2 := s.l2.filter fun p => !back p.1, arr := s.arr.filter fun p => !back p.1 }

/-! ## The shadow of a duplicated run (R138) -/

/-- The run as its shadow mitten executes it. -/
def Run.twin (r : Run) (m : Nat) : Run :=
  { r with mitten := m, acc := r.twinAcc, rows := r.twinRows, shadow := none, mismatch := false }

/-- The duplicates' accumulators differ at a comparison (R138). -/
def Run.differs (r : Run) : Bool := r.shadow.isSome && (r.mismatch || r.acc != r.twinAcc)

/-- The shadow executes the micro-op as well, and its raccb writes nothing: the outcome with its accumulators and rows, and
the data rows it wrote. -/
def MicroOut.withTwin (o : MicroOut) (f : MicroEff) (s : State) (l : Launch) (r : Run) :
    Except MicroFault (MicroOut × List (Nat × Nat)) :=
  match r.shadow with
  | none => .ok (o, [])
  | some m => match f o.st l (r.twin m) with
    | .error e => .error { e with st := { e.st with log := s.log } }
    | .ok p => .ok ({ o with st := { p.st with log := o.st.log }
                             run := { o.run with twinAcc := p.run.acc, twinRows := p.run.rows } }, p.rows)

/-- The rows a micro-op wrote. -/
def State.writeRows (s : State) (stack : Nat) (r : Run) (rows : List (Nat × Nat)) : State :=
  rows.reverse.foldl (fun (t : State) p =>
    (t.writeRow (r.rowAt stack p.1) p.2).updDie stack fun d =>
      { d with rowUnsealed := d.rowUnsealed.put false (2560 * p.1 + r.mitten) true }) s

/-- The rows its shadow wrote. -/
def State.writeTwin (s : State) (stack : Nat) (r : Run) (rows : List (Nat × Nat)) : State :=
  match r.shadow with
  | some m => s.writeRows stack (r.twin m) rows
  | none => s

/-- The run after a micro-op of nominal time `ns` (R131-R133). -/
def MicroOut.after (o : MicroOut) (r : Run) (ns : Nat) : Run :=
  { o.run with
    pc := o.next, count := r.count + 1, stepNs := if o.boundary then 0 else r.stepNs + ns, midStep := !o.boundary
    stage := if o.ends then .ended else r.stage }

/-- What stops a micro-op before its effect: the broken lock at a boundary (R141), the run limit (R132), the step limit (R133),
in this order where several hold (log 63). -/
def Run.stops (r : Run) (ns : Nat) : Option Nat :=
  if !r.midStep && r.broken then some 9
  else if 16777216 ≤ r.count then some 5
  else if 1000 < r.stepNs + ns then some 4
  else none

/-- The effect of a micro-op of nominal time `ns`, or what stops it. -/
def Run.tryOp (r : Run) (ns : Nat) (f : MicroEff) (s : State) (l : Launch) : Except MicroFault MicroOut :=
  match r.stops ns with
  | some c => .error ⟨c, 0, s⟩
  | none => f s l r

/-- A run fault of the run whose turn it is, and its shadow's rows left open. -/
def State.faultRun (s t : State) (stack : Nat) (l : Launch) (r : Run) (code swc : Nat) : State :=
  (commit s (t.runFault stack l r code swc)).openShadow stack r

/-- A micro-op of the run whose turn it is, over its rows as the step finds them; at a step boundary other work goes first
(R134). -/
def microOp (ns : Nat) (f : MicroEff) (s : State) : Host.Outcome State Fault Refusal :=
  let stack := s.curRun / 2560
  match s.runAt s.curRun with
  | none => .next s
  | some (l, r) =>
    if !r.midStep && s.stepHeld stack r then .next s
    else
    let w := s.stepView stack l r
    match r.tryOp ns f w l with
    | .error e => .next (w.faultRun e.st stack l r e.code e.swc)
    | .ok o => match o.withTwin f w l r with
      | .error e => .next (w.faultRun e.st stack l r e.code e.swc)
      | .ok (o, twin) =>
        let t := ((commit w ((o.st.putRun stack (o.after r ns)).tick)).writeRows stack r o.rows).writeTwin stack r twin
        .next (if o.ends then (t.endRun stack (o.after r ns)).openShadow stack r else t)

/-! ## The sequencer's own steps (R135) -/

/-- Chores of one kind go into one step. -/
def Chore.kind (c : Chore) : Nat :=
  match c with
  | .scrub _ => 0
  | .copy _ => 1
  | .compare _ => 2
  | .sealRow _ => 3

/-- Rows a step of the kind has room for: 27 at 36 ns, or 12 at 80 ns. -/
def Chore.room (c : Chore) : Nat := if c.kind = 1 then 12 else 27

/-- The chores of the run's next step. -/
def Run.nextChores (r : Run) : List Chore :=
  match r.todo with
  | [] => []
  | c :: _ => (r.todo.takeWhile fun x => x.kind == c.kind).take c.room

/-- One row of the sequencer's own work, but for the copies' bytes; a run fault where the row is lost or the duplicates
differ (R136, R137, R138). -/
def State.chore (s : State) (stack : Nat) (r : Run) (c : Chore) : Except MicroFault State :=
  match c with
  | .scrub row => match s.scrubRow stack r.mitten row true with
    | (t, true) => .ok t
    | (t, false) => .error ⟨7, 0, t⟩
  | .copy row => .ok (match r.shadow with
    | some m => s.updDie stack fun d => d.freshRows m [row]
    | none => s)
  | .compare row =>
    let same := match r.shadow with
      | some m => !r.mismatch && s.readRow (r.rowAt stack row) == s.readRow (rowAddr stack m row)
      | none => true
    if same then .ok s else .error ⟨8, 0, s⟩
  | .sealRow row => .ok (s.sealRows stack r [row])

/-- The chores of one step, row by row. -/
def State.chores (s : State) (stack : Nat) (r : Run) (cs : List Chore) : Except MicroFault State :=
  match cs with
  | [] => .ok s
  | c :: rest => match s.chore stack r c with
    | .ok t => t.chores stack r rest
    | .error e => .error e

/-- The shadow rows that copies among chores fill (R138). -/
def State.copyRows (s : State) (stack : Nat) (r : Run) (cs : List Chore) : State :=
  match r.shadow with
  | some m => cs.foldl (fun (t : State) c => match c with
      | .copy row => t.writeRow (rowAddr stack m row) (s.readRow (r.rowAt stack row))
      | _ => t) s
  | none => s

/-- A step of the sequencer's own for the run whose turn it is: at its boundary other work and a broken lock come first, and
the last one behind rend ends the run (R134, R135, R137, R141; log 70). -/
def choreStep (s : State) : Host.Outcome State Fault Refusal :=
  let stack := s.curRun / 2560
  match s.runAt s.curRun with
  | none => .next s
  | some (l, r) =>
    if s.stepHeld stack r then .next s
    else
    let w := s.stepView stack l r
    if r.broken then .next (w.faultRun w stack l r 9 0)
    else match w.chores stack r r.nextChores with
    | .error e => .next (w.faultRun e.st stack l r e.code e.swc)
    | .ok t =>
      let left := r.todo.drop r.nextChores.length
      let done := r.ending && left.isEmpty
      let r1 := { r with todo := left, stage := if done then .ended else r.stage }
      let u := (commit w ((t.putRun stack r1).tick)).copyRows stack r r.nextChores
      .next (if done then (u.endRun stack r1).openShadow stack r else u)

end Sys2Proof.Machine
end

