-- ==== Sys2Proof/Machine/Micro.lean ====
section
/-! DEFINITION. The row micro-ops (R127-R137). -/

namespace Sys2Proof.Machine

/-- The stack whose sequencer executes. -/
def State.stackNow (s : State) : Nat := s.curRun / 2560

/-- Row X written from row Y by a function of its lanes (R129). -/
def moveRow (x y b : Nat) (f : Nat → Nat) : MicroEff := fun s _ r =>
  orFault s (r.rowX x b true) fun dst =>
    orFault s (r.rowY y b) fun src =>
      orFault s (s.lanes s.stackNow r src) fun v => .ok ((microOut s r).put dst (f v) true)

/-- Row X written with all ones or all zeros. -/
def fillRow (x b : Nat) (v : Run → Launch → Bool) : MicroEff := fun s l r =>
  orFault s (r.rowX x b true) fun dst => .ok ((microOut s r).put dst (if v r l then rowOnes else 0) true)

/-- RCOPY (R129). -/
def execRcopy (x y : BitVec 10) (b : BitVec 3) (s : State) : Host.Outcome State Fault Refusal :=
  microOp 36 (moveRow x.toNat y.toNat b.toNat fun v => v) s

/-- RNOT (R129): nA takes row Y, row X its complement. -/
def execRnot (x y : BitVec 10) (b : BitVec 3) (n : Bool) (s : State) : Host.Outcome State Fault Refusal :=
  microOp 38 (fun s _ r =>
    orFault s (r.rowX x.toNat b.toNat true) fun dst =>
      orFault s (r.rowY y.toNat b.toNat) fun src =>
        orFault s (s.lanes s.stackNow r src) fun v =>
          .ok (((microOut s r).put (1016 + n.toNat) v true).put dst (rowNot v) true)) s

/-- The rows of a majority triple (R115). -/
def tripleRows (t : Nat) : Nat × Nat × Nat :=
  match t with
  | 0 => (1008, 1009, 1010)
  | 1 => (1011, 1012, 1013)
  | _ => (1013, 1014, 1015)

/-- RMAJ (R129). -/
def execRmaj (x : BitVec 10) (b : BitVec 3) (tri : BitVec 4) (s : State) : Host.Outcome State Fault Refusal :=
  microOp 42 (fun s _ r =>
    let (i, j, k) := tripleRows tri.toNat
    orFault s (r.rowX x.toNat b.toNat true) fun dst =>
      orFault s (s.lanes s.stackNow r i) fun u =>
        orFault s (s.lanes s.stackNow r j) fun v =>
          orFault s (s.lanes s.stackNow r k) fun w =>
            let m := majority u v w
            .ok (((((microOut s r).put i m true).put j m true).put k m true).put dst m true)) s

/-- RSET (R129). -/
def execRset (x : BitVec 10) (b : BitVec 3) (v : Bool) (s : State) : Host.Outcome State Fault Refusal :=
  microOp 36 (fillRow x.toNat b.toNat fun _ _ => v) s

/-- Constant qA of a launch. -/
def Launch.const (l : Launch) (a : Nat) : BitVec 32 := l.q.getD a 0

/-- The bit rbcst takes: Y[4:0], or loop counter Y[7:6] mod 32 where Y[5] = 1 (R129). -/
def Run.bitIndex (r : Run) (y : BitVec 10) : Nat :=
  if y.getLsbD 5 then (r.l.get 0 (y.toNat / 64 % 4)).toNat % 32 else y.toNat % 32

/-- RBCST (R129). -/
def execRbcst (x y : BitVec 10) (b : BitVec 3) (q : BitVec 4) (s : State) : Host.Outcome State Fault Refusal :=
  microOp 36 (fillRow x.toNat b.toNat fun r l => (l.const q.toNat).getLsbD (r.bitIndex y)) s

/-- RMWR (R129): the whole row is written only under a mask of all ones. -/
def execRmwr (x y : BitVec 10) (b : BitVec 3) (m : Bool) (s : State) : Host.Outcome State Fault Refusal :=
  microOp 44 (fun s _ r =>
    orFault s (r.rowX x.toNat b.toNat true) fun dst =>
      orFault s (r.rowY y.toNat b.toNat) fun src =>
        orFault s (s.lanes s.stackNow r src) fun v =>
          orFault s (s.lanes s.stackNow r (1020 + m.toNat)) fun k =>
            .ok ((microOut s r).put dst ((s.keptLanes s.stackNow r dst &&& rowNot k) ||| (v &&& k)) (k == rowOnes))) s

/-- RSHL (R130). -/
def execRshl (x y : BitVec 10) (b : BitVec 3) (dist : BitVec 2) (s : State) : Host.Outcome State Fault Refusal :=
  microOp 40 (moveRow x.toNat y.toNat b.toNat fun v => rowShl v (shiftDist dist.toNat)) s

/-- RSHR (R130). -/
def execRshr (x y : BitVec 10) (b : BitVec 3) (dist : BitVec 2) (s : State) : Host.Outcome State Fault Refusal :=
  microOp 40 (moveRow x.toNat y.toNat b.toNat fun v => rowShr v (shiftDist dist.toNat)) s

/-- The 256 accumulators after `f` of each and its number. -/
def mapAccs (acc : Sparse (BitVec 32)) (f : Nat → BitVec 32 → BitVec 32) : Sparse (BitVec 32) :=
  (List.range 256).foldl (fun m a => m.put 0 a (f a (acc.get 0 a))) []

/-- Popcount-accumulate (R131). -/
def countRows (subtract : Bool) (x y b sh : Nat) : MicroEff := fun s _ r =>
  orFault s (r.rowX x b false) fun i =>
    orFault s (r.rowY y b) fun j =>
      orFault s (s.lanes s.stackNow r i) fun u =>
        orFault s (s.lanes s.stackNow r j) fun v =>
          let p (a : Nat) : BitVec 32 := BitVec.ofNat 32 (popcount 1024 (laneSegment (u &&& v) a) * 2 ^ sh)
          .ok (microOut s { r with acc := mapAccs r.acc fun a w => if subtract then w - p a else w + p a })

/-- RPCA_ADD (R131). -/
def execRpcaAdd (hi : Bool) (x y : BitVec 10) (b sh : BitVec 3) (s : State) : Host.Outcome State Fault Refusal :=
  microOp 72 (countRows false x.toNat y.toNat b.toNat (sh.toNat + 8 * hi.toNat)) s

/-- RPCA_SUB (R131). -/
def execRpcaSub (hi : Bool) (x y : BitVec 10) (b sh : BitVec 3) (s : State) : Host.Outcome State Fault Refusal :=
  microOp 72 (countRows true x.toNat y.toNat b.toNat (sh.toNat + 8 * hi.toNat)) s

/-- RACLR (R129). -/
def execRaclr (s : State) : Host.Outcome State Fault Refusal := microOp 2 (fun s _ r => .ok (microOut s { r with acc := [] })) s

/-- The accumulators as lanes: bit t of accumulator 16d + g in column 32g + t of die d (R131). -/
def accLanes (acc : Sparse (BitVec 32)) : Nat :=
  (List.range 256).foldl (fun v a => v + (acc.get 0 a).toNat * 2 ^ (16384 * (a / 16) + 32 * (a % 16))) 0

/-- The accumulators, cleared by a .clr form. -/
def Run.afterWrite (r : Run) (clr : Bool) : Run := if clr then { r with acc := [] } else r

/-- RACCW (R131): the duplicates' comparison comes before the row's check (R138; log 63). -/
def execRaccw (x : BitVec 10) (b : BitVec 3) (clr : Bool) (s : State) : Host.Outcome State Fault Refusal :=
  microOp 40 (fun s _ r =>
    if r.differs then .error ⟨8, 0, s⟩
    else orFault s (r.rowX x.toNat b.toNat true) fun dst =>
      let low := perSubarray (2 ^ 512 - 1)
      .ok ((microOut s (r.afterWrite clr)).put dst ((s.keptLanes s.stackNow r dst &&& rowNot low) ||| accLanes r.acc) false)) s

/-- The scratchpad byte a window address names on a die (R79, R80). -/
def windowByte (d : Nat) (o : Word) : Nat := scratchAddr (32 * d + (objNum o - 0xFFFFE0)) (objOff o)

/-- RACCB (R131): the duplicates' comparison comes before the region's check (R138; log 63). -/
def execRaccb (y : BitVec 10) (b : BitVec 3) (clr : Bool) (s : State) : Host.Outcome State Fault Refusal :=
  microOp 40 (fun s l r =>
    if r.differs then .error ⟨8, 0, s⟩
    else
      let slot := r.base b.toNat + y.toNat
      let off := r.index * l.stride + 1024 * slot.toNat
      if slot < 0 ∨ l.regionLen < off + 1024 then .error ⟨6, 0, s⟩
      else
        let bs := (List.range 256).flatMap fun a => toBytes 4 (r.acc.get 0 a).toNat
        let t := s.storeBytes .l2 (windowByte s.stackNow (l.region + BitVec.ofNat 64 off)) bs
        .ok (microOut t { (r.afterWrite clr) with sent := r.sent + 1024 })) s

/-- A loop counter loaded. -/
def loadCounter (a : BitVec 2) (v : Launch → BitVec 32) : MicroEff := fun s l r =>
  .ok (microOut s { r with l := r.l.put 0 a.toNat (v l) })

/-- RLDL (R129). -/
def execRldl (y : BitVec 10) (a : BitVec 2) (s : State) : Host.Outcome State Fault Refusal :=
  microOp 2 (loadCounter a fun _ => y.setWidth 32) s

/-- RLDL_Q (R129). -/
def execRldlQ (q : BitVec 4) (a : BitVec 2) (s : State) : Host.Outcome State Fault Refusal :=
  microOp 2 (loadCounter a fun l => l.const q.toNat) s

/-- RLOOP (R131). -/
def execRloop (x : BitVec 10) (a : BitVec 2) (s : State) : Host.Outcome State Fault Refusal :=
  microOp 2 (fun s _ r =>
    let v := r.l.get 0 a.toNat
    let w := if v = 0 then v else v - 1
    let o := microOut s { r with l := r.l.put 0 a.toNat w }
    .ok (if w = 0 then o else { o with next := x.toNat })) s

/-- A branch on a bit of a constant. -/
def branchBit (x i q : Nat) (want : Bool) : MicroEff := fun s l r =>
  let o := microOut s r
  .ok (if (l.const q).getLsbD i == want then { o with next := x } else o)

/-- RBT_SET (R129). -/
def execRbtSet (x : BitVec 10) (i : BitVec 5) (q : BitVec 4) (s : State) : Host.Outcome State Fault Refusal :=
  microOp 2 (branchBit x.toNat i.toNat q.toNat true) s

/-- RBT_CLR (R129). -/
def execRbtClr (x : BitVec 10) (i : BitVec 5) (q : BitVec 4) (s : State) : Host.Outcome State Fault Refusal :=
  microOp 2 (branchBit x.toNat i.toNat q.toNat false) s

/-- A base register written, wrapped to 16 bits (R123). -/
def Run.setBase (r : Run) (b : Nat) (i : Int) : Run := { r with b := r.b.put 0 b (BitVec.ofInt 16 i) }

/-- The row base of operand `n`'s sub-tile (R123), when it is present. -/
def Run.opBase (r : Run) (n : Nat) : Option Nat := (r.ops.find? fun o => o.num == n).map fun o => o.row

/-- RBSET (R129). -/
def execRbset (k : BitVec 10) (b : BitVec 3) (op : BitVec 2) (s : State) : Host.Outcome State Fault Refusal :=
  microOp 2 (fun s _ r =>
    .ok (microOut s (r.setBase b.toNat (match r.opBase op.toNat with
      | some base => (base + k.toNat : Nat)
      | none => 0)))) s

/-- RBSET_K (R129). -/
def execRbsetK (k : BitVec 10) (b : BitVec 3) (s : State) : Host.Outcome State Fault Refusal :=
  microOp 2 (fun s _ r => .ok (microOut s (r.setBase b.toNat k.toNat))) s

/-- RBSTEP (R129). -/
def execRbstep (k : BitVec 10) (b : BitVec 3) (s : State) : Host.Outcome State Fault Refusal :=
  microOp 2 (fun s _ r => .ok (microOut s (r.setBase b.toNat (r.base b.toNat + k.toInt)))) s

/-- Rows X to X + count - 1, resolved, or the first one's fault (R129). -/
def Run.rowRange (r : Run) (x b n : Nat) (write : Bool) : Except Nat (List Nat) :=
  match n with
  | 0 => .ok []
  | n + 1 => match r.rowRange x b n write with
    | .error c => .error c
    | .ok l => match r.resolve x b n write with
      | .error c => .error c
      | .ok row => .ok (l ++ [row])

/-- RSEAL (R129, R137). -/
def execRseal (x : BitVec 10) (b : BitVec 3) (cnt : BitVec 4) (s : State) : Host.Outcome State Fault Refusal :=
  microOp (36 * (cnt.toNat + 1)) (fun s _ r =>
    match r.rowRange x.toNat b.toNat (cnt.toNat + 1) true with
    | .error c => .error ⟨c, 0, s⟩
    | .ok rows => .ok (microOut (s.sealRows s.stackNow r (rows.filter (· < 1008))) r)) s

/-- The check of rows in ascending order: an unsealed row is to be sealed, another is scrubbed; `none` once a row stands
poisoned (R136). -/
def State.checkRows (s : State) (stack : Nat) (r : Run) (rows : List Nat) : State × Bool :=
  match rows with
  | [] => (s, true)
  | row :: rest =>
    if (s.die stack).rowUnsealed.get false (2560 * row + r.mitten) then s.checkRows stack r rest
    else match s.scrubRow stack r.mitten row false with
      | (t, true) => t.checkRows stack r rest
      | (t, false) => (t, false)

/-- RCHECK (R129, R136). -/
def execRcheck (x : BitVec 10) (b : BitVec 3) (cnt : BitVec 4) (s : State) : Host.Outcome State Fault Refusal :=
  microOp (36 * (cnt.toNat + 1)) (fun s _ r =>
    match r.rowRange x.toNat b.toNat (cnt.toNat + 1) false with
    | .error c => .error ⟨c, 0, s⟩
    | .ok rows =>
      let rows := rows.filter (· < 1008)
      match s.checkRows s.stackNow r rows with
      | (t, false) => .error ⟨7, 0, t⟩
      | (t, true) => .ok (microOut (t.sealRows t.stackNow r rows) r)) s

/-- A step boundary: compute and dual-contact rows become invalid (R133). -/
def Run.boundary (r : Run) : Run := { r with rows := r.rows.filter fun p => decide (1018 ≤ p.1) }

/-- RWAIT (R129, R133). -/
def execRwait (s : State) : Host.Outcome State Fault Refusal :=
  microOp 0 (fun s _ r => .ok { microOut s r.boundary with boundary := true }) s

/-- The steps behind rend: every row the run wrote compared with its shadow's, and every unsealed one sealed (R135, R137,
R138). -/
def State.endChores (s : State) (stack : Nat) (r : Run) : List Chore :=
  let rows := (List.range 1008).filter fun row => r.written.contains row
  (if r.shadow.isSome then rows.map Chore.compare else [])
    ++ (rows.filter fun row => (s.die stack).rowUnsealed.get false (2560 * row + r.mitten)).map Chore.sealRow

/-- REND (R129, R135, R137): a lock that has broken stops the run at this boundary (R141); where rows are left to be compared
or sealed, the run ends when they have been. -/
def execRend (s : State) : Host.Outcome State Fault Refusal :=
  microOp 2 (fun s _ r =>
    if r.broken then .error ⟨9, 0, s⟩
    else
      let cs := s.endChores s.stackNow r
      .ok { microOut s { r.boundary with todo := cs, ending := true } with boundary := true, ends := cs.isEmpty }) s

/-- RRAISE (R129, R142): run fault 0x0A carries k in its damage record. -/
def execRraise (k : BitVec 8) (s : State) : Host.Outcome State Fault Refusal :=
  microOp 2 (fun s _ _ => .error ⟨0x0A, k.toNat, s⟩) s

end Sys2Proof.Machine
end

