-- ==== Sys2Proof/Machine/Array.lean ====
section
/-! DEFINITION. Array launches and row locks: alaunch, alock, aunlock, afence (R120-R126, R261-R263), and the array
sequencer's own acts (R121, R125, R126, R134, R138-R143). -/

namespace Sys2Proof.Machine

/-! ## alaunch (R124, R261) -/

/-- An operand word of the descriptor: object number, access and f(n). -/
def opObj (w : Word) : Nat := wbits w 40 24
def opAccess (w : Word) : Nat := wbits w 38 2
def opFirst (w : Word) : Nat := wbits w 0 28

/-- The fields of alaunch's descriptor (R261). RB is a window address, and 0 where RLK = 0 (log 74). -/
def launchOk (ws : List Word) : List Bool :=
  let w1 := wordAt ws 1
  let op (n : Nat) : Bool := wbits (wordAt ws (2 + n)) 28 10 == 0 && (n != 0 || opAccess (wordAt ws 2) != 0)
  [(wordAt ws 0).toNat % 4 == 0,
   decide (1 ≤ wbits w1 0 12) && decide (wbits w1 0 12 ≤ 2560) && decide (wbits w1 29 10 ≤ 768) && decide (wbits w1 51 12 ≤ 2048)
     && !w1.getLsbD 63,
   op 0, op 1, op 2, op 3, true, if wbits w1 51 12 = 0 then wordAt ws 7 == 0 else isWindow (wordAt ws 7)]

/-- The constant register a descriptor names. -/
def launchReg (ws : List Word) : VReg := Fin.ofNat 64 (wbits (wordAt ws 1) 22 6)

/-- q0-q15: elements 0 to 15 of the register read as U64; a strand without lane groups supplies zeros (R124). -/
def State.constants (s : State) (ws : List Word) : List (BitVec 32) :=
  if s.groups s.cur = 0 then List.replicate 16 0
  else (List.range 16).map fun j => BitVec.ofNat 32 (s.me.elem (launchReg ws) 0xD j)

/-- The first of those elements that is poisoned. -/
def State.constantPoison (s : State) (ws : List Word) : Option Nat :=
  if s.groups s.cur = 0 then none else (List.range 16).find? fun j => s.me.elemPoison (launchReg ws) 0xD j

/-- A launch as alaunch hands it over. -/
def newLaunch (id sid : Nat) (ag : Agent) (sc : Scope) (acq rel : Bool) (ws : List Word) (da : Word) (q : List (BitVec 32))
    (after : List Nat) (pins : List Pin) : Launch where
  id := id
  sid := sid
  agent := ag
  scope := sc
  acq := acq
  rel := rel
  desc := ws
  daddr := da
  q := q
  after := after
  accepted := false
  mprog := []
  runs := []
  pins := pins
  failed := false

/-- Launches of a die that wait for acceptance: the queue of R121. -/
def DieState.queuedLaunches (d : DieState) : Nat := d.launches.countP fun l => !l.accepted

/-- Step 3 of R243 for a launch, whose pin counts as an array launch's (R309). -/
def State.withLaunchBar (s : State) (a : Word) (k : List Pin → State) : State :=
  if s.me.issued ≠ [] then k s.me.pins
  else s.checked (s.walk (s.agentOf s.cur) { Acc.barrier with array := true } s.myHolds a 64 0 512) a fun h =>
    k (h.pins (s.agentOf s.cur).asid)

/-- The constants, once a vrest has restored their register (R124, R249), then the post. -/
def State.postLaunch (s : State) (da : Word) (sc : Scope) (acq rel : Bool) (ws : List Word) (pins : List Pin) : State :=
  if s.restorePending s.cur [.v (launchReg ws).val] then s.hold
  else match s.constantPoison ws with
  | some j => s.consume (.mask 0 []) j
  | none =>
    if 256 ≤ s.me.posted then s.waitHere
    else
      let ag := s.agentOf s.cur
      let after := if acq then s.postedCodes s.cur else []
      s.post fun t => t.updDie (dieOf s.cur) fun d =>
        { d with launches := d.launches ++ [newLaunch d.launchNext s.cur ag sc acq rel ws da (s.constants ws) after pins]
                 launchNext := d.launchNext + 1 }

/-- ALAUNCH (R261): R243's steps, the constants, then the post. -/
def execAlaunch (a : GReg) (sc : Scope) (acq rel : Bool) (s : State) : Host.Outcome State Fault Refusal :=
  run (fun s =>
    let da := s.me.getG a
    s.withDesc da fun s ws =>
      s.withFields da (launchOk ws) (s.withLaunchBar (wordAt ws 6) fun pins =>
        if 1024 ≤ s.myDie.queuedLaunches then s.waitIssued ws pins
        else (s.upd fun x => { x with issued := ws, pins := pins }).postLaunch da sc acq rel ws pins)) s

/-! ## alock, aunlock, afence (R108, R262, R263) -/

/-- The record of the object alock names, or the failure of its own checks: A, and a plain object (R89, R262). -/
def State.lockRec (s : State) (o : Word) : Chk Rec :=
  if isWindow o then .fail (.plain (if 2097152 ≤ objOff o then 6 else 8))
  else match s.walkRec (s.agentOf s.cur) o false s.myHolds with
  | .ok r =>
    if ceilDiv (r.count * r.bits) 8 ≤ objOff o then .fail (.plain 6)
    else if !bit r.perm 3 || r.kind != 0 then .fail (.plain 8)
    else .ok r
  | .fail f => .fail f
  | .wait p => .wait p

/-- The (mitten, row) pairs of a sub-tile at a tier-1 location (R116, R117). -/
def lockRows (r : Rec) (loc : Nat) : List (Nat × Nat) :=
  (r.ranges loc).flatMap fun p => (List.range ((p.1 + p.2 - 1) / 32768 - p.1 / 32768 + 1)).map fun i =>
    let k := rowKey p.1 + i
    (k % 2560, k / 2560)

/-- The sub-tile an object address lies in (R302). -/
def Rec.subOf (r : Rec) (o : Word) : Nat := (r.place (8 * objOff o / r.bits) * r.bits + 8 * objOff o % r.bits) / 8 / r.subSize

/-- What alock's check of its sub-tiles gives: the stack and the rows, the failure with its tval, or what it waits for
(R262, R310). -/
def State.lockSubs (s : State) (r : Rec) (num j n : Nat) (stack : Option Nat) :
    Except (Except Await (Fail × Word)) (Nat × List (Nat × Nat)) :=
  match n with
  | 0 => .ok (stack.getD 0, [])
  | n + 1 =>
    let first := r.subFirst num j
    let ea := r.rta + 16 * j
    if r.subCount ≤ j then .error (.ok (.plain 6, first))
    else if s.windowRefused ea then .error (.ok (⟨7, 0, 0, j⟩, first))
    else if s.rowWaits ea (some s.cur) then .error (.error (.row ea))
    else
      let e := s.walkedEnt r (s.agentOf s.cur).asid ea
      let st := e.loc0 / 137438953472
      if !s.entValid r e then .error (.ok (⟨8, 8, e.state, j⟩, first))
      else if s.marked r ea s.myHolds then .error (.error .mark)
      else if e.state ≠ 2 ∨ st ≠ stack.getD st then .error (.ok (⟨7, 0, e.state, j⟩, first))
      else match s.lockSubs r num (j + 1) n (some st) with
        | .error x => .error x
        | .ok (k, rows) => .ok (k, lockRows r e.loc0 ++ rows)

/-- An alock entry of a stack. -/
def DieState.alock (d : DieState) (i : Nat) : ALock := d.alocks.get ALock.free i
def DieState.setAlock (d : DieState) (i : Nat) (a : ALock) : DieState := { d with alocks := d.alocks.put ALock.free i a }

/-- Strand `n` waits in an alock: major 0x73, function 1 (R262). -/
def State.inAlock (s : State) (n : Nat) : Bool :=
  (s.strand n).held && field (s.strand n).iw.toNat 25 7 == 0x73 && field (s.strand n).iw.toNat 0 5 == 1

/-- Entry `i` of a stack is free: no strand has it, and none that still waits for its rows has taken it (R139, R262). -/
def State.alockFree (s : State) (stack i : Nat) : Bool :=
  match ((s.die stack).alock i).holder with
  | none => true
  | some n => ((s.die stack).alock i).rows.isEmpty && !s.inAlock n

/-- The entry the strand whose turn it is has taken while it waits for its rows, or the first free one with its generation
advanced (R139, R262). -/
def State.alockEntry (s : State) (stack : Nat) : Option (Nat × BitVec 32) :=
  let d := s.die stack
  match (List.range 256).find? fun i => s.me.held && (d.alock i).holder == some s.cur && (d.alock i).rows.isEmpty with
  | some i => some (i, (d.alock i).gen)
  | none => ((List.range 256).find? (s.alockFree stack)).map fun i => (i, (d.alock i).gen + 1)

/-- A row is held by a run or another strand's alock (R262). -/
def State.rowHeld (s : State) (stack : Nat) (p : Nat × Nat) : Bool := s.rowLocked (rowAddr stack p.1 p.2) (some s.cur)

/-- The waits alock's rows begin (R141). -/
def State.noteRows (s : State) (stack : Nat) (rows : List (Nat × Nat)) : State :=
  rows.foldl (fun (t : State) p => t.noteWait (rowAddr stack p.1 p.2) (some s.cur)) s

/-- Entry `i` taken by the strand whose turn it is; it lists no rows while they are waited for (R262). -/
def State.takeEntry (s : State) (stack i : Nat) (g : BitVec 32) (rows : List (Nat × Nat)) : State :=
  s.updDie stack fun x =>
    x.setAlock i { gen := g, holder := some s.cur, mitten := (rows.head?.map (·.1)).getD 0, rows := rows, pins := [] }

/-- alock's rows held, and its handle (R262). -/
def State.takeLock (s : State) (d : GReg) (stack i : Nat) (g : BitVec 32) (rows : List (Nat × Nat)) : State :=
  (s.takeEntry stack i g rows).retireWith d (BitVec.ofNat 64 (i + stack * 256 + g.toNat * 65536))

/-- ALOCK (R262): it takes an entry, for which it waits in WAIT, and then waits for its rows. -/
def execAlock (d a b : GReg) (s : State) : Host.Outcome State Fault Refusal :=
  run (fun s =>
    let o := s.me.getG a
    let n := s.me.getG b
    if n = 0 ∨ 16 < n.toNat then s.trap 6 n
    else s.checked (s.lockRec o) o fun r =>
      match s.lockSubs r (objNum o) (r.subOf o) n.toNat none with
      | .error (.ok (f, t)) => s.trapFail f t
      | .error (.error w) => s.holdFor w
      | .ok (stack, rows) =>
        match s.alockEntry stack with
        | none => s.waitHere
        | some (i, g) =>
          if rows.any (s.rowHeld stack) then ((s.noteRows stack rows).takeEntry stack i g []).hold
          else s.takeLock d stack i g rows) s

/-- An alock entry freed, and the waits on its rows with it. -/
def DieState.freeLock (d : DieState) (i : Nat) : DieState :=
  let a := d.alock i
  { (d.setAlock i { a with holder := none, mitten := 0, rows := [], pins := [] }) with
    lockWait := d.lockWait.filter fun p => !a.rows.contains (p.1 % 2560, p.1 / 2560) }

/-- AUNLOCK (R263): every earlier access of the strand has performed when it executes. -/
def execAunlock (a : GReg) (s : State) : Host.Outcome State Fault Refusal :=
  run (fun s =>
    let w := s.me.getG a
    let i := wbits w 0 8
    let st := wbits w 8 3
    let e := (s.die st).alock i
    if wbits w 11 5 ≠ 0 ∨ wbits w 48 16 ≠ 0 ∨ e.holder ≠ some s.cur ∨ e.gen.toNat ≠ wbits w 16 32 then s.trap 0x10 w
    else (s.updDie st fun d => d.freeLock i).done) s

/-- AFENCE (R108, R263). -/
def execAfence (s : State) : Host.Outcome State Fault Refusal :=
  run (fun s => if s.myDie.launches.any fun l => l.sid == s.cur then s.hold else s.done) s

/-! ## Acceptance (R121, R132) -/

/-- A row field read; one written. -/
def rowFieldR (f : Nat) : Bool := decide (f < 1022)
def rowFieldW (f : Nat) : Bool := decide (f < 1018) || f == 1020 || f == 1021

/-- A micro-op word is valid in a program of `n` words (R132). -/
def microOk (n w : Nat) : Bool :=
  let x := field w 17 10
  let y := field w 7 10
  let b := field w 4 3
  let aux := field w 0 4
  match w / 134217728 with
  | 0x01 => rowFieldW x && rowFieldR y && aux == 0
  | 0x02 => rowFieldW x && x != 1016 && x != 1017 && rowFieldR y && decide (aux < 2)
  | 0x03 => rowFieldW x && y == 0 && decide (aux < 3)
  | 0x04 => rowFieldW x && y == 0 && decide (aux < 2)
  | 0x05 => rowFieldW x && (if bit y 5 then y % 32 == 0 && decide (y < 256) else decide (y < 32))
  | 0x06 => rowFieldW x && rowFieldR y && decide (aux < 2)
  | 0x07 => rowFieldW x && rowFieldR y && decide (aux < 8) && aux % 4 != 3
  | 0x08 => rowFieldR x && rowFieldR y
  | 0x09 => rowFieldR x && rowFieldR y
  | 0x0A => x == 0 && y == 0 && b == 0 && aux == 0
  | 0x0B => rowFieldW x && y == 0 && decide (aux < 2)
  | 0x0C => x == 0 && decide (aux < 2)
  | 0x0D => x == 0 && b == 0 && (decide (aux < 4) || (decide (aux < 8) && decide (y < 16)))
  | 0x0E => decide (x < n) && y == 0 && b == 0 && decide (aux < 4)
  | 0x0F => decide (x < n) && b == 0 && decide (y < 64)
  | 0x10 => y == 0 && (decide (aux < 4) || aux == 4)
  | 0x11 => y == 0 && aux == 0
  | 0x12 => rowFieldR x && y == 0
  | 0x13 => rowFieldR x && y == 0
  | 0x14 => x == 0 && y == 0 && b == 0 && aux == 0
  | 0x15 => x == 0 && y == 0 && b == 0 && aux == 0
  | 0x16 => x == 0 && b == 0 && aux == 0 && decide (y < 256)
  | _ => false

/-- What the microprogram needs: R and X, LINEAR or TILED, no device memory (R120). -/
def Acc.microprogram : Acc := ⟨[0, 2], false, false, false, false, true⟩

/-- What a stage of acceptance gives: it waits, it refuses the launch with what the damage record says (the failing check, the
array fault code, the run index, the range) or it passes. -/
inductive Accept (α : Type) where
  | wait (w : Await)
  | refuse (f : Fail) (afc i : Nat) (addr : Word) (len : Nat) (at_ : Word)
  | ok (a : α)
  deriving DecidableEq, Repr

/-- Words of a microprogram left to be read. -/
def Launch.words (l : Launch) : Nat := wbits (wordAt l.desc 1) 12 10 + 1

/-- The agent of a launch as its fault records name it (R320). -/
def Launch.faultAgent (l : Launch) (stack : Nat) : Agent := { l.agent with source := 5, unit := stack, pc := l.daddr }

/-- The entries a launch has pinned: its barrier word's. -/
def Launch.holds (l : Launch) : List Nat := l.pins.map (·.entry)

/-- The address of word `k` of a launch's microprogram. -/
def Launch.wordAddr (l : Launch) (k : Nat) : Word := wordAt l.desc 0 + BitVec.ofNat 64 (4 * k)

/-- The checks of a microprogram's words, `n` of them from word `k` on, up to the first that fails or waits (R121 step 1). -/
def State.scanMicro (s : State) (l : Launch) (k n : Nat) : List (List Piece) × Option (Except Await Fail) :=
  match n with
  | 0 => ([], none)
  | n + 1 =>
    match s.walk l.agent .microprogram l.holds (l.wordAddr k) 4 0 32 with
    | .wait w => ([], some (.error w))
    | .fail f => ([], some (.ok f))
    | .ok h =>
      let r := s.scanMicro l (k + 1) n
      (h.pieces :: r.1, r.2)

/-- Step 2 of acceptance: the duplicate pool and the result region. -/
def State.acceptPool (s : State) (stack : Nat) (l : Launch) : Option (Accept (List Run)) :=
  let dup := (wordAt l.desc 1).getLsbD 28 || (s.die stack).dupall
  if dup ∧ (s.die stack).dupact = 0 then some (.refuse (.plain 0x0E) 0x0E 0 0 0 0)
  else if l.regionLen ≠ 0 ∧ (!isWindow l.region ∨ 2097152 < objOff l.region + l.regionLen) then
    some (.refuse (.plain 8) 0x0D 0 l.region l.regionLen l.region)
  else none

/-- The sub-tile of operand `n` for run `i` (R121). The checks on the record (0x08) come before the one on its index (0x06), as
R121's table lists them (log 41). -/
def State.acceptOp (s : State) (stack : Nat) (l : Launch) (n i : Nat) (mitten : Option Nat) : Accept (RunOp × Nat) :=
  let w := wordAt l.desc (2 + n)
  let acc := opAccess w
  let wr := (bit acc 1).toNat
  let base : Word := BitVec.ofNat 64 (opObj w * 1099511627776)
  let j := opFirst w + i
  if opObj w = 0 ∨ isWindow base then .refuse (.plain 8) 0x0D i base 0 base
  else match s.walkRec l.agent base (bit acc 1) l.holds with
  | .wait w => .wait w
  | .fail f => .refuse f 0x0D i base 0 base
  | .ok r =>
    let a : Word := base + BitVec.ofNat 64 (j * r.subSize)
    let no (f : Fail) : Accept (RunOp × Nat) := .refuse f 0x0D i a r.subSize a
    if r.kind ≠ 0 ∨ r.layout < 2 ∨ !bit r.perm 3 ∨ (bit acc 0 = true ∧ !bit r.perm 0) ∨ (bit acc 1 = true ∧ !bit r.perm 1) then
      no (.plain 8)
    else if r.subCount ≤ j then no (.plain 6)
    else
      let ea := r.rta + 16 * j
      let e := s.walkedEnt r l.agent.asid ea
      if s.windowRefused ea then no ⟨7, wr, 0, j⟩
      else if s.rowWaits ea none then .wait (.row ea)
      else if !s.entValid r e then no ⟨8, 8 + wr, e.state, j⟩
      else if s.marked r ea l.holds || s.swapPending ea || e.state == 5 then .wait .mark
      else if s.pinsFull true ea && !l.holds.contains ea then .wait .pin
      else if e.state = 6 then no ⟨9, wr, 6, j⟩
      else if e.state ≠ 2 ∨ e.loc0 / 137438953472 ≠ stack then no ⟨7, wr, e.state, j⟩
      else
        let m := rowKey e.loc0 % 2560
        if m ≠ mitten.getD m then no (.plain 0x0E)
        else .ok (⟨n, acc, ⟨ea, l.agent.asid⟩, a, r.subSize, rowKey e.loc0 / 2560, r.subSize / 32768⟩, m)

/-- The operands of run `i`, from number `n` on, with operand 0's mitten. -/
def State.acceptRun (s : State) (stack : Nat) (l : Launch) (i : Nat) (ns : List Nat) (mitten : Option Nat) :
    Accept (List RunOp × Nat) :=
  match ns with
  | [] => .ok ([], mitten.getD 0)
  | n :: rest =>
    if opAccess (wordAt l.desc (2 + n)) = 0 then s.acceptRun stack l i rest mitten
    else match s.acceptOp stack l n i mitten with
    | .wait w => .wait w
    | .refuse f afc i a len at_ => .refuse f afc i a len at_
    | .ok (o, m) =>
      match s.acceptRun stack l i rest (some m) with
      | .ok (os, m) => .ok (o :: os, m)
      | x => x

/-- A run as acceptance makes it; its registers are set when it starts (R123). -/
def newRun (launch index mitten : Nat) (ops : List RunOp) : Run where
  launch := launch
  index := index
  mitten := mitten
  shadow := none
  ops := ops
  stage := .waiting
  pc := 0
  b := []
  l := []
  acc := []
  rows := []
  stepNs := 0
  count := 0
  written := []
  whole := []
  sent := 0
  midStep := false
  broken := false
  twinAcc := []
  twinRows := []
  todo := []
  ending := false
  mismatch := false

/-- The runs of a launch, from number `i` on (R121 step 3). -/
def State.acceptRuns (s : State) (stack : Nat) (l : Launch) (i n : Nat) : Accept (List Run) :=
  match n with
  | 0 => .ok []
  | n + 1 =>
    match s.acceptRun stack l i [0, 1, 2, 3] none with
    | .wait w => .wait w
    | .refuse f afc i a len at_ => .refuse f afc i a len at_
    | .ok (ops, m) => match s.acceptRuns stack l (i + 1) n with
      | .ok rs => .ok (newRun l.id i m ops :: rs)
      | x => x

/-- The damage record of a launch refused at acceptance (R388). -/
def refusedDamage (stack : Nat) (l : Launch) (cause afc i : Nat) (addr : Word) (len : Nat) : Damage where
  kind := 2
  cause := cause
  srck := 8
  phys := false
  asid := l.agent.asid
  opmask := 0
  afc := afc
  swc := 0
  unit := stack
  aux := i
  addr := addr.toNat
  len := len
  pc := l.agent.pc.toNat
  desc := l.daddr.toNat

/-- A launch refused: its records, and it has failed without a run. -/
def State.refuseLaunch (s : State) (stack : Nat) (l : Launch) (f : Fail) (afc i : Nat) (addr : Word) (len : Nat) (at_ : Word) : State :=
  let s1 := if f.recorded then s.recordFail (l.faultAgent stack) f at_ else s
  (s1.damage stack (refusedDamage stack l f.cause afc i addr len)).updLaunch stack l.id fun x =>
    { x with accepted := true, failed := true }

/-- Everything a launch waits for before its first read has been performed (R105). -/
def State.launchMayRead (s : State) (stack : Nat) (l : Launch) : Bool :=
  let d := s.die stack
  l.after.all fun n => if n % 3 = 1 then d.launches.all fun x => x.id != n / 3 else d.sideQ.all fun c => c.id != n / 3

/-- Acceptance of a launch whose microprogram has been read (R121). -/
def State.acceptProg (s : State) (stack : Nat) (l : Launch) (prog : List Code) : State :=
  if prog.any fun w => !microOk l.words w.toNat then
    s.refuseLaunch stack l (.plain 0x0E) 0x0C 0 (wordAt l.desc 0) (4 * l.words) (wordAt l.desc 0)
  else match (s.acceptPool stack l).getD (s.acceptRuns stack l 0 (wbits (wordAt l.desc 1) 0 12)) with
  | .wait w => s.noteAwait w
  | .refuse f afc i a len at_ => s.refuseLaunch stack l f afc i a len at_
  | .ok rs => s.updLaunch stack l.id fun x =>
      { x with accepted := true, mprog := prog, runs := rs, pins := (rs.flatMap fun r => r.ops.map (·.pin)) ++ x.pins }

/-- Acceptance of a launch (R121): the microprogram is read through the home L2, as one access (R140), and its first word that
cannot be read refuses it. -/
def State.acceptLaunch (s : State) (stack : Nat) (l : Launch) : State :=
  let r := s.scanMicro l 0 l.words
  let all := r.1.flatten
  let no (t : State) (f : Fail) (k : Nat) : State :=
    t.refuseLaunch stack l f 0x0C 0 (wordAt l.desc 0) (4 * l.words) (l.wordAddr k)
  match r.2 with
  | some (.error w) => s.noteAwait w
  | stop =>
    if s.piecesWait all none then s.notePieces all none
    else
    let t := s.eccPieces all
    match r.1.findIdx? t.piecesPoisoned, stop with
    | some k, _ => no t (.plain 9) k
    | none, some (.ok f) => no t f r.1.length
    | none, _ => t.acceptProg stack l (r.1.map fun ps => BitVec.ofNat 32 (t.readPieces ps))

/-- LAUNCH_ACCEPTANCE (R121): the oldest launch not yet accepted. -/
def execLaunchAcceptance (d : Die) (s : State) : Host.Outcome State Fault Refusal :=
  run (fun s => match (s.die d.val).launches.find? fun l => !l.accepted with
    | some l => if s.launchMayRead d.val l then s.acceptLaunch d.val l else s
    | none => s) s

/-! ## Runs start (R125, R136, R138) -/

/-- A mitten executes a run, or shadows one. -/
def DieState.mittenBusy (d : DieState) (m : Nat) : Bool :=
  d.launches.any fun l => l.runs.any fun r => r.stage == .running && (r.mitten == m || r.shadow == some m)

/-- Busy mittens of a launch (R125). -/
def Launch.busy (l : Launch) : Nat := (l.runs.map fun r => if r.stage = .running then 1 + r.shadow.isSome.toNat else 0).sum

/-- ABUDGET.BUDGET as it acts (R143). -/
def DieState.budget (d : DieState) : Nat :=
  if d.abudget.toNat = 0 then 1 else if 768 < d.abudget.toNat then 768 else d.abudget.toNat

/-- The lowest free mitten in a bank whose shadow bit is in force (R138). -/
def DieState.freeShadow (d : DieState) (own : Nat) : Option Nat :=
  (List.range 2560).find? fun m => d.dupact.getLsbD (m / 40) && !d.mittenBusy m && m != own

/-- A launch is duplicated (R138). -/
def DieState.duplicates (d : DieState) (l : Launch) : Bool := (wordAt l.desc 1).getLsbD 28 || d.dupall

/-- A run can start (R122, R125, R134, R138). -/
def State.canStart (s : State) (stack : Nat) (l : Launch) (r : Run) : Bool :=
  let d := s.die stack
  let cap := wbits (wordAt l.desc 1) 29 10
  l.accepted && r.stage == .waiting && !d.mittenBusy r.mitten
    && (l.runs.all fun x => !(decide (x.index < r.index) && x.mitten == r.mitten && x.stage == .waiting))
    && (r.ops.all fun o => (List.range o.rows).all fun i => !d.alocked r.mitten (o.row + i) (some l.sid))
    && (cap == 0 || decide (l.busy < cap)) && decide (d.busyMittens < d.budget)
    && !s.slotHolds stack r.mitten && (!d.duplicates l || match d.freeShadow r.mitten with
      | some m => !s.slotHolds stack m
      | none => false)

/-- The first run of the die that can start, in acceptance order and ascending run (R39, R125). -/
def State.nextRun (s : State) (stack : Nat) : Option (Launch × Run) :=
  (s.die stack).launches.findSome? fun l => (l.runs.find? fun r => s.canStart stack l r).map fun r => (l, r)

/-- The rows the start of a run scrubs: those of its R and RW operands (R136). -/
def Run.sourceRows (r : Run) : List Nat :=
  (r.ops.filter fun o => bit o.access 0).flatMap fun o => (List.range o.rows).map fun i => o.row + i

/-- The run at its start: its registers (R123), and the scrub and the shadow copy before its first micro-op (R135). -/
def Run.begin (r : Run) (shadow : Option Nat) : Run :=
  let masks : Sparse (Option Nat) := [(1020, some rowOnes), (1021, some rowOnes)]
  { r with
    stage := .running, shadow := shadow, pc := 0
    b := r.ops.foldl (fun m o => m.put 0 o.num (BitVec.ofNat 16 o.row)) []
    l := [], acc := [], rows := masks
    stepNs := 0, count := 0, written := [], whole := [], sent := 0, midStep := false, broken := false
    twinAcc := [], twinRows := masks, ending := false
    todo := r.sourceRows.map Chore.scrub ++ if shadow.isSome then r.opRows.map Chore.copy else [] }

/-- A run starts: its registers and its shadow (R123, R138). -/
def State.startRun (s : State) (stack : Nat) (l : Launch) (r : Run) : State :=
  let d := s.die stack
  s.putRun stack (r.begin (if d.duplicates l then d.freeShadow r.mitten else none))

/-- RUN_START (R125): when this run is the next that can start. -/
def execRunStart (d : Die) (l i : Nat) (s : State) : Host.Outcome State Fault Refusal :=
  match s.nextRun d.val with
  | some (x, r) => if x.id = l ∧ r.index = i then .next (commit s (s.startRun d.val x r)).tick else .next s
  | none => .next s

/-! ## Overruns, timeouts, refresh, the end of a launch -/

/-- The nominal time of a micro-op word (R129). -/
def microNs (w : Nat) : Nat :=
  match w / 134217728 with
  | 0x01 => 36
  | 0x02 => 38
  | 0x03 => 42
  | 0x04 => 36
  | 0x05 => 36
  | 0x06 => 44
  | 0x07 => 40
  | 0x08 => 72
  | 0x09 => 72
  | 0x0B => 40
  | 0x0C => 40
  | 0x12 => 36 * (field w 0 4 + 1)
  | 0x13 => 36 * (field w 0 4 + 1)
  | 0x14 => 0
  | _ => 2

/-- A run fault of the run in a mitten, when `due` says so. -/
def State.faultIf (s : State) (m code : Nat) (due : Launch → Run → Bool) : Host.Outcome State Fault Refusal :=
  match s.runAt m with
  | none => .next s
  | some (l, r) =>
    if r.todo = [] ∧ due l r = true then .next (s.faultRun s (m / 2560) l r code 0).tick else .next s

/-- STEP_OVERRUN (R133): the run's next micro-op would pass 1,000 ns. -/
def execStepOverrun (d : Die) (m : Nat) (s : State) : Host.Outcome State Fault Refusal :=
  s.faultIf (2560 * d.val + m % 2560) 4 fun l r => match l.mprog[r.pc]? with
    | some w => decide (1000 < r.stepNs + microNs w.toNat)
    | none => false

/-- RUN_OVERRUN (R132): the run has executed 16,777,216 micro-ops and has another to execute. -/
def execRunOverrun (d : Die) (m : Nat) (s : State) : Host.Outcome State Fault Refusal :=
  s.faultIf (2560 * d.val + m % 2560) 5 fun l r => decide (16777216 ≤ r.count) && decide (r.pc < l.mprog.length)

/-- Run fault 0x0B: the pc has passed the last word (R132). -/
def passedEnd (m : Nat) (s : State) : Host.Outcome State Fault Refusal := s.faultIf m 0x0B fun l r => decide (l.mprog.length ≤ r.pc)

/-- A launch has come to its end: accepted, and every run ended or failed (R126). -/
def Launch.over (l : Launch) : Bool := l.accepted && l.runs.all fun r => r.stage == .ended || r.stage == .failed

/-- LAUNCH_PERFORMED (R126, R33, R34, R292). -/
def execLaunchPerformed (d : Die) (l : Nat) (s : State) : Host.Outcome State Fault Refusal :=
  run (fun s => match (s.die d.val).launches.find? fun x => x.id == l with
    | some x =>
      if x.over then
        let n := (x.runs.map fun r => if r.stage = .ended then r.sent else 0).sum
        s.whenBar x.agent x.holds (wordAt x.desc 6) (
          ((s.barrierUpd x.agent x.holds (wordAt x.desc 6) (if x.failed then Bar.fail 0x0E n else Bar.arrive n)).updDie
            d.val fun y => { y with launches := y.launches.filter fun z => z.id != l }).unpost x.sid)
      else s
    | none => s) s

/-- The patrol read of a slot: a row of the bank that no lock holds (R383). -/
def State.patrol (s : State) (stack b : Nat) : State :=
  let x := Config.patrolRow s.ticks b
  let m := 40 * b + x % 40
  let row := x / 40 % 1008
  let s1 := s.tick
  if s.rowLocked (rowAddr stack m row) none then s1 else (s1.scrubRow stack m row true).1

/-- REFRESH_SLOT (R134): a due slot takes its 160 ns, 304 clocks, or stays due while a mitten of the bank is mid-step. -/
def execRefreshSlot (d : Die) (bank : Fin 64) (s : State) : Host.Outcome State Fault Refusal :=
  run (fun s =>
    if (s.die d.val).bankQuiet bank.val then
      ((s.updDie d.val fun x =>
        { x with refreshDue := x.refreshDue.filter (· != bank.val), slotEnd := x.slotEnd.put 0 bank.val (s.now + 304) }).patrol
          d.val bank.val)
    else
      { (s.updDie d.val fun x => { x with refreshDue := addRow x.refreshDue bank.val }) with
        agenda := s.agenda ++ [.event (.refreshSlot d bank)] }) s

/-- LKTMO in clocks (R143). -/
def DieState.lockClocks (d : DieState) : Nat := usClocks (atLeastOne d.lktmo.toNat)

/-- Locks on a row broken: a run's at its next boundary, an alock at once (R141). -/
def DieState.breakLock (d : DieState) (m row : Nat) : DieState :=
  let ls := d.launches.map fun l => { l with runs := l.runs.map fun r => if r.locks m row then { r with broken := true } else r }
  let d1 := { d with launches := ls, lockWait := d.lockWait.put none (2560 * row + m) none }
  ((d1.alocks.filter fun p => p.2.holder.isSome && p.2.rows.contains (m, row)).map (·.1)).foldl (fun (x : DieState) i => x.freeLock i) d1

/-- LOCK_TIMEOUT (R141). -/
def execLockTimeout (d : Die) (m row : Nat) (s : State) : Host.Outcome State Fault Refusal :=
  run (fun s =>
    let x := s.die d.val
    match x.lockWait.get none (2560 * row + m) with
    | some t => if t + x.lockClocks ≤ s.now ∧ s.rowLocked (rowAddr d.val m row) none then s.updDie d.val fun y => y.breakLock m row else s
    | none => s) s

end Sys2Proof.Machine
end

