-- ==== Sys2Proof/Machine/Ecdsa.lean ====
section
/-! DEFINITION. ECDSA on brainpoolP384r1 (R1, R406 to R409). R1 names the curve and RFC 5639, whose parameters these are; the
equations are those of FIPS 186, with keys and signatures as two numbers of 48 bytes, the high byte first (PRESUMED, log 6). -/

namespace Sys2Proof.Machine

/-- The field's prime, the coefficients of y^2 = x^3 + a x + b, the base point and its order. -/
def curveP : Nat := 0x8CB91E82A3386D280F5D6F7E50E641DF152F7109ED5456B412B1DA197FB71123ACD3A729901D1A71874700133107EC53
def curveA : Nat := 0x7BC382C63D8C150C3C72080ACE05AFA0C2BEA28E4FB22787139165EFBA91F90F8AA5814A503AD4EB04A8C7DD22CE2826
def curveB : Nat := 0x04A8C7DD22CE28268B39B55416F0447C2FB77DE107DCD2A62E880EA53EEB62D57CB4390295DBC9943AB78696FA504C11
def curveX : Nat := 0x1D1C64F068CF45FFA2A63A81B7C13F6B8847A3E77EF14FE3DB7FCAFE0CBD10E8E826E03436D646AAEF87B2E247D4AF1E
def curveY : Nat := 0x8ABE1D7520F9C2A45CB1EB8E95CFD55262B70B29FEEC5864E19C054FF99129280E4646217791811142820341263C5315
def curveN : Nat := 0x8CB91E82A3386D280F5D6F7E50E641DF152F7109ED5456B31F166E6CAC0425A7CF3AB6AF6B7FC3103B883202E9046565

/-- A point of the curve, none for the one at infinity. -/
abbrev Point : Type := Option (Nat × Nat)

/-- b ^ e modulo m, for an exponent below 2 ^ n. -/
def powMod (m b n e : Nat) : Nat :=
  match n with
  | 0 => 1 % m
  | n + 1 =>
    let h := powMod m b n (e / 2)
    if e % 2 = 1 then h * h % m * b % m else h * h % m

/-- The inverse modulo a prime of 384 bits. -/
def inverseMod (m a : Nat) : Nat := powMod m (a % m) 384 (m - 2)

/-- The equation of the curve. -/
def onCurve (x y : Nat) : Bool :=
  decide (x < curveP) && decide (y < curveP) && y * y % curveP == (x * x * x + curveA * x + curveB) % curveP

/-- The third point of a line of slope `l` through two points, mirrored. -/
def chord (l x1 y1 x2 : Nat) : Nat × Nat :=
  let x := (l * l + 2 * curveP - x1 - x2) % curveP
  (x, (l * (x1 + curveP - x) + curveP - y1) % curveP)

/-- The sum of two points. -/
def Point.add (p q : Point) : Point :=
  match p, q with
  | none, q => q
  | p, none => p
  | some (x1, y1), some (x2, y2) =>
    if x1 ≠ x2 then some (chord ((y2 + curveP - y1) * inverseMod curveP (x2 + curveP - x1) % curveP) x1 y1 x2)
    else if (y1 + y2) % curveP = 0 then none
    else some (chord ((3 * x1 * x1 + curveA) * inverseMod curveP (2 * y1) % curveP) x1 y1 x2)

/-- A point taken `k` times, for k below 2 ^ n. -/
def Point.times (n k : Nat) (p : Point) : Point :=
  match n with
  | 0 => none
  | n + 1 =>
    let h := Point.times n (k / 2) p
    let d := Point.add h h
    if k % 2 = 1 then Point.add d p else d

/-- Bytes as a number, the high byte first, and a number as 48 such bytes. -/
def beNat (bs : List Byte) : Nat := ofBytes bs.reverse
def be48 (v : Nat) : List Byte := (toBytes 48 v).reverse

/-- A signature (r, s) by a public key (x, y) holds over a digest. -/
def ecdsaHolds (key digest sig : List Byte) : Bool :=
  let x := beNat (key.take 48)
  let y := beNat (key.drop 48)
  let r := beNat (sig.take 48)
  let w := inverseMod curveN (beNat (sig.drop 48))
  key.length == 96 && sig.length == 96 && onCurve x y && decide (0 < r) && decide (r < curveN)
    && decide (0 < beNat (sig.drop 48)) && decide (beNat (sig.drop 48) < curveN)
    && match Point.add (Point.times 384 (beNat digest * w % curveN) (some (curveX, curveY)))
        (Point.times 384 (r * w % curveN) (some (x, y))) with
      | some (u, _) => u % curveN == r
      | none => false

/-- The signature of a digest by a private key, with the nonce that `n` picks. -/
def ecdsaSign (key n : Nat) (digest : List Byte) : List Byte :=
  let k := n % (curveN - 1) + 1
  let r := match Point.times 384 k (some (curveX, curveY)) with
    | some (u, _) => u % curveN
    | none => 0
  be48 r ++ be48 (inverseMod curveN k * (beNat digest + r * (key % (curveN - 1) + 1)) % curveN)

end Sys2Proof.Machine
end

