-- ==== Sys2Proof/Machine/HostPort.lean ====
section
/-! DEFINITION. The host port: snoops (R110, R345), HDM accesses (R344, R363), BAR0 (R343), the link's loss and return (R347),
and cluster power gating (R111, R346). -/

namespace Sys2Proof.Machine

/-- The snoop agent's answer: the line's coherent bytes, whichever cache holds them; a modified copy reaches its home. -/
def State.answerSnoop (s : State) (a : Nat) : State :=
  if !s.hostUp || s.boot == .failed || (s.region a).isNone then s
  else
    let t := { s with out := .snoop a (s.readBytes a 64) (s.poisoned a) :: s.out, l2 := dropLine s.l2 (a / 64) }
    if isHost a then { t with arr := dropLine s.arr (a / 64) } else t

/-- A store of the host to a line of its own memory: the module's copies of the line are gone (R112, R345, R351). -/
def State.hostStore (s : State) (a : Nat) (bs : List Byte) : State :=
  let t := { s.storeBytes .direct a bs with l2 := dropLine s.l2 (a / 64), arr := dropLine s.arr (a / 64) }
  if bs.length = 64 then t.setPoison a false else t

/-- HOST_SNOOP (R110, R345), with the bytes the host then stores where it snoops a line of its own memory to write it (R112). -/
def execHostSnoop (x : Snoop) (s : State) : Host.Outcome State Fault Refusal :=
  run (fun s =>
    let a := x.pa.toNat
    let t := s.answerSnoop (a / 64 * 64)
    match x.store with
    | some bs => if isHost a then t.hostStore a (bs.take (64 - a % 64)) else t
    | none => t) s

/-- Why an HDM access reaches nothing: a refused window, or an address R296 does not map (R344, R363, R388). -/
def State.hdmFail (s : State) (a : Nat) : Option Nat :=
  if s.windowRefused a then some 7
  else match s.region a with
  | none => some 6
  | some .host => some 6
  | some _ => none

/-- A write of the host that is dropped, with its damage record (R344). -/
def State.hdmDrop (s : State) (a cause : Nat) : State := s.damage (a / 4096 % 8) (lineDamage cause 7 0 a)

/-- A write of the host to bytes of one line, its own copy written back included: a line written whole carries no poison
(R199). -/
def State.hdmWrite (s : State) (a : Nat) (bs : List Byte) : State :=
  let u := { s with hostCopies := s.hostCopies.filter (· != a / 64) }
  let t := (u.noteDropped a).writePieces .l2 (bytePieces a bs.length) (ofBytes bs)
  if bs.length = 64 then t.setPoison a false else t

/-- HOST_HDM_ACCESS (R344): a horizontal access, which waits where R107 and R140 make it wait; it is then tried again. -/
def execHostHdmAccess (pa : BitVec 48) (w : Option (List Byte)) (s : State) : Host.Outcome State Fault Refusal :=
  run (fun s =>
    let a := pa.toNat
    if !s.hostUp || s.boot == .failed then s
    else match s.hdmFail a with
    | some cause => match w with
      | some _ => s.hdmDrop a cause
      | none => { s with out := .hdm (a / 64 * 64) (List.replicate 64 0) true :: s.out }
    | none =>
      if s.rowWaits a none then s.noteWait a none
      else match w with
      | some bs => s.hdmWrite a (bs.take (64 - a % 64))
      | none =>
        let t := s.eccRead (a / 64 * 64) 64
        { t with out := .hdm (a / 64 * 64) (t.readBytes (a / 64 * 64) 64) (t.poisoned a) :: t.out }) s

/-- HOST_BAR0_ACCESS (R343). -/
def execHostBar0Access (off len : Nat) (w : Option Word) (s : State) : Host.Outcome State Fault Refusal :=
  run (fun s =>
    if !s.hostUp then s
    else if len ≠ 8 ∨ off % 8 ≠ 0 ∨ 8388608 ≤ off then { s with out := .abort off :: s.out }
    else
      let d := off / 1048576
      let o := off % 1048576
      match w with
      | none => { s with out := .bar0 off (if s.boot = .failed then 0 else s.ctrlRead d o) :: s.out }
      | some v => s.outerWrite d o v (.hostBar0Access off len w)) s

/-- A modified copy of a host line is lost, unless it has been written back by now: host memory's bytes stand (R347). -/
def State.loseLine (s : State) (line : Nat) : State :=
  if Config.reachedRows s.ticks line then s
  else
    let old := s.arr.filter fun p => p.1 / 64 == line
    (old.foldl (fun (t : State) p => t.storeByte .row p.1 (p.2.getD memDefault)) s).damage 0 (lineDamage 0x12 7 0 (64 * line))

/-- Cached copies of host lines go (R347). -/
def State.dropHost (s : State) : State :=
  let lines := ((s.arr.filter fun p => isHost p.1).map fun p => p.1 / 64).eraseDups
  let t := (lines.foldl State.loseLine s).tick
  { t with
    l2 := t.l2.filter fun p => !isHost p.1
    arr := t.arr.filter fun p => !isHost p.1
    cores := t.cores.map fun p => (p.1, { p.2 with icache := p.2.icache.filter fun q => !isHost (64 * q.1) }) }

/-- Every enabled queue stops with cause 0x12 (R347, R350). -/
def State.stopQueues (s : State) : State :=
  (List.range 8).foldl (fun (t : State) d => (s.die d).queues.foldl (fun (t : State) p => match p.2 with
    | some x => if x.enabled ∧ !x.err then t.stopQueue d p.1 x 0x12 else t
    | none => t) t) s

/-- A move to host memory loses writes while the link is down (R316). -/
def Reloc.loseHost (r : Reloc) : Reloc := if isHost r.dst then { r with destFailed := true } else r

/-- HOST_LINK_DOWN (R347). -/
def execHostLinkDown (s : State) : Host.Outcome State Fault Refusal :=
  run (fun s => if s.hostUp then
      let t := { s.dropHost with hostUp := false }
      ({ t with dies := t.dies.map fun p => (p.1, { p.2 with relocs := p.2.relocs.map Reloc.loseHost }) } : State).stopQueues
    else s) s

/-- HOST_LINK_UP (R347): the host enables the queues again itself. -/
def execHostLinkUp (s : State) : Host.Outcome State Fault Refusal := run (fun s => { s with hostUp := true }) s

/-- CLUSTER_POWER_GATE (R111, R346): both strands IDLE; the L1's dirty lines are written back, its instruction lines lost. -/
def execClusterPowerGate (c : CoreId) (s : State) : Host.Outcome State Fault Refusal :=
  run (fun s =>
    if (s.strand (2 * c.val)).st = .idle ∧ (s.strand (2 * c.val + 1)).st = .idle then
      { s with l2 := s.l2.filter fun p => match p.2 with
          | some x => x.2 != c.val
          | none => true }.updCore c.val fun k => { k with gated := true, icache := [] }
    else s) s

end Sys2Proof.Machine
end

