-- ==== Sys2Proof/Machine/Boot.lean ====
section
/-! DEFINITION. Module reset, secure boot and configuration records (R18, R406, R409), and out-of-band management (R405,
R408). -/

namespace Sys2Proof.Machine

/-! ## Configuration records (R409) -/

/-- A record's fields. -/
def recType (r : List Byte) : Nat := ofBytes (r.take 4)
def recLen (r : List Byte) : Nat := ofBytes ((r.drop 4).take 4)
def recVersion (r : List Byte) : Nat := ofBytes ((r.drop 8).take 8)
def recBody (r : List Byte) : List Byte := (r.drop 16).take (recLen r)

/-- The bytes a record's signature covers, and the signature. -/
def recSigned (r : List Byte) : List Byte := r.take (16 + recLen r)
def recSig (r : List Byte) : List Byte := r.drop (16 + recLen r)

/-- The record is as long as its layout says. -/
def recShaped (r : List Byte) : Bool := r.length == 16 + recLen r + 96

/-- Nalarn's key signed the record. -/
def recByNalarn (r : List Byte) : Bool := recShaped r && ecdsaHolds Config.nalarnKey (sha384 (recSigned r)) (recSig r)

/-- Of the records that hold, the one of a type with the highest VERSION. -/
def newest (rs : List (List Byte)) (holds : List Byte → Bool) (ty : Nat) : Option (List Byte) :=
  (rs.filter fun r => holds r && recType r == ty).foldl (fun (best : Option (List Byte)) r => match best with
    | some b => if recVersion b < recVersion r then some r else best
    | none => some r) none

/-- The record's signature holds: by Nalarn's key, or by the owner key that the Nalarn-signed record of type 5 in force names. -/
def recHolds (rs : List (List Byte)) (r : List Byte) : Bool :=
  recByNalarn r || (recShaped r && (newest rs recByNalarn 5).any fun o =>
    let key := Config.ownerKey (recBody o)
    sha384 key == recBody o && ecdsaHolds key (sha384 (recSigned r)) (recSig r))

/-- The record of a type that applies: the valid one with the highest VERSION. -/
def applies (rs : List (List Byte)) (ty : Nat) : Option (List Byte) := newest rs (recHolds rs) ty

/-- The number a record of a type holds, 0 where none applies. -/
def configNum (rs : List (List Byte)) (ty : Nat) : Nat := ((applies rs ty).map fun r => ofBytes (recBody r)).getD 0

/-- The records in use, of the types 1 to 6, in the order the flash holds them. -/
def inUse (rs : List (List Byte)) : List (List Byte) := rs.filter fun r => (List.range 6).any fun ty => applies rs (ty + 1) == some r

/-! ## The mask ROM (R406) -/

/-- An image passes: its key, which must have the digest of Nalarn's, its signature, and its version against MINVER. -/
def imageHolds (minver : Nat) (x : Image) : Bool :=
  sha384 x.pubKey == sha384 Config.nalarnKey && ecdsaHolds x.pubKey (sha384 x.signed) x.sig && decide (minver ≤ x.version)

/-- The image that boots: slot A's, else slot B's. -/
def State.bootImage (s : State) : Option Image :=
  [s.slotA, s.slotB].findSome? fun x => match x with
    | some i => if imageHolds (configNum s.configs 4) i then some i else none
    | none => none

/-- What the configuration records set whatever boots: the member identifier and the initial power cap (R354, R409). -/
def State.configure (s : State) : State :=
  let t := { s with member := BitVec.ofNat 32 (configNum s.configs 1) }
  match applies s.configs 3 with
  | some r => t.updDie 0 fun d => { d with pcap := BitVec.ofNat 12 (ofBytes (recBody r)) }
  | none => t

/-- The ROM's run: the verified image is loaded and measured, or every strand stays IDLE (R406, R408). -/
def State.romBoot (s : State) : State :=
  let u := s.configure
  match s.bootImage with
  | none => { u with boot := .failed, out := .bootFailed :: s.out, measures := (inUse s.configs).map sha384 }
  | some x =>
    let t := x.load.foldl (fun (t : State) (c : Host.Cell) => t.physWrite c.1 [c.2]) u
    { t with
      boot := .verified x.entry
      measures := (x.parts.map fun p => sha384 p.bytes) ++ (inUse s.configs).map sha384 }

/-- A die after module reset: what is attached to its port stays attached. -/
def DieState.again (d : DieState) : DieState := { DieState.reset with port := { Port.reset with expanders := d.port.expanders } }

/-- The state a module reset leaves: reset values (R18), the module's flash as it was, and the world outside it. -/
def State.again (s : State) : State :=
  { State.reset with
    agenda := s.agenda
    ticks := s.ticks
    dies := (List.range 8).foldl (fun m k => m.put DieState.reset k (s.die k).again) []
    hostUp := s.hostUp
    badChannels := s.badChannels
    slotA := s.slotA
    slotB := s.slotB
    configs := s.configs
    cert := s.cert
    out := s.out }

/-- MODULE_RESET (R18, R406). -/
def execModuleReset (s : State) : Host.Outcome State Fault Refusal := run State.romBoot s.again

/-- FIRMWARE_START (R18): strand 0 of core 0 of every base die, in supervisor mode. -/
def execFirmwareStart (s : State) : Host.Outcome State Fault Refusal :=
  run (fun s => match s.boot with
    | .verified e =>
      { (List.range 8).foldl (fun (t : State) d =>
          (t.updStrand (64 * d) fun x => { x with st := .run, pc := e, sstat := 7 }).powerOn (64 * d)) s with boot := .started }
    | _ => s) s

/-! ## Out-of-band management (R405, R408) -/

/-- The registers MCTP may read (R405). -/
def mctpReads (o : Nat) : Bool :=
  o % 8 == 0 && ((0x60000 ≤ o && o ≤ 0x60048) || (0x70000 ≤ o && o ≤ 0x70020) || o == 0x20028 || o == 0x50000)

/-- MCTP_READ_REGISTER (R405). -/
def execMctpReadRegister (d : Die) (off : BitVec 20) (s : State) : Host.Outcome State Fault Refusal :=
  run (fun s => if mctpReads off.toNat then { s with out := .mctp true (ofWords [s.ctrlRead d.val off.toNat]) :: s.out }
    else { s with out := .mctp false [] :: s.out }) s

/-- MCTP_WRITE_CAPW (R405): a request to write any other register is answered with an error. -/
def execMctpWriteCapw (x : MctpWrite) (s : State) : Host.Outcome State Fault Refusal :=
  run (fun s =>
    if x.die = 0 ∧ x.off = 0x60020 then
      let t := s.ctrlWrite 0 0x60020 x.w
      { t with out := .mctp true [] :: t.out }
    else { s with out := .mctp false [] :: s.out }) s

/-- A quote without its signature (R408). -/
def State.quoteBody (s : State) (nonce : List Byte) : List Byte :=
  nonce ++ toBytes 4 s.member.toNat ++ toBytes 4 s.measures.length ++ s.measures.flatten

/-- ATTESTATION_QUOTE (R408): NONCE is 48 bytes; the identity key signs the rest. -/
def execAttestationQuote (nonce : List Byte) (s : State) : Host.Outcome State Fault Refusal :=
  run (fun s => if nonce.length = 48 then
      let b := s.quoteBody nonce
      { s with out := .mctp true (b ++ ecdsaSign Config.identityKey (Config.signNonce s.ticks) (sha384 b)) :: s.out }
    else { s with out := .mctp false [] :: s.out }) s

end Sys2Proof.Machine
end

