-- ==== Sys2Proof/WellFormed.lean ====
section
/-! DEFINITION. Which instructions some word encodes: the checks of R147 to R152 on strand words and of R132 on row
micro-ops that operand types do not already make. -/

namespace Sys2Proof

/-- The control register numbers R23 assigns. -/
def crAssigned (n : Nat) : Bool :=
  n ≤ 0x009 || n == 0x010 || n == 0x011 || (0x020 ≤ n && n ≤ 0x027) || (0x030 ≤ n && n ≤ 0x037)
    || (0x040 ≤ n && n ≤ 0x047) || n == 0x050 || n == 0x051 || n == 0x060 || n == 0x061

/-- Forms vv and vs (R150). -/
def VSrc.isReg : VSrc → Bool
  | .vv _ => true
  | .vs _ => true
  | .vi _ => false

/-- Forms vs and vi (R150). -/
def VSrc.notVv : VSrc → Bool
  | .vv _ => false
  | .vs _ => true
  | .vi _ => true

/-- With acq and rel both 0 the scope is 0 (R147). -/
def orderOk (s : Scope) (acq rel : Bool) : Bool := acq || rel || s == .strand

/-- A row field a micro-op may read: not the reserved rows 1022 and 1023 (R132). -/
def rowReadable (x : BitVec 10) : Bool := x.toNat < 1022

/-- A row field a micro-op may write: not z, o or a reserved row (R132). -/
def rowWritable (x : BitVec 10) : Bool := x.toNat < 1022 && x.toNat != 1018 && x.toNat != 1019

/-- The bit operand of rbcst (R129): Y[5] = 0 with Y[9:6] zero, or Y[5] = 1 with Y[4:0] and Y[9:8] zero. -/
def rbcstBit (y : BitVec 10) : Bool := y.toNat < 32 || (y.toNat / 64 < 4 && y.toNat % 64 == 32)

/-- An instruction that some word, or some event, stands for. -/
def Instr.wellFormed (i : Instr) : Bool :=
  match i with
  | .moduleReset => true
  | .firmwareStart => true
  | .trapEntry _ => true
  | .serviceForward _ => true
  | .serviceResume _ => true
  | .serviceReflect _ => true
  | .servicePark _ => true
  | .hardPreemption _ => true
  | .psetWrite _ _ => true
  | .lpartWrite _ _ => true
  | .dmbaseWrite _ _ => true
  | .duppoolWrite _ _ => true
  | .controlRegisterWrite _ _ _ => true
  | .farmStart _ _ _ => true
  | .farmCompletionArrival _ _ => true
  | .farmArbitration _ => true
  | .walkWaitEnd _ => true
  | .pinWaitEnd _ => true
  | .postedSlotFree _ => true
  | .engineQueueSlotFree _ => true
  | .farmContextWaitEnd _ => true
  | .bwaitRelease _ => true
  | .dozeWake _ => true
  | .dozeTimeout _ => true
  | .streamWaitEnd _ => true
  | .launchAcceptance _ => true
  | .runStart _ _ _ => true
  | .stepOverrun _ _ => true
  | .runOverrun _ _ => true
  | .launchPerformed _ _ => true
  | .refreshSlot _ _ => true
  | .lockTimeout _ _ _ => true
  | .horizontalAccess _ => true
  | .engineFragment _ _ => true
  | .engineCommandDone _ _ => true
  | .streamInboundFill _ _ _ => true
  | .streamOutboundDrain _ _ _ => true
  | .collectiveChunk _ _ => true
  | .wireBlockReceive _ _ _ _ _ _ => true
  | .poisonNotice _ _ _ _ => true
  | .chunkDeadline _ _ => true
  | .collectiveComplete _ _ => true
  | .install _ => true
  | .reloc _ => true
  | .evict _ => true
  | .markp _ => true
  | .count _ => true
  | .flush _ => true
  | .relocCopyDone _ _ => true
  | .relocSwap _ _ => true
  | .relocDestWriteFail _ _ => true
  | .queueTailSnoop _ _ => true
  | .packetFarm _ _ => true
  | .packetArrive _ _ => true
  | .waitbarRelease _ _ => true
  | .queueEnable _ _ => true
  | .queueDisable _ _ => true
  | .queueClearError _ _ => true
  | .hostSnoop _ => true
  | .hostHdmAccess _ _ => true
  | .hostBar0Access _ _ _ => true
  | .hostLinkDown => true
  | .hostLinkUp => true
  | .clusterPowerGate _ => true
  | .doff _ => true
  | .don _ _ => true
  | .linksTrained _ _ => true
  | .trainTimeout _ => true
  | .mapComplete _ => true
  | .linkLost _ => true
  | .ualinkPortLost _ _ => true
  | .connectionAbandoned _ _ => true
  | .drainComplete _ => true
  | .drainTimeout _ => true
  | .evacComplete _ => true
  | .unmapComplete _ => true
  | .launchMessage _ _ => true
  | .lpddrChannelFailure _ => true
  | .lpddrPatrolScrub _ => true
  | .rosterInstall _ _ => true
  | .rosterRetire _ _ => true
  | .mctpReadRegister _ _ => true
  | .mctpWriteCapw _ => true
  | .attestationQuote _ => true
  | .add _ _ _ => true
  | .sub _ _ _ => true
  | .and _ _ _ => true
  | .or _ _ _ => true
  | .xor _ _ _ => true
  | .andn _ _ _ => true
  | .sll _ _ _ => true
  | .srl _ _ _ => true
  | .sra _ _ _ => true
  | .rol _ _ _ => true
  | .slt _ _ _ => true
  | .sltu _ _ _ => true
  | .min _ _ _ => true
  | .max _ _ _ => true
  | .minu _ _ _ => true
  | .maxu _ _ _ => true
  | .seq _ _ _ => true
  | .sne _ _ _ => true
  | .mul _ _ _ => true
  | .mulhs _ _ _ => true
  | .mulhu _ _ _ => true
  | .mulhm _ _ _ => true
  | .quot _ _ _ => true
  | .quotu _ _ _ => true
  | .mod _ _ _ => true
  | .modu _ _ _ => true
  | .clz _ _ => true
  | .ctz _ _ => true
  | .popc _ _ => true
  | .rev8 _ _ => true
  | .fshr _ _ _ _ => true
  | .addi _ _ _ => true
  | .andi _ _ _ => true
  | .ori _ _ _ => true
  | .xori _ _ _ => true
  | .slti _ _ _ => true
  | .sltiu _ _ _ => true
  | .slli _ _ _ => true
  | .srli _ _ _ => true
  | .srai _ _ _ => true
  | .roli _ _ _ => true
  | .bfx _ _ _ _ => true
  | .bfxu _ _ _ _ => true
  | .lui _ _ => true
  | .lmid _ _ => true
  | .lhi _ _ => true
  | .ldb _ _ _ => true
  | .ldh _ _ _ => true
  | .ldw _ _ _ => true
  | .ldd _ _ _ => true
  | .ldbu _ _ _ => true
  | .ldhu _ _ _ => true
  | .ldwu _ _ _ => true
  | .stb _ _ _ => true
  | .sth _ _ _ => true
  | .stw _ _ _ => true
  | .std _ _ _ => true
  | .beq _ _ _ => true
  | .bne _ _ _ => true
  | .blt _ _ _ => true
  | .bge _ _ _ => true
  | .jal _ => true
  | .jalr _ _ _ => true
  | .crr _ r => crAssigned r.toNat
  | .crw _ _ r => crAssigned r.toNat
  | .crs _ _ r => crAssigned r.toNat
  | .crc _ _ r => crAssigned r.toNat
  | .svc _ => true
  | .sret _ => true
  | .doze _ _ => true
  | .wake _ => true
  | .brk => true
  | .atswapW _ _ _ s acq rel => orderOk s acq rel
  | .ataddW _ _ _ s acq rel => orderOk s acq rel
  | .atandW _ _ _ s acq rel => orderOk s acq rel
  | .atorW _ _ _ s acq rel => orderOk s acq rel
  | .atxorW _ _ _ s acq rel => orderOk s acq rel
  | .atminW _ _ _ s acq rel => orderOk s acq rel
  | .atmaxW _ _ _ s acq rel => orderOk s acq rel
  | .atminuW _ _ _ s acq rel => orderOk s acq rel
  | .atmaxuW _ _ _ s acq rel => orderOk s acq rel
  | .casW _ _ _ s acq rel => orderOk s acq rel
  | .atswapD _ _ _ s acq rel => orderOk s acq rel
  | .ataddD _ _ _ s acq rel => orderOk s acq rel
  | .atandD _ _ _ s acq rel => orderOk s acq rel
  | .atorD _ _ _ s acq rel => orderOk s acq rel
  | .atxorD _ _ _ s acq rel => orderOk s acq rel
  | .atminD _ _ _ s acq rel => orderOk s acq rel
  | .atmaxD _ _ _ s acq rel => orderOk s acq rel
  | .atminuD _ _ _ s acq rel => orderOk s acq rel
  | .atmaxuD _ _ _ s acq rel => orderOk s acq rel
  | .casD _ _ _ s acq rel => orderOk s acq rel
  | .ldaB _ _ _ => true
  | .ldaH _ _ _ => true
  | .ldaW _ _ _ => true
  | .ldaD _ _ _ => true
  | .stlB _ _ _ => true
  | .stlH _ _ _ => true
  | .stlW _ _ _ => true
  | .stlD _ _ _ => true
  | .fence succ _ pred => succ != 0 && pred != 0
  | .vsetl _ _ => true
  | .vsetlf _ _ _ => true
  | .vsetlc _ _ => true
  | .vld _ _ _ _ _ => true
  | .vlds _ _ _ _ _ => true
  | .vldx _ _ _ _ _ => true
  | .vldxo _ _ _ _ _ => true
  | .vldc _ _ _ _ _ => true
  | .vldo _ _ _ _ _ => true
  | .vst _ _ _ _ _ => true
  | .vsts _ _ _ _ _ => true
  | .vstx _ _ _ _ _ => true
  | .vstxo _ _ _ _ _ => true
  | .vstc _ _ _ _ _ => true
  | .vsto _ _ _ _ _ => true
  | .vlde _ _ => true
  | .vldes _ _ _ => true
  | .vste _ _ => true
  | .vstes _ _ _ => true
  | .vatadd _ _ _ _ _ => true
  | .vatmin _ _ _ _ _ => true
  | .vatmax _ _ _ _ _ => true
  | .vatswap _ _ _ _ _ => true
  | .vatand _ _ _ _ _ => true
  | .vator _ _ _ _ _ => true
  | .vadd _ _ _ _ _ => true
  | .vfadd _ _ b _ _ => b.isReg
  | .vsub _ _ _ _ _ => true
  | .vfsub _ _ b _ _ => b.isReg
  | .vmul _ _ _ _ _ => true
  | .vfmul _ _ b _ _ => b.isReg
  | .vmulhs _ _ _ _ _ => true
  | .vmulhu _ _ _ _ _ => true
  | .vmuladd _ _ _ _ _ => true
  | .vfmuladd _ _ b _ _ => b.isReg
  | .vmulsub _ _ _ _ _ => true
  | .vfmulsub _ _ b _ _ => b.isReg
  | .vmin _ _ _ _ _ => true
  | .vfmin _ _ b _ _ => b.isReg
  | .vmax _ _ _ _ _ => true
  | .vfmax _ _ b _ _ => b.isReg
  | .vminu _ _ _ _ _ => true
  | .vmaxu _ _ _ _ _ => true
  | .vand _ _ _ _ _ => true
  | .vor _ _ _ _ _ => true
  | .vxor _ _ _ _ _ => true
  | .vandn _ _ _ _ _ => true
  | .vshl _ _ _ _ _ => true
  | .vshr _ _ _ _ _ => true
  | .vsar _ _ _ _ _ => true
  | .vrol _ _ _ _ _ => true
  | .vaddsat _ _ _ _ _ => true
  | .vsubsat _ _ _ _ _ => true
  | .vquot _ _ b _ _ => b.isReg
  | .vquotu _ _ b _ _ => b.isReg
  | .vmod _ _ b _ _ => b.isReg
  | .vmodu _ _ b _ _ => b.isReg
  | .vfdiv _ _ b _ _ => b.isReg
  | .vfsqrt _ _ _ _ => true
  | .vfrec _ _ _ _ => true
  | .vfrsq _ _ _ _ => true
  | .vfexp _ _ _ _ => true
  | .vflog _ _ _ _ => true
  | .vceq _ _ _ _ _ => true
  | .vcne _ _ _ _ _ => true
  | .vclt _ _ _ _ _ => true
  | .vcle _ _ _ _ _ => true
  | .vcltu _ _ _ _ _ => true
  | .vcleu _ _ _ _ _ => true
  | .vfceq _ _ b _ _ => b.isReg
  | .vfcne _ _ b _ _ => b.isReg
  | .vfclt _ _ b _ _ => b.isReg
  | .vfcle _ _ b _ _ => b.isReg
  | .vsel _ _ _ k _ => k != 0
  | .vmove _ _ _ _ => true
  | .vcvt _ _ _ _ => true
  | .vfsetsign _ _ b _ _ => b.isReg
  | .vfnegsign _ _ b _ _ => b.isReg
  | .vfxorsign _ _ b _ _ => b.isReg
  | .vquant _ _ _ _ _ => true
  | .vpack _ _ _ _ _ _ => true
  | .vdequant _ _ _ _ _ => true
  | .vbdot _ _ _ _ _ => true
  | .vfcun _ _ b _ _ => b.isReg
  | .vlift _ _ b _ _ => b.notVv
  | .vdrop _ _ b _ _ => b.notVv
  | .vpick _ _ _ _ _ => true
  | .vindex _ _ _ => true
  | .vsqueeze _ _ _ _ => true
  | .vspread _ _ _ _ => true
  | .vconf _ _ _ _ => true
  | .vconfm _ _ _ _ => true
  | .kand _ _ _ => true
  | .kor _ _ _ => true
  | .kxor _ _ _ => true
  | .kandn _ _ _ => true
  | .kpop _ _ => true
  | .kfirst _ _ => true
  | .vrsum _ _ _ _ => true
  | .vrmin _ _ _ _ => true
  | .vrmax _ _ _ _ => true
  | .vrminu _ _ _ _ => true
  | .vrmaxu _ _ _ _ => true
  | .vrand _ _ _ _ => true
  | .vror _ _ _ _ => true
  | .vrxor _ _ _ _ => true
  | .vfrsum _ _ _ _ => true
  | .vfrosum _ _ _ _ => true
  | .vfrmin _ _ _ _ => true
  | .vfrmax _ _ _ _ => true
  | .tld _ _ => true
  | .tlds _ _ _ => true
  | .tldc _ _ _ => true
  | .tst _ _ => true
  | .tsts _ _ _ => true
  | .tstc _ _ _ => true
  | .mmul _ _ _ => true
  | .mmac _ _ _ => true
  | .mmulb _ _ _ _ _ => true
  | .mmacb _ _ _ _ _ => true
  | .tmv _ _ => true
  | .vmvt _ _ => true
  | .ocopy _ s acq rel => orderOk s acq rel
  | .ogather _ s acq rel => orderOk s acq rel
  | .vsave _ s acq rel => orderOk s acq rel
  | .vrest _ s acq rel => orderOk s acq rel
  | .vxcore _ s acq rel => orderOk s acq rel
  | .sopen _ _ s acq rel => orderOk s acq rel
  | .sclose _ _ => true
  | .sadv _ _ _ => true
  | .scloseDrained _ => true
  | .lturn _ s acq rel => orderOk s acq rel
  | .ltile _ s acq rel => orderOk s acq rel
  | .ltrans _ s acq rel => orderOk s acq rel
  | .lconv _ s acq rel => orderOk s acq rel
  | .lconvo _ s acq rel => orderOk s acq rel
  | .lscale _ s acq rel => orderOk s acq rel
  | .lrepl _ s acq rel => orderOk s acq rel
  | .binit _ _ s rel => orderOk s false rel
  | .barrive _ _ => true
  | .bwait _ _ _ => true
  | .btest _ _ s acq => orderOk s acq false
  | .bfail _ _ _ => true
  | .alaunch _ _ _ _ => true
  | .alock _ _ _ => true
  | .aunlock _ => true
  | .afence => true
  | .coll _ _ _ _ => true
  | .cpoll _ _ s acq => orderOk s acq false
  | .farm _ _ s rel => orderOk s false rel
  | .oinv _ _ _ => true
  | .cwb _ _ => true
  | .cinv _ _ => true
  | .icinv _ _ _ => true
  | .fbar => true
  | .mside _ _ _ _ => true
  | .sprefix _ _ => true
  | .tret => true
  | .spark _ _ => true
  | .sstart _ _ _ => true
  | .preq _ _ => true
  | .rcopy x y _ => rowWritable x && rowReadable y
  | .rnot x y _ _ => rowWritable x && rowReadable y && x.toNat != 1016 && x.toNat != 1017
  | .rmaj x _ tri => rowWritable x && tri.toNat < 3
  | .rset x _ _ => rowWritable x
  | .rbcst x y _ _ => rowWritable x && rbcstBit y
  | .rmwr x y _ _ => rowWritable x && rowReadable y
  | .rshl x y _ dist => rowWritable x && rowReadable y && dist.toNat < 3
  | .rshr x y _ dist => rowWritable x && rowReadable y && dist.toNat < 3
  | .rpcaAdd _ x y _ _ => rowReadable x && rowReadable y
  | .rpcaSub _ x y _ _ => rowReadable x && rowReadable y
  | .raclr => true
  | .raccw x _ _ => rowWritable x
  | .raccb _ _ _ => true
  | .rldl _ _ => true
  | .rldlQ _ _ => true
  | .rloop _ _ => true
  | .rbtSet _ _ _ => true
  | .rbtClr _ _ _ => true
  | .rbset _ _ _ => true
  | .rbsetK _ _ => true
  | .rbstep _ _ => true
  | .rseal x _ _ => rowReadable x
  | .rcheck x _ _ => rowReadable x
  | .rwait => true
  | .rend => true
  | .rraise _ => true
  | .sprefixPerformed _ _ => true
  | .queueAgentPreemptionRequest _ => true

end Sys2Proof
end

