-- ==== Sys2Proof/Machine/Branch.lean ====
section
/-! DEFINITION. Branches, jumps, control register access, svc, sret, brk, wake, doze and the typed fence
(R177-R181, R185-R189, R260). -/

namespace Sys2Proof.Machine

/-- A branch's or jump's target, `off` words from the instruction (R147, R177). -/
def Strand.target (x : Strand) (off : Word) : Word := x.pc + 4 * off

/-- A conditional branch (R177). -/
def branchOp (c : Word → Word → Bool) (a b : GReg) (imm : BitVec 15) (s : State) : Host.Outcome State Fault Refusal :=
  run (fun s => if c (s.me.getG a) (s.me.getG b) then s.jump (s.me.target (simm imm)) else s.done) s

/-- beq (R177). -/
def execBeq (a b : GReg) (imm : BitVec 15) (s : State) : Host.Outcome State Fault Refusal := branchOp (fun x y => x == y) a b imm s
/-- bne (R177). -/
def execBne (a b : GReg) (imm : BitVec 15) (s : State) : Host.Outcome State Fault Refusal := branchOp (fun x y => x != y) a b imm s
/-- blt (R177). -/
def execBlt (a b : GReg) (imm : BitVec 15) (s : State) : Host.Outcome State Fault Refusal := branchOp (fun x y => x.slt y) a b imm s
/-- bge (R177). -/
def execBge (a b : GReg) (imm : BitVec 15) (s : State) : Host.Outcome State Fault Refusal := branchOp (fun x y => y.sle x) a b imm s

/-- jal (R178). -/
def execJal (imm : BitVec 25) (s : State) : Host.Outcome State Fault Refusal :=
  run (fun s => (s.upd fun x => x.setG 1 (x.pc + 4)).jump (s.me.target (imm.signExtend 64))) s

/-- jalr (R178). -/
def execJalr (d a : GReg) (imm : BitVec 15) (s : State) : Host.Outcome State Fault Refusal :=
  run (fun s =>
    let t := s.me.getG a + simm imm
    if wbits t 0 2 ≠ 0 then s.trap 5 t else (s.upd fun x => x.setG d (x.pc + 4)).jump t) s

/-! ## Control registers (R179) -/

/-- An access to a control register: unassigned, user rights, then the write and gd (R16, R23, R179). -/
def State.crAccess (s : State) (d : GReg) (n : Nat) (writes : Bool) (w clear : Word) : State :=
  if !crAssigned n then s.trap 1 0
  else if !s.me.supervisor && !crUserReads n then s.trap 3 0
  else if !s.me.supervisor && writes && crWritable n && !crUserWrites n then s.trap 3 0
  else
    let old := s.crRead n
    (if writes then s.crWrite n w clear else s).retireWith d old

/-- crr (R179). -/
def execCrr (d : GReg) (r : BitVec 12) (s : State) : Host.Outcome State Fault Refusal :=
  run (fun s => s.crAccess d r.toNat false 0 0) s
/-- crw (R179). -/
def execCrw (d a : GReg) (r : BitVec 12) (s : State) : Host.Outcome State Fault Refusal :=
  run (fun s => s.crAccess d r.toNat true (s.me.getG a) (s.me.getG a)) s
/-- crs (R179). -/
def execCrs (d a : GReg) (r : BitVec 12) (s : State) : Host.Outcome State Fault Refusal :=
  run (fun s => s.crAccess d r.toNat true (s.crRead r.toNat ||| s.me.getG a) (s.me.getG a)) s
/-- crc (R179). -/
def execCrc (d a : GReg) (r : BitVec 12) (s : State) : Host.Outcome State Fault Refusal :=
  run (fun s => s.crAccess d r.toNat true (s.crRead r.toNat &&& ~~~ s.me.getG a) 0) s

/-! ## Calls, events and the fence -/

/-- svc: it retires, then traps with tpc after it (R185). -/
def execSvc (a : GReg) (s : State) : Host.Outcome State Fault Refusal :=
  run (fun s => (s.upd fun x => { x with instret := x.instret + 1 }).takeTrap s.cur
    ⟨0x0C, s.me.getG a, s.me.pc + 4, s.me.iw, false, false⟩) s

/-- brk (R186). -/
def execBrk (s : State) : Host.Outcome State Fault Refusal := run (fun s => s.trap 0x0D 0) s

/-- sret (R187). -/
def execSret (a : GReg) (s : State) : Host.Outcome State Fault Refusal :=
  run (fun s => s.privileged fun s =>
    let t := s.me.getG a
    if wbits t 0 2 ≠ 0 then s.trap 5 t
    else (s.upd fun x => { x with sstat := setBits (setBits x.sstat 0 1 0) 2 1 0 }).jump t) s

/-- wake (R188). -/
def execWake (a : GReg) (s : State) : Host.Outcome State Fault Refusal :=
  run (fun s =>
    let m := s.me.getG a
    let c := 2 * coreOf s.cur
    if wbits m 2 62 ≠ 0 then s.trap 6 m
    else
      let s1 := if m.getLsbD 0 || m == 0 then s.updStrand c Strand.raise else s
      (if m.getLsbD 1 || m == 0 then s1.updStrand (c + 1) Strand.raise else s1).done) s

/-- doze, at its issue and at every later turn while it waits (R189). -/
def State.dozeAct (s : State) (d a : GReg) : State :=
  let x := s.me
  let limit := (x.getG a).toNat
  if x.preemptPending then s.retireWith d 2
  else if 0 < x.wakes then (s.upd fun y => { y with wakes := y.wakes - 1 }).retireWith d 1
  else if x.held ∧ limit ≠ 0 ∧ x.heldAt + limit ≤ s.now then s.retireWith d 0
  else s.waitHere

/-- doze (R189). -/
def execDoze (d a : GReg) (s : State) : Host.Outcome State Fault Refusal := run (fun s => s.dozeAct d a) s

/-- fence: the model performs every access of a strand in program order, so a typed fence finds its order kept (R102, R260). -/
def execFence (_succ : BitVec 4) (_sc : Scope) (_pred : BitVec 4) (s : State) : Host.Outcome State Fault Refusal :=
  strandOp (fun x => x) s

/-- tret (R274, R330). -/
def execTret (s : State) : Host.Outcome State Fault Refusal := run (fun s => s.privileged State.trapReturn) s

/-! ## Strand control (R274) -/

/-- The strand of the issuing die a register names; `k` goes on with it (R274). -/
def State.targetOf (s : State) (w : Word) (k : State → Nat → State) : State :=
  if wbits w 6 58 ≠ 0 then s.trap 6 w else k s (64 * dieOf s.cur + wbits w 0 6)

/-- spark (R274). -/
def execSpark (d a : GReg) (s : State) : Host.Outcome State Fault Refusal :=
  run (fun s => s.privileged fun s => s.targetOf (s.me.getG a) fun s n =>
    if n = s.cur then (s.retireWith d 0).enterIdle n
    else if (s.strand n).st = .idle ∨ (s.strand n).st = .svcwait then (s.enterIdle n).retireWith d 0
    else s.retireWith d 1) s

/-- sstart (R274). -/
def execSstart (d a b : GReg) (s : State) : Host.Outcome State Fault Refusal :=
  run (fun s => s.privileged fun s => s.targetOf (s.me.getG a) fun s n =>
    let t := s.me.getG b
    if wbits t 0 2 ≠ 0 then s.trap 5 t
    else if (s.strand n).st = .idle ∧ !(s.strand n).inFarm then
      ((s.updStrand n fun x => { x.unhold with st := .run, pc := t, sstat := 7 }).powerOn n).retireWith d 0
    else s.retireWith d 1) s

/-- preq (R274, R335). -/
def execPreq (d a : GReg) (s : State) : Host.Outcome State Fault Refusal :=
  run (fun s => s.privileged fun s => s.targetOf (s.me.getG a) fun s n =>
    let old := truth (s.strand n).preq
    (s.request n).retireWith d old) s

end Sys2Proof.Machine
end

