-- ==== Sys2Proof/Machine/Coll.lean ====
section
/-! DEFINITION. Collectives: coll and cpoll (R264, R267), the collective agent's chunks, deadlines and records (R71, R265,
R266, R394-R396, R410, R411), and what comes for a collective over the wire (R368, R394, R395). -/

namespace Sys2Proof.Machine

/-! ## The command (R264) -/

/-- A collective's parameters. -/
structure CollP where
  src : Word
  dst : Word
  len : Nat
  bar : Word
  crec : Word
  digest : Nat
  op : Nat
  sf : Nat
  wf : Nat
  df : Nat
  bl : Nat
  ty : Nat
  /-- Elements of a chunk. -/
  elems : Nat
  root : Nat
  deriving DecidableEq, Repr

def parseColl (ws : List Word) : CollP :=
  let w (i : Nat) := wordAt ws i
  { src := w 0, dst := w 1, len := (w 2).toNat, bar := w 3, crec := w 4, digest := wbits (w 5) 0 48, op := wbits (w 5) 48 3
    sf := wbits (w 6) 0 4, wf := wbits (w 6) 4 4, df := wbits (w 6) 8 4, bl := blockLen (wbits (w 6) 12 2)
    ty := wbits (w 6) 14 2, elems := 256 * wbits (w 6) 16 11, root := wbits (w 6) 32 12 }

/-- The descriptor's words in range; those that depend on the roster's size `m` only where the roster is known (R264, R411). -/
def collOk (ws : List Word) (m : Option Nat) : List Bool :=
  let p := parseColl ws
  let w6 := wordAt ws 6
  [true, true, lenOk (wordAt ws 2) 4294967296 && (p.op != 1 || m.all fun n => p.len % n == 0), true, true,
   wbits (wordAt ws 5) 51 13 == 0 && p.op ≤ 3,
   [8, 6].contains p.sf && [8, 6, 4, 9].contains p.wf && [8, 6].contains p.df && decide (1 ≤ wbits w6 16 11)
     && wbits w6 16 11 ≤ 1024 && wbits w6 27 5 == 0 && wbits w6 44 20 == 0 && (p.op != 3 || m.all fun n => decide (p.root < n)),
   wordAt ws 7 == 0]

/-- Chunks, and the elements of chunk `ch`. -/
def CollP.chunks (p : CollP) : Nat := ceilDiv p.len p.elems
def CollP.count (p : CollP) (ch : Nat) : Nat := Nat.min p.elems (p.len - ch * p.elems)

/-- Bytes of a chunk entry for `m` members, and of the record (R266). -/
def entryBytes (m : Nat) : Nat := 8 + 8 * ceilDiv m 64
def CollP.recordBytes (p : CollP) (m : Nat) : Nat := 64 + p.chunks * entryBytes m

/-- The agent a collective's accesses are made for. -/
def State.collAgent (s : State) (da : Word) : Agent := { s.agentOf s.cur with source := 6, unit := dieOf s.cur, pc := da }

def newColl (id : Nat) (s : State) (sc : Scope) (acq rel : Bool) (ws : List Word) (da : Word) (r : Roster) (self : Nat)
    (pins : List Pin) : Coll where
  id := id
  sid := s.cur
  agent := s.collAgent da
  scope := sc
  acq := acq
  rel := rel
  desc := ws
  daddr := da
  pc := s.me.pc
  digest := r.digest
  members := r.members
  self := self
  nth := r.total
  after := if acq then ((s.myDie.colls.filter fun c => c.sid == s.cur).map fun c => 3 * c.id) ++ s.postedCodes s.cur else []
  chunk := 0
  since := s.now
  sent := false
  lost := []
  got := []
  excluded := []
  wrote := 0
  cause := 0
  pins := pins

/-- The roster a coll finds: installed, not retiring, with this device in it (R264, R393). -/
def State.collRoster (s : State) (digest : Nat) : Option (Nat × Roster) :=
  match s.myDie.rosterOf digest with
  | some (i, r) => if r.retiring ∨ !r.members.contains s.member.toNat then none else some (i, r)
  | none => none

/-! ## The wire format (R71, R265) -/

/-- Nibbles packed two to a byte, the first lowest. -/
def packNibbles (n : Nat) (cs : List Nat) : List Byte :=
  match n with
  | 0 => []
  | n + 1 => match cs with
    | [] => []
    | a :: r => BitVec.ofNat 8 (a + 16 * r.headD 0) :: packNibbles n (r.drop 1)

/-- The scale byte of a Q4 block (R57). -/
def CollP.scaleOf (p : CollP) (xs : List ExactNum) : Nat := p.ty * 64 + (blockScale p.ty false xs).field

/-- A contribution's values, codes of SF, in WF: RNE and SAT = 0 throughout. The scale bytes of Q4 follow its codes
(log 22). -/
def CollP.encode (p : CollP) (cs : List Nat) : List Byte :=
  if p.wf = 9 then
    let bs := blocksOf p.bl cs.length (cs.map (decodeFloat p.sf))
    packNibbles cs.length (bs.flatMap fun xs => xs.map (quantise p.ty (p.scaleOf xs % 64) (.rm .rne)))
      ++ bs.map fun xs => BitVec.ofNat 8 (p.scaleOf xs)
  else cs.flatMap fun c => toBytes (fmtBits p.wf / 8) (convertFloat p.sf p.wf (.rm .rne) false c)

/-- Bytes of `n` values in WF. -/
def CollP.wireBytes (p : CollP) (n : Nat) : Nat := if p.wf = 9 then ceilDiv n 2 + ceilDiv n p.bl else n * (fmtBits p.wf / 8)

/-- Value `i` of `n` in WF, as FP32 (R71). -/
def CollP.decodeAt (p : CollP) (n : Nat) (bs : List Byte) (i : Nat) : Nat :=
  if p.wf = 9 then
    let code := (bs.getD (i / 2) 0).toNat / 16 ^ (i % 2) % 16
    let sc := (bs.getD (ceilDiv n 2 + i / p.bl) 0).toNat
    encodeFloat 8 (.rm .rne) false (dequantise (sc / 64) (sc % 64) code)
  else
    let w := fmtBits p.wf / 8
    convertFloat p.wf 8 (.rm .rne) false (ofBytes ((bs.drop (i * w)).take w))

/-- The sum of contributions in ascending member order: the first unrounded, each later one added with one rounding (R71). Of
two NaNs the running sum's comes first in R50's order (log 62). -/
def sumCodes (l : List Nat) : Nat :=
  match l with
  | [] => 0
  | a :: r => r.foldl (fun acc v => encodeFloat 8 (.rm .rne) false (ExactNum.add .rne (decodeFloat 8 acc) (decodeFloat 8 v))) a

/-! ## Sending (R364, R368) -/

/-- A contribution to chunk `ch` sent to a member in wire blocks. -/
def State.sendTo (s : State) (c : Coll) (wf ch : Nat) (bs : List Byte) (member : Nat) : State :=
  ((blocksOf 4096 bs.length bs).zipIdx.foldl (fun (t : State) b =>
    t.sendBlock ⟨c.digest, c.nth, c.self, ch, b.2, wf⟩ member (c.members.getD member 0) b.1) s).tick

/-- Every other member of the roster. -/
def Coll.others (c : Coll) : List Nat := (List.range c.members.length).filter (· != c.self)

/-- A contribution's bytes as far as they have come, in the order of its blocks. -/
def Contribution.data (x : Contribution) : List Byte := x.parts.flatMap fun p => p.2

/-- The chunk's own contribution goes out, or a poison notice in its place. -/
def State.sendOwn (s : State) (c : Coll) (wf : Nat) (x : Contribution) : State :=
  if x.poison then { s with out := (c.others.map fun m => .notice ⟨c.digest, c.nth, c.self, x.chunk, 0, wf⟩ m) ++ s.out }
  else c.others.foldl (fun (t : State) m => t.sendTo c wf x.chunk x.data m) s

/-! ## A collective in its die -/

def DieState.coll (d : DieState) (i : Nat) : Option Coll := d.colls.find? fun c => c.id == i
def State.coll (s : State) (k i : Nat) : Option Coll := (s.die k).coll i
def State.putColl (s : State) (k : Nat) (c : Coll) : State :=
  s.updDie k fun d => { d with colls := d.colls.map fun x => if x.id = c.id then c else x }

/-- Members whose contribution a chunk needs (R411). -/
def Coll.needs (c : Coll) : List Nat :=
  let p := parseColl c.desc
  if p.op = 3 then [p.root] else List.range c.members.length

/-- Everything it waits for before it reads has ended (R105, R247). -/
def State.collMayRead (s : State) (c : Coll) : Bool :=
  let d := s.die (dieOf c.sid)
  c.after.all fun n =>
    if n % 3 = 0 then (d.coll (n / 3)).isNone
    else if n % 3 = 1 then d.launches.all fun l => l.id != n / 3
    else d.sideQ.all fun x => x.id != n / 3

/-- A member's contribution to a chunk as far as it has come. -/
def Coll.have (c : Coll) (m ch : Nat) : Option Contribution := c.got.find? fun x => x.member == m && x.chunk == ch

/-- It has come whole, or a notice in its place. -/
def Coll.whole (c : Coll) (m ch : Nat) : Bool :=
  let p := parseColl c.desc
  match c.have m ch with
  | some x => x.poison || x.data.length == p.wireBytes (p.count ch)
  | none => false

/-- A contribution added or replaced. -/
def Coll.put (c : Coll) (x : Contribution) : Coll :=
  { c with got := x :: c.got.filter fun y => !(y.member == x.member && y.chunk == x.chunk) }

/-- The chunk deadline has passed (R395). -/
def State.deadlinePassed (s : State) (k : Nat) (c : Coll) : Bool :=
  decide (c.since + usClocks (atLeastOne (s.die k).cdead.toNat) < s.now)

/-- Members whose contribution to the chunk in progress is missing. -/
def Coll.missing (c : Coll) : List Nat := c.needs.filter fun m => m != c.self && !c.lost.contains m && !c.whole m c.chunk

/-- An exclusion from a chunk, counted once (R396). -/
def State.exclude (s : State) (k : Nat) (c : Coll) (ch m : Nat) : State × Coll :=
  if c.excluded.contains (ch, m) then (s, c)
  else (s.updDie k fun d => { d with xcnt := satAdd d.xcnt 1 }, { c with excluded := c.excluded ++ [(ch, m)] })

/-- The deadline of the chunk in progress: members still missing are lost for the rest of the collective (R395). -/
def State.pastDeadline (s : State) (k : Nat) (c : Coll) : State × Coll :=
  if s.deadlinePassed k c && c.cause == 0 && decide (c.chunk < (parseColl c.desc).chunks) then
    c.missing.foldl (fun (p : State × Coll) m =>
      let (t, d) := p.1.exclude k p.2 c.chunk m
      (t, { d with lost := m :: d.lost, got := d.got.filter fun x => x.member != m })) (s, c)
  else (s, c)

/-! ## Fragments (R245, R265) -/

/-- Some byte of a range waits for a mark, a pin or a row. -/
def State.rangeWaits (s : State) (c : Coll) (ds : List Side) : Bool :=
  ds.any fun d => match s.checkSide c.agent (c.pins.map (·.entry)) d with
    | .wait _ => true
    | .ok h => s.piecesWait h.pieces none
    | .fail _ => false

/-- Bytes [o, o + n) taken in fragments from byte `u` on: each is checked, pinned and performed by `f`; the first that fails
stops the collective with its cause, and a fault record where R321 calls for one. -/
def State.collFragments (side : Word → Side) (read : Bool) (f : State → Nat → List (List Hit × List Hit) → State) (o : Word)
    (n u : Nat) (fuel : Nat) (s : State) (c : Coll) : State × Coll :=
  match fuel with
  | 0 => (s, c)
  | fuel + 1 =>
    if n ≤ u then (s, c)
    else
      let at_ (i : Nat) := o + BitVec.ofNat 64 i
      let key (i : Nat) := [s.subKey c.agent (at_ i)]
      let m := runLen key (key u) u (n - u)
      let us := (List.range m).map fun i => if read then Move.mk [side (at_ (u + i))] [] (at_ (u + i)) else ⟨[], [side (at_ (u + i))], at_ (u + i)⟩
      match s.checkFragment c.agent (c.pins.map (·.entry)) us with
      | .wait w => (s.noteAwait w, c)
      | .fail x a _ => (s.recordFail c.agent x a, { c with cause := x.cause })
      | .ok hs =>
        State.collFragments side read f o n (u + m) fuel (f s u hs)
          { c with pins := fragPins c.agent.asid hs c.pins, wrote := if read then c.wrote else c.wrote + m }

/-- Bytes written to an object address in fragments. -/
def State.collWrite (s : State) (c : Coll) (o : Word) (bs : List Byte) : State × Coll :=
  State.collFragments (fun a => sideWrite false a 0 8) false
    (fun t u hs => t.flagUnits (hs.zipIdx.foldl (fun (t : State) p => match p.1.2 with
      | h :: _ => t.writeHit h (bs.getD (u + p.2) 0).toNat
      | [] => t) (t.openUnits hs)) hs) o bs.length 0 bs.length s c

/-- The ECC effects of reading a source in fragments. -/
def State.collRead (s : State) (c : Coll) (o : Word) (n : Nat) : State × Coll :=
  State.collFragments (fun a => sideRead false a 0 8) true (fun t _ hs => t.openUnits hs) o n 0 n s c

/-- The wait of a range starts the timeouts of locked rows (R141). -/
def State.noteRange (s : State) (c : Coll) (ds : List Side) : State :=
  ds.foldl (fun (t : State) d => t.noteChk (s.checkSide c.agent (c.pins.map (·.entry)) d)) s

/-- What the bytes of a range reach, where their checks pass. -/
def State.rangeHits (s : State) (c : Coll) (o : Word) (n : Nat) : List Hit :=
  hitsOf s c.agent (c.pins.map (·.entry)) ((List.range n).map fun i => sideRead false (o + BitVec.ofNat 64 i) 0 8)

/-- The module's own contribution to the chunk: read, encoded and sent (R265 step 1, R395). -/
def State.contribute (s : State) (c : Coll) : State × Coll :=
  let p := parseColl c.desc
  if c.sent ∨ !c.needs.contains c.self then (s, { c with sent := true })
  else
    let w := fmtBits p.sf / 8
    let n := p.count c.chunk * w
    let o := p.src + BitVec.ofNat 64 (c.chunk * p.elems * w)
    let sides := (List.range n).map fun i => sideRead false (o + BitVec.ofNat 64 i) 0 8
    if s.rangeWaits c sides then (s.noteRange c sides, c)
    else
      let (t, d) := s.collRead c o n
      if d.cause ≠ 0 then (t, d)
      else
        let hs := s.rangeHits c o n
        let bytes := hs.map fun h => BitVec.ofNat 8 (t.readPieces h.pieces)
        let bad := hs.any fun h => t.piecesPoisoned h.pieces
        let x : Contribution := ⟨c.self, c.chunk, if bad then [] else Sparse.put [] [] 0 (p.encode (valuesOf p.sf n bytes)), bad⟩
        ((t.sendOwn c p.wf x), { d with sent := true }.put x)

/-! ## A chunk's result (R265, R266) -/

/-- Contributors to the chunk in progress, ascending, with their values as FP32. -/
def Coll.values (c : Coll) : List (Nat × List Nat) :=
  let p := parseColl c.desc
  let n := p.count c.chunk
  c.needs.filterMap fun m => if c.lost.contains m then none else match c.have m c.chunk with
    | some x => if x.poison then none else some (m, (List.range n).map (p.decodeAt n x.data))
    | none => none

/-- The elements of DST that a chunk gives a member: the first, and how many (R265). -/
def CollP.span (p : CollP) (members m ch : Nat) : Nat × Nat :=
  let lo := ch * p.elems
  let n := p.count ch
  if p.op = 2 then (m * p.len + lo, n)
  else if p.op = 1 then
    let sz := p.len / members
    let clip (x : Nat) := Nat.min (Nat.max x (m * sz)) (m * sz + sz) - m * sz
    (clip lo, clip (lo + n) - clip lo)
  else (lo, n)

/-- What the chunk writes: elements of DST from a place on. -/
def Coll.results (c : Coll) (vs : List (Nat × List Nat)) : List (Nat × List Nat) :=
  let p := parseColl c.desc
  let m := c.members.length
  let red := (List.range (p.count c.chunk)).map fun i => sumCodes (vs.map fun v => v.2.getD i 0)
  if vs.isEmpty then []
  else if p.op = 2 then vs.map fun v => ((p.span m v.1 c.chunk).1, v.2)
  else if p.op = 1 then
    let (a, n) := p.span m c.self c.chunk
    [(a, (red.drop (a + c.self * (p.len / m) - c.chunk * p.elems)).take n)]
  else [((p.span m c.self c.chunk).1, if p.op = 3 then (vs.head?.map (·.2)).getD [] else red)]

/-- The bytes of values in DF (R265 step 3). -/
def CollP.dfBytes (p : CollP) (vs : List Nat) : List Byte :=
  vs.flatMap fun v => toBytes (fmtBits p.df / 8) (convertFloat 8 p.df (.rm .rne) false v)

/-- The cause with which a record's memory drops its writes (R265). -/
def State.recordDrop (s : State) (ps : List Piece) : Nat :=
  let at_ (q : Nat → Bool) := ps.any fun p => p.place.addr.any q
  if at_ fun a => s.region a == some .host && !s.hostUp then 0x12
  else if at_ fun a => match s.region a with
    | some .lpddr => s.badChannels.contains (channelOf a)
    | some (.cxl g) => (s.die g).port.linkLost
    | _ => false then 9
  else 0

/-- The first failure to write `n` bytes of the record, 0 for none. -/
def State.recordCause (s : State) (c : Coll) (o : Word) (n : Nat) : Nat :=
  match s.walk c.agent .engWrite (c.pins.map (·.entry)) o 1 0 (8 * n) with
  | .ok h => s.recordDrop h.pieces
  | .fail f => f.cause
  | .wait _ => 0

/-- Words written to the record. -/
def State.recordWrite (s : State) (c : Coll) (o : Word) (ws : List Word) : State × Coll :=
  (s.agentWrite c.agent (c.pins.map (·.entry)) o (ofWords ws),
   if c.cause = 0 then { c with cause := s.recordCause c o (8 * ws.length) } else c)

/-- A chunk entry: COUNT, then EXMASK (R266). -/
def chunkEntry (m count : Nat) (ex : List Nat) : List Word :=
  let mask := (ex.map fun i => 2 ^ i).sum
  BitVec.ofNat 64 count :: (List.range (ceilDiv m 64)).map fun i => BitVec.ofNat 64 (mask / 2 ^ (64 * i))

/-- The chunk in progress is reduced, written and entered in the record. -/
def State.finishChunk (s : State) (k : Nat) (c : Coll) : State × Coll :=
  let p := parseColl c.desc
  let m := c.members.length
  let vs := c.values
  let outs := (c.results vs).map fun r => (p.dst + BitVec.ofNat 64 (r.1 * (fmtBits p.df / 8)), p.dfBytes r.2)
  let sides := outs.flatMap fun r => (List.range r.2.length).map fun i => sideWrite false (r.1 + BitVec.ofNat 64 i) 0 8
  let entry := p.crec + BitVec.ofNat 64 (64 + c.chunk * entryBytes m)
  let chk := s.walk c.agent .engWrite (c.pins.map (·.entry)) entry 1 0 (8 * entryBytes m)
  if s.rangeWaits c sides || s.chkWaits chk then ((s.noteRange c sides).noteChk chk, c)
  else
    let ex := c.needs.filter fun i => !(vs.any fun v => v.1 == i)
    let (s1, c1) := ex.foldl (fun (q : State × Coll) i => q.1.exclude k q.2 c.chunk i) (s, c)
    let (s2, c2) := outs.foldl (fun (q : State × Coll) r => if q.2.cause ≠ 0 then q else q.1.collWrite q.2 r.1 r.2) (s1, c1)
    if c2.cause ≠ 0 then (s2, c2)
    else
      let (s3, c3) := s2.recordWrite c2 entry (chunkEntry m vs.length ex)
      (s3, if c3.cause ≠ 0 then c3
        else { c3 with chunk := c.chunk + 1, since := s.now, sent := false, got := c3.got.filter fun x => x.chunk != c.chunk })

/-- COLLECTIVE_CHUNK (R265): the module contributes, and the chunk ends once nothing it needs is missing. -/
def execCollectiveChunk (k : Die) (i : Nat) (s : State) : Host.Outcome State Fault Refusal :=
  run (fun s => match s.coll k.val i with
    | some c =>
      if c.cause ≠ 0 ∨ (parseColl c.desc).chunks ≤ c.chunk ∨ !s.collMayRead c then s
      else
        let (t, d) := s.contribute c
        let (u, e) := if d.cause ≠ 0 ∨ !d.sent ∨ !d.missing.isEmpty then (t, d) else t.finishChunk k.val d
        u.putColl k.val e
    | none => s) s

/-! ## What arrives (R372, R394, R395) -/

/-- What a member may still contribute to a chunk: one that the chunk needs, not lost, of a chunk not yet completed. -/
def Coll.expects (c : Coll) (m ch : Nat) : Bool :=
  c.needs.contains m && m != c.self && !c.lost.contains m && decide (c.chunk ≤ ch) && decide (ch < (parseColl c.desc).chunks)

/-- A block's bytes at their place in its member's contribution. -/
def Coll.receive (c : Coll) (w : WireId) (bs : List Byte) : Coll :=
  let p := parseColl c.desc
  let old := (c.have w.member w.chunk).getD ⟨w.member, w.chunk, [], false⟩
  if !c.expects w.member w.chunk ∨ old.poison ∨ p.wireBytes (p.count w.chunk) < 4096 * w.index + bs.length then c
  else c.put { old with parts := old.parts.put [] w.index bs }

/-- A poison notice in place of a contribution that has not come whole. -/
def Coll.notice (c : Coll) (w : WireId) : Coll :=
  if !c.expects w.member w.chunk ∨ c.whole w.member w.chunk then c else c.put ⟨w.member, w.chunk, [], true⟩

/-- What came before the collective was issued, if it is of this one. -/
def Coll.takeEarly (c : Coll) (e : Early) : Coll :=
  if e.w.digest = c.digest ∧ e.w.nth = c.nth then (if e.poison then c.notice e.w else c.receive e.w e.body) else c

/-- The collective of die `k` that a block or notice meets: the one of its digest and its place in the issue order (R394). -/
def State.matching (s : State) (k : Nat) (w : WireId) : Option Coll :=
  (s.die k).colls.find? fun c => c.digest == w.digest && c.nth == w.nth

/-- The device has yet to issue the collective something names: its place lies ahead on the roster, or the roster is still to
come (R394). -/
def DieState.ahead (d : DieState) (w : WireId) : Bool :=
  match d.rosterOf w.digest with
  | some (_, r) => decide (r.total ≤ w.nth)
  | none => true

/-- What comes for a collective this device has yet to issue is kept for it (R394, R395; log 71). -/
def State.keepEarly (s : State) (k : Nat) (e : Early) : State :=
  if (s.die k).ahead e.w then s.updDie k fun d => { d with early := d.early ++ [e] } else s

/-- A collective meets what has come for it, once the deadline has had its say. -/
def State.meet (s : State) (k : Nat) (e : Early) : State :=
  match s.matching k e.w with
  | some c => (s.pastDeadline k c).1.putColl k ((s.pastDeadline k c).2.takeEarly e)
  | none => s.keepEarly k e

/-- WIRE_BLOCK_RECEIVE (R370, R372): a block that comes for a collective of die `k`, and those that waited for it. -/
def execWireBlockReceive (k : Die) (c : CollName) (x : WirePart) (g : PortGroup) (chan : Nat) (bs : List Byte) (s : State) :
    Host.Outcome State Fault Refusal :=
  run (fun s =>
    let p := (s.die g.val).port
    let w : WireId := ⟨c.digest, c.nth, x.member, x.chunk, x.index, x.wf⟩
    if p.pers < 2 then s
    else
      let r := (p.recv.get Chan.reset chan).receive p.pers (p.codes g.val chan) k.val w bs
      r.1.foldl (fun (t : State) x => t.meet x.1 ⟨x.2.1, x.2.2, false⟩)
        (s.updPort g.val fun p => { p with recv := p.recv.put Chan.reset chan r.2 })) s

/-- POISON_NOTICE (R395). -/
def execPoisonNotice (k : Die) (c : CollName) (m ch : Nat) (s : State) : Host.Outcome State Fault Refusal :=
  run (fun s => s.meet k.val ⟨⟨c.digest, c.nth, m, ch, 0, 0⟩, [], true⟩) s

/-- CHUNK_DEADLINE (R395). -/
def execChunkDeadline (k : Die) (i : Nat) (s : State) : Host.Outcome State Fault Refusal :=
  run (fun s => match s.coll k.val i with
    | some c => let (t, d) := s.pastDeadline k.val c; t.putColl k.val d
    | none => s) s

/-! ## The end (R265, R266, R396, R410) -/

/-- The damage record of an excluded member (R388, R396). -/
def Coll.exclusion (c : Coll) (m : Nat) : Damage :=
  let p := parseColl c.desc
  let chs := (c.excluded.filter fun x => x.2 == m).map (·.1)
  let a := chs.foldl Nat.min (chs.headD 0)
  let b := chs.foldl Nat.max 0
  let who := if p.op = 2 then m else c.self
  let first := (p.span c.members.length who a).1
  let (l, n) := p.span c.members.length who b
  let w := fmtBits p.df / 8
  let bytes := (l + n - first) * w
  { kind := 1, cause := 0x11, srck := 5, phys := false, asid := c.agent.asid, opmask := 0, afc := 0, swc := 0
    unit := c.members.getD m 0, aux := m
    addr := if bytes = 0 then 0 else (p.dst + BitVec.ofNat 64 (first * w)).toNat
    len := bytes, pc := c.pc.toNat, desc := c.daddr.toNat }

/-- The record's header (R266). -/
def Coll.header (c : Coll) : List Word :=
  let status := if c.cause ≠ 0 then 3 else if c.excluded.isEmpty then 1 else 2
  let cause := if c.cause ≠ 0 then c.cause else if c.excluded.isEmpty then 0 else 0x11
  [BitVec.ofNat 64 (status + cause * 256 + (parseColl c.desc).chunks * 2 ^ 32),
   BitVec.ofNat 64 (c.members.length + c.self * 65536), BitVec.ofNat 64 c.digest, 0, 0, 0, 0, 0]

/-- The collective's end (R266): exclusions' damage records, the header, the arrival or the failure, and the roster's slot. -/
def State.endColl (s : State) (k : Nat) (c : Coll) : State :=
  let p := parseColl c.desc
  let holds := c.pins.map (·.entry)
  let gone := (List.range c.members.length).filter fun m => c.excluded.any fun x => x.2 == m
  let s1 := gone.foldl (fun (t : State) m => t.damage k (c.exclusion m)) s
  let d := if c.cause = 0 then { c with cause := s1.recordCause c p.crec 64 } else c
  let s2 := s1.agentWrite d.agent holds p.crec (ofWords d.header)
  (s2.barrierUpd d.agent holds p.bar (if d.cause = 0 then Bar.arrive d.wrote else Bar.fail d.cause d.wrote)).updDie k fun x =>
    { x with colls := x.colls.filter fun y => y.id != c.id }.rosterDone c.digest

/-- COLLECTIVE_COMPLETE (R266), once the record's and the barrier's rows let it. -/
def execCollectiveComplete (k : Die) (i : Nat) (s : State) : Host.Outcome State Fault Refusal :=
  run (fun s => match s.coll k.val i with
    | some c =>
      let p := parseColl c.desc
      let holds := c.pins.map (·.entry)
      if c.cause = 0 ∧ c.chunk < p.chunks then s
      else s.whenRec c.agent holds p.crec 64 (s.whenBar c.agent holds p.bar (s.endColl k.val c))
    | none => s) s

/-! ## The instructions (R264, R267) -/

/-- The hand-over: one more collective in flight on the roster, with what has come for it (R394). -/
def DieState.addColl (d : DieState) (slot : Nat) (r : Roster) (c : Coll) : DieState :=
  { d with
    colls := d.colls ++ [d.early.foldl Coll.takeEarly c]
    collNext := d.collNext + 1
    rosters := d.rosters.put none slot (some { r with issued := r.issued + 1, total := r.total + 1 })
    early := d.early.filter fun e => !(e.w.digest == c.digest && e.w.nth == c.nth) }

/-- COLL (R264): the first word out of range traps, an unknown roster at its own word (log 71). -/
def execColl (a : GReg) (sc : Scope) (acq rel : Bool) (s : State) : Host.Outcome State Fault Refusal :=
  run (fun s =>
    let da := s.me.getG a
    s.withDesc da fun s ws =>
      let p := parseColl ws
      let found := s.collRoster p.digest
      let ok := collOk ws (found.map fun x => x.2.members.length)
      s.withFields da (ok.take 6) (match found with
        | none => s.trap 8 (da + 40)
        | some (slot, r) => s.withFields da ok (
          s.withBarWord p.bar fun hb => s.withRecWord p.crec 64 (p.recordBytes r.members.length) fun hr =>
            if 256 ≤ s.myDie.colls.length then s.waitIssued ws (hb ++ hr)
            else (s.updDie (dieOf s.cur) fun d => d.addColl slot r
              (newColl d.collNext s sc acq rel ws da r (r.members.idxOf s.member.toNat) (hb ++ hr))).done))) s

/-- CPOLL (R267). -/
def execCpoll (d a : GReg) (_sc : Scope) (_acq : Bool) (s : State) : Host.Outcome State Fault Refusal :=
  run (fun s =>
    let mine := s.myDie.colls.filter fun c => c.sid == s.cur && wordAt c.desc 4 == s.me.getG a
    s.retireWith d (match mine.getLast? with
      | some c => BitVec.ofNat 64 (c.chunk + (!c.excluded.isEmpty).toNat * 2 ^ 33)
      | none => 0x100000000)) s

end Sys2Proof.Machine
end

