-- ==== Sys2Proof/Machine/Trans.lean ====
section
/-! DEFINITION. The translation agent's commands (R312-R315, R380) and relocation (R316-R318). A die's commands are taken
one after another, one sub-tile a turn (log 21). -/

namespace Sys2Proof.Machine

/-! ## Descriptors (R313) -/

/-- A command descriptor's fields. -/
structure TDesc where
  op : Nat
  tstate : Nat
  zf : Bool
  which : Bool
  asid : Nat
  obj : Nat
  j : Nat
  n : Nat
  loc : Nat
  bar : Nat
  crec : Nat
  /-- Every bit marked zero is zero. -/
  zeros : Bool
  deriving DecidableEq, Repr

/-- The fields of a descriptor's eight words (R313). Bits [63:48] of LOC, BAR and CREC count as fields marked zero (log 47). -/
def parseTDesc (ws : List Word) : TDesc :=
  let w (i : Nat) := wordAt ws i
  { op := wbits (w 0) 0 8
    tstate := wbits (w 0) 8 3
    zf := (w 0).getLsbD 11
    which := (w 0).getLsbD 12
    asid := wbits (w 0) 16 12
    obj := wbits (w 1) 0 24
    j := wbits (w 2) 0 28
    n := wbits (w 2) 32 29
    loc := wbits (w 3) 0 48
    bar := wbits (w 4) 0 48
    crec := wbits (w 5) 0 48
    zeros := wbits (w 0) 13 3 == 0 && wbits (w 0) 28 36 == 0 && wbits (w 1) 24 40 == 0 && wbits (w 2) 28 4 == 0
      && wbits (w 2) 61 3 == 0 && wbits (w 3) 48 16 == 0 && wbits (w 4) 48 16 == 0 && wbits (w 5) 48 16 == 0
      && w 6 == 0 && w 7 == 0 }

/-- The barrier word and the completion record the command may write, 0 for none. -/
def TDesc.useBar (t : TDesc) : Nat := if t.bar % 64 = 0 then t.bar else 0
def TDesc.useCrec (t : TDesc) : Nat := if t.crec % 32 = 0 then t.crec else 0

/-- The target states a command allows; a RELOC's must be that of its location's region, where it has one (R314). -/
def State.tstateOk (s : State) (t : TDesc) : Bool :=
  match t.op with
  | 1 => t.tstate ≤ 4
  | 2 => t.tstate == 0 || (decide (2 ≤ t.tstate) && t.tstate ≤ 4 && (s.locTier t.loc == 0 || s.locTier t.loc == t.tstate))
  | 3 => t.tstate ≤ 1
  | _ => t.tstate == 0

/-- The descriptor checks that fail with cause 0x02 (R313, R315). -/
def State.tdescOk (s : State) (t : TDesc) : Bool :=
  t.zeros && decide (1 ≤ t.op) && t.op ≤ 6 && s.tstateOk t && (!t.zf || t.op == 1) && (!t.which || t.op == 5)
    && t.bar % 64 == 0 && t.crec % 32 == 0
    && (if t.op ≤ 4 then decide (1 ≤ t.n) && t.n ≤ 268435456
        else t.j == 0 && t.n == 0 && t.loc == 0 && (t.op == 5 || t.obj == 0))

/-- The record of the command's object at an address. -/
def State.recAt (s : State) (ra : Nat) : Rec := parseRec (toWords 8 (s.readBytes ra 64))

/-- The address of the command's object record; a window and number 0 have none. -/
def TDesc.record (t : TDesc) (tb : Word) : Option Nat :=
  if t.obj = 0 ∨ 0xFFFFE0 ≤ t.obj then none else recAddr tb t.obj

/-- The first failure of a command at its start, 0 for none (R315, R363). A record of KIND 10 or 11 has no residency: a command
on its sub-tiles fails with 0x08 (log 47). -/
def State.tStart (s : State) (t : TDesc) (tb : Word) : Nat :=
  if !s.tdescOk t then 2
  else if t.op = 6 then 0
  else match t.record tb with
  | none => 8
  | some ra =>
    let r := s.recAt ra
    if s.windowRefused ra then 7
    else if !s.recValid r ∨ (t.op ≠ 5 ∧ 2 ≤ r.kind) then 8
    else if t.op ≠ 5 ∧ r.subCount < t.j + t.n then 6
    else 0

/-! ## Ending (R315, R380) -/

/-- The object address of the first byte of sub-tile `j` (R302, R315). -/
def TDesc.subAddr (t : TDesc) (r : Rec) (j : Nat) : Word := r.subFirst t.obj j

/-- What a command writes at its end. -/
def TDesc.endPieces (t : TDesc) : List Piece :=
  (if t.useCrec = 0 then [] else bytePieces t.useCrec 32) ++ (if t.useBar = 0 then [] else bytePieces t.useBar 64)

/-- A command's end, once the rows it writes let it; until then `s` is tried again (R107, R140, R141). -/
def State.whenEnd (s : State) (t : TDesc) (k : State) : State :=
  if s.piecesWait t.endPieces none then s.notePieces t.endPieces none else k

/-- A command of die `k` ends, with `done` sub-tiles finished and `bytes` counted: its record, then its barrier word. -/
def State.tEnd (s : State) (k : Nat) (t : TDesc) (done bytes cause : Nat) (faddr : Word) : State :=
  let s1 := if t.useCrec = 0 then s
    else s.physWrite t.useCrec (crecBytes (if cause = 0 then 1 else 2) cause 0 done (if cause = 0 then 0 else faddr))
  let s2 := s1.barrierPhys t.useBar (if cause = 0 then Bar.arrive bytes else Bar.fail cause bytes)
  s2.updDie k fun d =>
    { d with tcmds := d.tcmds.tail, norep := d.norep || (cause != 0 && t.useCrec == 0 && t.useBar == 0) }

/-- One more sub-tile finished, of `size` bytes moved for a RELOC (R380). -/
def TCmd.finish (c : TCmd) (t : TDesc) (size : Nat) : TCmd :=
  { c with done := c.done + 1, bytes := c.bytes + if t.op = 2 then size else 0 }

/-- The command at the head of die `k`'s queue has finished one more sub-tile; with the last it ends, and so it does, failed,
where a request of it failed in flight meanwhile (R364). -/
def State.tAdvance (s : State) (k : Nat) (t : TDesc) (size : Nat) : State :=
  match (s.die k).tcmds with
  | [] => s
  | c :: r =>
    let d := c.finish t size
    let s1 := s.updDie k fun x => { x with tcmds := d :: r }
    match c.late with
    | some a => s1.whenEnd t (s.tEnd k t d.done d.bytes 7 a)
    | none => if d.done < t.n then s1 else s1.whenEnd t (s.tEnd k t d.done d.bytes 0 0)

/-! ## Locations (R304, R313, R318) -/

/-- Where the command puts its sub-tile number `i`, counted from J: bit-plane sub-tiles in tier 1 go to consecutive mittens. -/
def TDesc.target (t : TDesc) (r : Rec) (i : Nat) : Option Nat :=
  if r.layout ≥ 2 ∧ isTier1 t.loc then
    if rowKey t.loc % 2560 + i < 2560 then some (t.loc + 32768 * i) else none
  else some (t.loc + r.subSize * i)

/-- The location fits the target state: its region, and R304. -/
def State.locFits (s : State) (r : Rec) (loc st : Nat) : Bool :=
  s.locValid r loc && (if st = 1 then s.locTier loc == 2 || s.locTier loc == 3 else s.locTier loc == st)

/-- A location INSTALL and RELOC may not place a sub-tile at (R318, R363). -/
def State.locRefused (s : State) (r : Rec) (loc : Nat) : Bool := s.dupRefused r loc || s.windowRefused loc

/-! ## One sub-tile (R314) -/

/-- Where a command goes with a sub-tile: it waits, for rows where `s` has noted them, it fails with a cause, it has finished, or
its move is under way. -/
inductive TOut where
  | wait (s : State)
  | fail (cause : Nat)
  | done (s : State)
  | moving (s : State)

/-- Residency states a command accepts. -/
def tAccepts (op st : Nat) : Bool :=
  match op with
  | 1 => [0, 1, 6].contains st
  | 2 => [2, 3, 4].contains st
  | _ => [1, 2, 3, 4, 6].contains st

/-- Some pin is held on an entry. -/
def State.pinned (s : State) (ea : Nat) : Bool := s.otherPins ea + s.arrayPins ea != 0

/-- The location of an INSTALL or EVICT that names one; ABSENT has none, and LOC 0 reserves none for ZERO. -/
def TDesc.place (t : TDesc) (r : Rec) (i : Nat) : Option Nat :=
  if t.tstate = 0 ∨ (t.tstate = 1 ∧ t.loc = 0) then some 0 else t.target r i

/-- The place an INSTALL or EVICT gives its sub-tile breaks R304, R313 or, for INSTALL, R318. -/
def State.badPlace (s : State) (t : TDesc) (r : Rec) (i : Nat) : Bool :=
  match t.place r i with
  | none => true
  | some loc => !(t.tstate == 0 || (t.tstate == 1 && t.loc == 0))
      && (!s.locFits r loc t.tstate || (t.op == 1 && s.locRefused r loc))

/-- INSTALL of a sub-tile. That the row poison of a tier-1 location goes in every layout, and with ZF 0 too, is the model's reading
of R319's last sentence (log 56). -/
def State.installSub (s : State) (t : TDesc) (r : Rec) (ea : Nat) (e : Ent) (i : Nat) : TOut :=
  let loc := (t.place r i).getD 0
  if s.badPlace t r i then .fail 6
  else if s.pinned ea then .wait s
  else
    let named := !(t.tstate == 0 || (t.tstate == 1 && t.loc == 0))
    let fill := named && (t.zf || e.state == 6)
    if fill && (r.rowsAt loc).any fun a => s.rowWaits a none then .wait (s.whenFree (r.rowsAt loc) s)
    else
    let s1 := if fill then s.zeroSub r loc else s
    let s2 := if named then s1.clearRows r loc (decide (2 ≤ r.layout)) else s1
    .done (s2.writeEnt r ea { e with state := t.tstate, loc0 := loc, loc1 := 0 })

/-- EVICT of a sub-tile. -/
def State.evictSub (s : State) (t : TDesc) (r : Rec) (ea : Nat) (e : Ent) (i : Nat) : TOut :=
  if s.badPlace t r i then .fail 6
  else if s.pinned ea then .wait s
  else .done (s.writeEnt r ea { e with state := t.tstate, loc0 := (t.place r i).getD 0, loc1 := 0 })

/-- MARKP of a sub-tile; POISONED stays unchanged. -/
def State.markSub (s : State) (_t : TDesc) (r : Rec) (ea : Nat) (e : Ent) (_i : Nat) : TOut :=
  if s.pinned ea then .wait s
  else .done (if e.state = 6 then s else s.writeEnt r ea { e with state := 6 })

/-- RELOC of a sub-tile up to MOVING (R316): the destination's rows are cleared and sealed before their first write. -/
def State.relocSub (k ra j : Nat) (s : State) (t : TDesc) (r : Rec) (ea : Nat) (e : Ent) (i : Nat) : TOut :=
  if r.relst = 1 then .fail 8
  else match t.target r i with
  | none => .fail 6
  | some dst =>
    if (t.tstate ≠ 0 ∧ s.locTier dst ≠ t.tstate) ∨ !s.locFits r dst (s.locTier dst) ∨ s.locRefused r dst then .fail 6
    else if s.arrayPins ea ≠ 0 then .wait s
    else .moving (((s.writeEnt r ea { e with state := 5, loc1 := dst }).clearRows r dst true).updDie k fun d =>
      { d with relocs := d.relocs ++ [⟨d.relocNext, ea, ra, j, e.loc0, dst, r.subSize, false, false⟩]
               relocNext := d.relocNext + 1 })

/-- The command at the head of die `k`'s queue acts on its next sub-tile. A sub-tile that is MOVING is waited for, its own move to
its end, and so are the rows of the record and the entry. -/
def State.tSub (s : State) (k : Nat) (c : TCmd) (t : TDesc)
    (act : Nat → Nat → State → TDesc → Rec → Nat → Ent → Nat → TOut) : State :=
  match t.record c.tb with
  | none => s.whenEnd t (s.tEnd k t c.done c.bytes 8 0)
  | some ra => if (s.die k).relocs ≠ [] then s else s.whenFree [ra] <|
    let r := s.recAt ra
    let j := t.j + c.done
    let ea := r.rta + 16 * j
    s.whenFree [ea] <|
    let e := s.readEnt ea
    let stop (cause : Nat) := s.whenEnd t (s.tEnd k t c.done c.bytes cause (t.subAddr r j))
    if t.n ≤ c.done then s.whenEnd t (s.tEnd k t c.done c.bytes 0 0)
    else if s.windowRefused ra ∨ s.windowRefused ea then stop 7
    else if !s.recValid r ∨ 2 ≤ r.kind ∨ r.subCount ≤ j ∨ !s.entValid r e then stop 8
    else if e.state = 5 then s
    else if !tAccepts t.op e.state then stop 8
    else match act ra j s t r ea e c.done with
    | .wait s' => s'
    | .fail cause => stop cause
    | .done s' => s'.tAdvance k t r.subSize
    | .moving s' => s'

/-! ## COUNT and FLUSH (R314) -/

/-- COUNT: FBCNT or OOCNT of the record goes up by 1, holding at its maximum. -/
def State.countCmd (s : State) (k : Nat) (c : TCmd) (t : TDesc) : State :=
  match t.record c.tb with
  | none => s.whenEnd t (s.tEnd k t 0 0 8 0)
  | some ra => s.whenFree [ra] <| s.whenEnd t ((if t.which then s.countUp (ra + 4) 2 else s.countUp (ra + 6) 1).tEnd k t 0 0 0 0)

/-- Every pin held in the module (R90, R309). -/
def State.allPins (s : State) : List Pin :=
  (s.strands.flatMap fun p => p.2.pins)
    ++ (s.cores.flatMap fun p => p.2.copyQ.flatMap Cmd.pins ++ p.2.streams.flatMap fun q => q.2.pins)
    ++ s.dies.flatMap fun p => (p.2.layoutQ ++ p.2.sideQ).flatMap Cmd.pins ++ p.2.colls.flatMap Coll.pins
        ++ (p.2.farms.flatMap fun f => match f.2 with | some x => x.pins | none => [])
        ++ (p.2.alocks.flatMap fun a => a.2.pins) ++ p.2.launches.flatMap Launch.pins

/-- FLUSH: once the asid holds no pin, no cache holds anything of it, under whatever base it was cached (log 18). -/
def State.flushCmd (s : State) (k : Nat) (_c : TCmd) (t : TDesc) : State :=
  if s.allPins.any fun p => p.asid == t.asid then s
  else s.whenEnd t ((s.dropAsid t.asid).tEnd k t 0 0 0 0)

/-! ## The turn of a die's translation agent -/

/-- The descriptor of the command at `a` cannot be read (R363, R347). -/
def State.tUnread (s : State) (a : Nat) : Nat :=
  if s.windowRefused a then 7 else if s.region a = some .host ∧ !s.hostUp then 0x12 else 0

/-- The first turn of a command: its descriptor, its table base and its record are read, once their rows let it, and it is
checked. FADDR of one that fails there is the object's first byte, the model's choice where no sub-tile fails (log 47). -/
def State.tBegin (s : State) (k : Nat) (c : TCmd) (rest : List TCmd) : State :=
  s.whenFree [c.addr] <|
  let s := if s.tUnread c.addr = 0 then s.eccRead c.addr 64 else s
  let ws := if s.tUnread c.addr = 0 then toWords 8 (s.readBytes c.addr 64) else []
  let t := parseTDesc ws
  let tb := s.astabBase k t.asid
  s.whenFree (s.astabAddr k t.asid :: (t.record tb).toList) <|
  let cause := if s.tUnread c.addr = 0 then s.tStart t tb else s.tUnread c.addr
  if cause = 0 then
    s.updDie k fun d => { d with tcmds := { c with desc := ws, started := true, tb := tb } :: rest }
  else s.whenEnd t (s.tEnd k t 0 0 cause (BitVec.ofNat 64 (t.obj * 1099511627776)))

/-- A turn of die `k`'s agent for operation `op`: the command at the head of its queue begins, or goes on if it is one. -/
def State.tTurn (s : State) (k op : Nat) (f : State → TCmd → TDesc → State) : State :=
  match (s.die k).tcmds with
  | [] => s
  | c :: rest =>
    if !c.started then s.tBegin k c rest
    else
      let t := parseTDesc c.desc
      if t.op = op then f s c t else s

/-- INSTALL (R314). -/
def execInstall (k : Die) (s : State) : Host.Outcome State Fault Refusal :=
  run (fun s => s.tTurn k.val 1 fun s c t => s.tSub k.val c t fun _ _ => State.installSub) s

/-- RELOC (R314, R316). -/
def execReloc (k : Die) (s : State) : Host.Outcome State Fault Refusal :=
  run (fun s => s.tTurn k.val 2 fun s c t => s.tSub k.val c t fun ra j => State.relocSub k.val ra j) s

/-- EVICT (R314). -/
def execEvict (k : Die) (s : State) : Host.Outcome State Fault Refusal :=
  run (fun s => s.tTurn k.val 3 fun s c t => s.tSub k.val c t fun _ _ => State.evictSub) s

/-- MARKP (R314). -/
def execMarkp (k : Die) (s : State) : Host.Outcome State Fault Refusal :=
  run (fun s => s.tTurn k.val 4 fun s c t => s.tSub k.val c t fun _ _ => State.markSub) s

/-- COUNT (R314). -/
def execCount (k : Die) (s : State) : Host.Outcome State Fault Refusal :=
  run (fun s => s.tTurn k.val 5 fun s c t => s.countCmd k.val c t) s

/-- FLUSH (R314). -/
def execFlush (k : Die) (s : State) : Host.Outcome State Fault Refusal :=
  run (fun s => s.tTurn k.val 6 fun s c t => s.flushCmd k.val c t) s

/-! ## Relocation (R316, R317) -/

def DieState.reloc (d : DieState) (id : Nat) : Option Reloc := d.relocs.find? fun r => r.id == id

/-- Writes cannot reach the destination now (R316, R357, R378). -/
def State.destGone (s : State) (r : Reloc) : Bool :=
  r.destFailed || (match s.region r.dst with
    | none => true
    | some .lpddr => (List.range (r.size / 4096)).any fun i => s.badChannels.contains (channelOf (r.dst + 4096 * i))
    | some (.cxl g) => (s.die g).port.linkLost
    | some .host => !s.hostUp
    | some (.tier1 _) => false)

/-- Elements of a bit-plane sub-tile turned between its layouts, `n` of them (R117, R317). -/
def State.turnSub (s : State) (r : Rec) (src dst n : Nat) : State :=
  let w := r.bits
  (List.range n).foldl (fun (t : State) k =>
    let ps := r.planePieces src k 0 w
    let pd := r.planePieces dst k 0 w
    let pn := pnPlanes (some r)
    let v := t.readCode pn k ⟨.bytes ps, [], [], []⟩
    t.writePieces .agent pd (if pn && pd.length == 2 then planesOfCode v else v)) s

/-- Poison that turned elements carry to their destination's lines. -/
def State.turnPoison (s : State) (r : Rec) (src dst n : Nat) : State :=
  (List.range n).foldl (fun (t : State) k =>
    if s.piecesPoisoned (r.planePieces src k 0 r.bits) then
      (piecesAt (r.planePieces dst k 0 r.bits)).foldl (fun (t : State) a => t.setPoison a true) t
    else t) s

/-- A range copied with its lines' poison. -/
def State.copyRange (s : State) (src dst n : Nat) : State :=
  let t := s.physWrite dst (s.readBytes src n)
  (List.range (n / 64)).foldl (fun (t : State) i => t.setPoison (dst + 64 * i) (s.poisoned (src + 64 * i))) t

/-- A data row copied with its lines' own poison and its row state's POISON (R317). -/
def State.copyRow (s : State) (src dst : Nat) : State :=
  let t := s.physWrite dst (s.readBytes src 32768)
  let u := (List.range 512).foldl (fun (t : State) i =>
    t.setPoison (dst + 64 * i) (s.poison.get false ((src + 64 * i) / 64))) t
  let p := (s.die (src / 137438953472)).rowPoison.get false (rowKey src)
  u.updDie (dst / 137438953472) fun d => { d with rowPoison := d.rowPoison.put false (rowKey dst) p }

/-- The contents of a sub-tile copied to its destination. -/
def State.copyContents (s : State) (r : Rec) (src dst : Nat) : State :=
  if r.layout ≥ 2 ∧ isTier1 src ∧ isTier1 dst then
    (List.range (r.subSize / 32768)).foldl (fun (t : State) i => t.copyRow (src + 83886080 * i) (dst + 83886080 * i)) s
  else if r.layout ≥ 2 ∧ isTier1 src ≠ isTier1 dst then
    let s2 := (r.ranges dst).foldl (fun (t : State) p => t.clearLines p.1 p.2) s
    ((s2.turnSub r src dst r.subElems).turnPoison r src dst r.subElems).tick
  else s.copyRange src dst r.subSize

/-- The copy of a relocation: the reads' effects on the source rows' ECC, then the contents. -/
def State.copySub (s : State) (r : Rec) (src dst : Nat) : State :=
  ((r.ranges src).foldl (fun (t : State) p => t.eccRead p.1 p.2) s).copyContents r src dst

/-- A change of a relocation of die `k`, or its removal. -/
def DieState.setReloc (d : DieState) (id : Nat) (f : Reloc → Option Reloc) : DieState :=
  { d with relocs := d.relocs.filterMap fun r => if r.id = id then f r else some r }

/-- A move's step that reads and writes its rows, once they let it (R140, R141). -/
def State.whenCopy (s : State) (r : Rec) (m : Reloc) (k : State) : State := s.whenFree (r.rowsAt m.src ++ r.rowsAt m.dst) k

/-- RELOC_COPY_DONE (R316): the entry becomes swap-pending. -/
def execRelocCopyDone (k : Die) (id : Nat) (s : State) : Host.Outcome State Fault Refusal :=
  run (fun s => match (s.die k.val).reloc id with
    | some m =>
      let r := s.recAt m.record
      if m.swapPending ∨ s.destGone m then s
      else s.whenCopy r m ((s.copySub r m.src m.dst).updDie k.val fun d => d.setReloc id fun m => some { m with swapPending := true })
    | none => s) s

/-- The command whose sub-tile is moving. -/
def State.movingCmd (s : State) (k : Nat) : TDesc := match (s.die k).tcmds with | c :: _ => parseTDesc c.desc | [] => parseTDesc []

/-- The lines of a sub-tile at a location, as physical bytes. -/
def Rec.covers (r : Rec) (loc a : Nat) : Bool := (r.ranges loc).any fun p => decide (p.1 ≤ a) && decide (a < p.1 + p.2)

/-- The host holds a copy of a line of the source of an object with H (R317). -/
def State.hostHolds (s : State) (r : Rec) (loc : Nat) : Bool := bit r.perm 5 && s.hostCopies.any fun l => r.covers loc (64 * l)

/-- No core's instruction lines hold anything of a sub-tile's old and new location: a move changes what no fetch reads (R91). -/
def State.dropFetched (s : State) (r : Rec) (m : Reloc) : State :=
  { s with cores := s.cores.map fun p =>
      (p.1, { p.2 with icache := p.2.icache.filter fun q => !(r.covers m.src (64 * q.1) || r.covers m.dst (64 * q.1)) }) }

/-- RELOC_SWAP (R316, R317): no pin of another holder is left and the host holds no copy. Every write made at the source has
reached the destination. -/
def execRelocSwap (k : Die) (id : Nat) (s : State) : Host.Outcome State Fault Refusal :=
  run (fun s => match (s.die k.val).reloc id with
    | some m =>
      let r := s.recAt m.record
      if !m.swapPending ∨ s.destGone m ∨ s.otherPins m.entry ≠ 0 ∨ s.hostHolds r m.src then s
      else s.whenFree [m.entry] <| s.whenCopy r m (
        let e := s.readEnt m.entry
        let t := (s.copyContents r m.src m.dst).dropFetched r m
        ((t.writeEnt r m.entry { e with state := s.locTier m.dst, loc0 := m.dst, loc1 := 0 }).updDie k.val
          fun d => d.setReloc id fun _ => none).tAdvance k.val (s.movingCmd k.val) m.size)
    | none => s) s

/-- The sub-tiles and bytes the command at the head of die `k`'s queue has finished. -/
def State.movedSoFar (s : State) (k : Nat) : Nat × Nat := match (s.die k).tcmds with | c :: _ => (c.done, c.bytes) | [] => (0, 0)

/-- RELOC_DEST_WRITE_FAIL (R316): the entry returns to its source state, and the command fails. -/
def execRelocDestWriteFail (k : Die) (id : Nat) (s : State) : Host.Outcome State Fault Refusal :=
  run (fun s => match (s.die k.val).reloc id with
    | some m =>
      if s.destGone m then
        s.whenFree [m.entry] <|
        let e := s.readEnt m.entry
        let r := s.recAt m.record
        let t := s.movingCmd k.val
        let n := s.movedSoFar k.val
        s.whenEnd t (((s.writeEnt r m.entry { e with state := s.locTier m.src, loc0 := m.src, loc1 := 0 }).updDie k.val
          fun d => d.setReloc id fun _ => none).tEnd k.val t n.1 n.2 7 (t.subAddr r m.sub))
      else s
    | none => s) s

end Sys2Proof.Machine
end

