-- ==== Sys2Proof/Machine/Late.lean ====
section
/-! DEFINITION. The drain timeout of a port group, and the fate of the requests of refused kinds it finds in flight (R362-R364). -/

namespace Sys2Proof.Machine

/-- A strand's request fails: a scalar access or a fetch traps; a vector access fails at its element, the lowest where several
fail, for the trap or the trim of R89 at the strand's turn, which comes next. A strand that does not run has none. -/
def State.failStrand (s : State) (n : Nat) (elem : Option Nat) (f : Fail) (a : Word) : State :=
  let x := s.strand n
  if x.st ≠ .run ∧ x.st ≠ .wait then s
  else match elem with
  | some i =>
    let at_ := match x.failAt with
      | some j => Nat.min i j
      | none => i
    { s.updStrand n fun x => { x with failAt := some at_ } with agenda := .strand n :: s.agenda }
  | none =>
    let w := if x.held then x.iw else Config.unfetched s.ticks
    (s.tick.recordFail (s.agentOf n) f a).takeTrap n ⟨7, a, x.pc, w, false, false⟩

/-- A command's request fails: its fragment does, or its stream (R245, R252). -/
def State.failCommand (s : State) (e : Engine) (i : Nat) (f : Fail) (a : Word) : State :=
  match s.cmd e i with
  | none => s
  | some c =>
    if c.finished then s
    else match s.cmdWork c with
    | some w => s.failUnits e c w (w.fragLen c) f a a
    | none => match e with
      | .copy k => match (List.range 8).find? fun n => ((s.core k.val).stream n).isOpen && ((s.core k.val).stream n).cmd == i with
        | some n => s.failStream k n ((s.core k.val).stream n) c f a a
        | none => s
      | _ => s

/-- A launch's request fails: acceptance refuses it as the read of its microprogram would, and one that runs has failed. -/
def State.failLaunch (s : State) (d id : Nat) (f : Fail) (a : Word) : State :=
  match (s.die d).launches.find? fun l => l.id == id with
  | some l =>
    if l.accepted then (s.recordFail (l.faultAgent d) f a).updLaunch d id fun x => { x with failed := true }
    else s.refuseLaunch d l f 0x0C 0 (wordAt l.desc 0) (4 * l.words) a
  | none => s

/-- A collective's request fails (R245). -/
def State.failColl (s : State) (d id : Nat) (f : Fail) (a : Word) : State :=
  match (s.die d).colls.find? fun c => c.id == id with
  | some c => (s.recordFail c.agent f a).updDie d fun x =>
      { x with colls := x.colls.map fun c => if c.id = id ∧ c.cause = 0 then { c with cause := 7 } else c }
  | none => s

/-- A host queue's request fails, and the queue stops (R350). -/
def State.failQueue (s : State) (d q : Nat) : State :=
  match (s.die d).queue q with
  | some x => if x.enabled ∧ !x.err then s.stopQueue d q x 7 else s
  | none => s

/-- The translation agent's command at the head of a die's queue fails (R315): at once, or behind the swap of a sub-tile that is
MOVING, which completes (R365). -/
def State.failAgent (s : State) (d : Nat) (a : Word) : State :=
  match (s.die d).tcmds with
  | c :: r =>
    if (s.die d).relocs = [] then s.tEnd d (parseTDesc c.desc) c.done c.bytes 7 a
    else s.updDie d fun x => { x with tcmds := { c with late := some a } :: r }
  | [] => s

/-- A request of a refused kind that is still in flight fails with cause 0x07 at its issuer (R364). -/
def State.failLate (s : State) (r : LateReq) : State :=
  let f : Fail := ⟨7, r.writes.toNat, 0, 0⟩
  match r.issuer with
  | .strand n elem => s.failStrand n elem f r.addr
  | .command e i => s.failCommand e i f r.addr
  | .launch d id => s.failLaunch d id f r.addr
  | .coll d id => s.failColl d id f r.addr
  | .queue d q => s.failQueue d q
  | .agent d => s.failAgent d r.addr

/-- What the failures of requests write at once: a queue's error words, and the end of a translation agent's command. -/
def State.latePieces (s : State) (l : List LateReq) : List Piece :=
  l.flatMap fun r => match r.issuer with
    | .queue d q => bytePieces (s.contextAddr d q + 24) 8
    | .agent d => match (s.die d).tcmds with
      | c :: _ => if (s.die d).relocs = [] then (parseTDesc c.desc).endPieces else []
      | [] => []
    | _ => []

/-- The drain timeout: refused requests fail, and blocks not acknowledged are abandoned and go to other groups; accesses through
residency entries go on (R362, R364). -/
def State.drainLate (s : State) (g : Nat) : State :=
  let p := (s.die g).port
  if (p.state = .stop ∨ p.state = .drain) ∧ p.busy ∧ p.drainSince + usClocks (atLeastOne p.pdrain) ≤ s.now then
    if p.pers = 1 then s.whenRows (s.latePieces p.lateReqs) ((p.lateReqs.foldl State.failLate s).updPort g fun p =>
      (Port.fail p.lateReqs.length { p with lateReqs := [], fcause := 3 }).leaveDrain)
    else (s.giveUp g Block.out).updPort g fun p => { p with flight := [], fcause := 3 }.leaveDrain
  else s

/-! ## Whose turn it is (R363, R364) -/

/-- The issuer whose requests an event carries on. -/
def State.eventIssuer (s : State) (i : Instr) : Option Issuer :=
  match i with
  | .engineFragment e c => some (.command e c)
  | .engineCommandDone e c => some (.command e c)
  | .streamInboundFill c n _ => some (.command (.copy c) ((s.core c.val).stream n.val).cmd)
  | .streamOutboundDrain c n _ => some (.command (.copy c) ((s.core c.val).stream n.val).cmd)
  | .launchAcceptance d => ((s.die d.val).launches.find? fun l => !l.accepted).map fun l => .launch d.val l.id
  | .launchPerformed d l => some (.launch d.val l)
  | .collectiveChunk d c => some (.coll d.val c)
  | .collectiveComplete d c => some (.coll d.val c)
  | .install d => some (.agent d.val)
  | .reloc d => some (.agent d.val)
  | .evict d => some (.agent d.val)
  | .markp d => some (.agent d.val)
  | .count d => some (.agent d.val)
  | .flush d => some (.agent d.val)
  | .relocCopyDone d _ => some (.agent d.val)
  | .relocSwap d _ => some (.agent d.val)
  | .relocDestWriteFail d _ => some (.agent d.val)
  | .queueTailSnoop d q => some (.queue d.val q.val)
  | .packetFarm d q => some (.queue d.val q.val)
  | .packetArrive d q => some (.queue d.val q.val)
  | .waitbarRelease d q => some (.queue d.val q.val)
  | .farmContextWaitEnd n => some (.strand n.val none)
  | .bwaitRelease n => some (.strand n.val none)
  | .scloseDrained n => some (.strand n.val none)
  | _ => none

/-- The issuer whose requests a turn carries on. -/
def State.turnIssuer (s : State) (t : Turn) : Option Issuer :=
  match t with
  | .strand n => some (.strand n none)
  | .event i => s.eventIssuer i
  | _ => none

/-- Some group's refusals pass the issuer's requests, or one of its elements has failed in flight. -/
def State.passed (s : State) (i : Issuer) : Bool :=
  (s.dies.any fun p => p.2.port.passes i) || (match i with
    | .strand n _ => (s.strand n).failAt.isSome
    | _ => false)

/-- The turn of an issuer begins: the refusals pass its requests that are in flight. -/
def State.issuing (s : State) (i : Option Issuer) : State := { s with issuer := i.filter s.passed }

/-- The issuer's request still waits: its strand's access, or the turn put off. -/
def State.stillIn (s : State) (i : Issuer) : Bool :=
  match i with
  | .strand n _ => (s.strand n).held || (s.strand n).rowWait != []
  | _ => s.waiting.any fun w => s.turnIssuer w.1 == some i

/-- The turn is over: the requests it carried to their end are no longer in flight (R364). -/
def State.endTurn (s : State) : State :=
  match s.issuer with
  | none => s
  | some i =>
    let t := if s.stillIn i then s else
      { s with dies := s.dies.map fun p =>
          (p.1, { p.2 with port := { p.2.port with lateReqs := p.2.port.lateReqs.filter fun r => !r.issuer.same i } }) }
    { t with issuer := none }

/-- DRAIN_TIMEOUT (R362, R364). -/
def execDrainTimeout (g : PortGroup) (s : State) : Host.Outcome State Fault Refusal :=
  run (fun s => s.drainLate g.val) s

end Sys2Proof.Machine
end

