-- ==== Sys2Proof/Machine/Permute.lean ====
section
/-! DEFINITION. Permutation within registers and mask instructions (R208-R212). They are not rechecked (R231). -/

namespace Sys2Proof.Machine

/-- A permutation: what it reads and writes of the vector register `v`, in DF (R208). -/
def permOp (legal : Strand → Bool) (fmts : Strand → List Nat) (v : VReg)
    (plan : Strand → List (VReg × Nat × Nat) × List (Nat × Nat)) (s : State) : Host.Outcome State Fault Refusal :=
  run (fun s => s.compute (s.me.moveFormats && legal s.me) (fmts s.me) fun t =>
    let p := plan t.me
    { reads := p.1, dest := .vec v t.me.df p.2, scales := [], cands := 0, stoch := false }) s

/-- The offset or index a scalar or an immediate gives, unsigned (R208). -/
def Strand.offset2 (x : Strand) (b : VSrc) : Nat :=
  match b with
  | .vv _ => 0
  | .vs g => (x.getG g).toNat
  | .vi m => m.toNat

/-- VLIFT (R208). -/
def execVlift (v a : VReg) (b : VSrc) (k : KReg) (_dt : Bool) (s : State) : Host.Outcome State Fault Refusal :=
  permOp (fun _ => true) (fun x => [x.df]) v (fun x =>
    let o := x.offset2 b
    let is := (x.actives k).filter fun i => o ≤ i
    (is.map fun i => (a, x.df, i - o), is.map fun i => (i, x.elem a x.df (i - o)))) s

/-- VDROP (R208). -/
def execVdrop (v a : VReg) (b : VSrc) (k : KReg) (_dt : Bool) (s : State) : Host.Outcome State Fault Refusal :=
  permOp (fun _ => true) (fun x => [x.df]) v (fun x =>
    let o := x.offset2 b
    let is := x.actives k
    ((is.filter fun i => i + o < x.vl.toNat).map fun i => (a, x.df, i + o),
      is.map fun i => (i, if i + o < x.vl.toNat then x.elem a x.df (i + o) else 0))) s

/-- The index of element `i` of vpick, as unsigned: of the sign-extended element for a signed format. -/
def Strand.pickIndex (x : Strand) (b : VSrc) (i : Nat) : Nat :=
  match b with
  | .vv r => (BitVec.ofInt 64 (intValue x.bf (x.elem r x.bf i))).toNat
  | _ => x.offset2 b

/-- VPICK (R208): an index group that carries poison is consumed before the index is known. -/
def execVpick (v a : VReg) (b : VSrc) (k : KReg) (_dt : Bool) (s : State) : Host.Outcome State Fault Refusal :=
  permOp (fun x => match b with
      | .vv _ => isInt x.bf
      | _ => true)
    (fun x => x.df :: (match b with
      | .vv _ => [x.bf]
      | _ => [])) v (fun x =>
    let is := x.actives k
    let known := match b with
      | .vv r => is.filter fun i => !x.elemPoison r x.bf i
      | _ => is
    (reads2 b x.bf is ++ (known.filter fun i => x.pickIndex b i < x.vl.toNat).map (fun i => (a, x.df, x.pickIndex b i)),
      is.map fun i => (i, if x.pickIndex b i < x.vl.toNat then x.elem a x.df (x.pickIndex b i) else 0))) s

/-- VINDEX (R208). -/
def execVindex (v : VReg) (k : KReg) (_dt : Bool) (s : State) : Host.Outcome State Fault Refusal :=
  permOp (fun x => isInt x.df) (fun x => [x.df]) v
    (fun x => ([], (x.actives k).map fun i => (i, i % 2 ^ fmtBits x.df))) s

/-- Elements 0 up to vl that the selecting mask names (R209). -/
def Strand.selected (x : Strand) (k : KReg) : List Nat := (List.range x.vl.toNat).filter fun i => x.getK k i

/-- VSQUEEZE (R209). -/
def execVsqueeze (v a : VReg) (k : KReg) (_dt : Bool) (s : State) : Host.Outcome State Fault Refusal :=
  permOp (fun x => x.vstart == 0) (fun x => [x.df]) v (fun x =>
    let is := x.selected k
    (is.map fun i => (a, x.df, i), is.zipIdx.map fun p => (p.2, x.elem a x.df p.1))) s

/-- VSPREAD (R209). -/
def execVspread (v a : VReg) (k : KReg) (_dt : Bool) (s : State) : Host.Outcome State Fault Refusal :=
  permOp (fun x => x.vstart == 0) (fun x => [x.df]) v (fun x =>
    let is := x.selected k
    (is.zipIdx.map fun p => (a, x.df, p.2), is.zipIdx.map fun p => (p.1, x.elem a x.df p.2))) s

/-- The largest element of `is` below `i` with the same bits in BF (R210). -/
def Strand.lastSame (x : Strand) (a : VReg) (is : List Nat) (i : Nat) : Option Nat :=
  (is.filter fun j => j < i && x.elem a x.bf j == x.elem a x.bf i).getLast?

/-- VCONF (R210). -/
def execVconf (v a : VReg) (k : KReg) (_dt : Bool) (s : State) : Host.Outcome State Fault Refusal :=
  permOp (fun x => x.vstart == 0 && isInt x.bf && [2, 3, 0xC, 0xD].contains x.df) (fun x => [x.df, x.bf]) v (fun x =>
    let is := x.actives k
    (is.map fun i => (a, x.bf, i), is.map fun i => (i, (x.lastSame a is i).getD (2 ^ fmtBits x.df - 1)))) s

/-- VCONFM (R210): DF is not checked and does not enter the length limit. -/
def execVconfm (kd : KReg) (a : VReg) (k : KReg) (_dt : Bool) (s : State) : Host.Outcome State Fault Refusal :=
  run (fun s => s.compute (s.me.vstart == 0 && isInt s.me.bf) [s.me.bf] fun t =>
    let x := t.me
    let is := x.actives k
    { reads := is.map fun i => (a, x.bf, i)
      dest := .mask kd (is.map fun i => (i, (x.lastSame a is i).isNone))
      scales := []
      cands := 0
      stoch := false }) s

/-- A mask instruction: bit by bit from vstart up to vl (R211). -/
def kOp (f : Bool → Bool → Bool) (kd ka kb : KReg) (s : State) : Host.Outcome State Fault Refusal :=
  run (fun s => s.compute s.me.moveFormats [s.me.df] fun t =>
    let x := t.me
    { reads := []
      dest := .mask kd (x.span.map fun i => (i, f (x.getK ka i) (x.getK kb i)))
      scales := []
      cands := 0
      stoch := false }) s

/-- KAND (R211). -/
def execKand (kd ka kb : KReg) (s : State) : Host.Outcome State Fault Refusal := kOp (fun p q => p && q) kd ka kb s
/-- KOR (R211). -/
def execKor (kd ka kb : KReg) (s : State) : Host.Outcome State Fault Refusal := kOp (fun p q => p || q) kd ka kb s
/-- KXOR (R211). -/
def execKxor (kd ka kb : KReg) (s : State) : Host.Outcome State Fault Refusal := kOp (fun p q => p != q) kd ka kb s
/-- KANDN (R211). -/
def execKandn (kd ka kb : KReg) (s : State) : Host.Outcome State Fault Refusal := kOp (fun p q => p && !q) kd ka kb s

/-- A count or search over a mask: vstart must be 0 (R212). -/
def kScan (f : List Nat → Word) (d : GReg) (ks : KReg) (s : State) : Host.Outcome State Fault Refusal :=
  run (fun s =>
    let x := s.me
    if x.moveFormats = false ∨ x.vstart ≠ 0 ∨ s.tooLong [x.df] then s.trap 4 0 else s.retireWith d (f (x.selected ks))) s

/-- KPOP (R212). -/
def execKpop (d : GReg) (ks : KReg) (s : State) : Host.Outcome State Fault Refusal :=
  kScan (fun l => BitVec.ofNat 64 l.length) d ks s

/-- KFIRST (R212). -/
def execKfirst (d : GReg) (ks : KReg) (s : State) : Host.Outcome State Fault Refusal :=
  kScan (fun l => match l with
    | [] => BitVec.allOnes 64
    | i :: _ => BitVec.ofNat 64 i) d ks s

end Sys2Proof.Machine
end

