-- ==== Sys2Proof/Machine/Scalar.lean ====
section
/-! DEFINITION. Scalar register and immediate arithmetic (R165-R171). None of it traps (R164). -/

namespace Sys2Proof.Machine

/-- The step result type. -/
abbrev Out := Host.Outcome State Fault Refusal

/-! ## Register arithmetic (R165) -/

/-- add (R165). -/
def execAdd (d a b : GReg) (s : State) : Out := strandOp (fun x => x.setG d (x.getG a + x.getG b)) s
/-- sub (R165). -/
def execSub (d a b : GReg) (s : State) : Out := strandOp (fun x => x.setG d (x.getG a - x.getG b)) s
/-- and (R165). -/
def execAnd (d a b : GReg) (s : State) : Out := strandOp (fun x => x.setG d (x.getG a &&& x.getG b)) s
/-- or (R165). -/
def execOr (d a b : GReg) (s : State) : Out := strandOp (fun x => x.setG d (x.getG a ||| x.getG b)) s
/-- xor (R165). -/
def execXor (d a b : GReg) (s : State) : Out := strandOp (fun x => x.setG d (x.getG a ^^^ x.getG b)) s
/-- andn (R165). -/
def execAndn (d a b : GReg) (s : State) : Out := strandOp (fun x => x.setG d (x.getG a &&& ~~~ x.getG b)) s
/-- sll (R165). -/
def execSll (d a b : GReg) (s : State) : Out := strandOp (fun x => x.setG d (x.getG a <<< wbits (x.getG b) 0 6)) s
/-- srl (R165). -/
def execSrl (d a b : GReg) (s : State) : Out := strandOp (fun x => x.setG d (x.getG a >>> wbits (x.getG b) 0 6)) s
/-- sra (R165). -/
def execSra (d a b : GReg) (s : State) : Out := strandOp (fun x => x.setG d ((x.getG a).sshiftRight (wbits (x.getG b) 0 6))) s
/-- rol (R165). -/
def execRol (d a b : GReg) (s : State) : Out := strandOp (fun x => x.setG d ((x.getG a).rotateLeft (wbits (x.getG b) 0 6))) s
/-- slt (R165). -/
def execSlt (d a b : GReg) (s : State) : Out := strandOp (fun x => x.setG d (truth ((x.getG a).slt (x.getG b)))) s
/-- sltu (R165). -/
def execSltu (d a b : GReg) (s : State) : Out := strandOp (fun x => x.setG d (truth ((x.getG a).ult (x.getG b)))) s
/-- min (R165). -/
def execMin (d a b : GReg) (s : State) : Out := strandOp (fun x => x.setG d (minS (x.getG a) (x.getG b))) s
/-- max (R165). -/
def execMax (d a b : GReg) (s : State) : Out := strandOp (fun x => x.setG d (maxS (x.getG a) (x.getG b))) s
/-- minu (R165). -/
def execMinu (d a b : GReg) (s : State) : Out := strandOp (fun x => x.setG d (minU (x.getG a) (x.getG b))) s
/-- maxu (R165). -/
def execMaxu (d a b : GReg) (s : State) : Out := strandOp (fun x => x.setG d (maxU (x.getG a) (x.getG b))) s
/-- seq (R165). -/
def execSeq (d a b : GReg) (s : State) : Out := strandOp (fun x => x.setG d (truth (x.getG a == x.getG b))) s
/-- sne (R165). -/
def execSne (d a b : GReg) (s : State) : Out := strandOp (fun x => x.setG d (truth (x.getG a != x.getG b))) s

/-! ## Multiply and divide (R166) -/

/-- mul (R166). -/
def execMul (d a b : GReg) (s : State) : Out := strandOp (fun x => x.setG d (x.getG a * x.getG b)) s
/-- mulhs (R166). -/
def execMulhs (d a b : GReg) (s : State) : Out :=
  strandOp (fun x => x.setG d (highHalf ((x.getG a).toInt * (x.getG b).toInt))) s
/-- mulhu (R166). -/
def execMulhu (d a b : GReg) (s : State) : Out :=
  strandOp (fun x => x.setG d (highHalf ((x.getG a).toNat * (x.getG b).toNat))) s
/-- mulhm (R166). -/
def execMulhm (d a b : GReg) (s : State) : Out :=
  strandOp (fun x => x.setG d (highHalf ((x.getG a).toInt * (x.getG b).toNat))) s
/-- quot (R166). -/
def execQuot (d a b : GReg) (s : State) : Out := strandOp (fun x => x.setG d (quotS (x.getG a) (x.getG b))) s
/-- quotu (R166). -/
def execQuotu (d a b : GReg) (s : State) : Out := strandOp (fun x => x.setG d (quotU (x.getG a) (x.getG b))) s
/-- mod (R166). -/
def execMod (d a b : GReg) (s : State) : Out := strandOp (fun x => x.setG d (modS (x.getG a) (x.getG b))) s
/-- modu (R166). -/
def execModu (d a b : GReg) (s : State) : Out := strandOp (fun x => x.setG d (modU (x.getG a) (x.getG b))) s

/-! ## Bit operations (R167) -/

/-- clz (R167). -/
def execClz (d a : GReg) (s : State) : Out := strandOp (fun x => x.setG d (BitVec.ofNat 64 (leadingZeros (x.getG a)))) s
/-- ctz (R167). -/
def execCtz (d a : GReg) (s : State) : Out := strandOp (fun x => x.setG d (BitVec.ofNat 64 (trailingZeros (x.getG a)))) s
/-- popc (R167). -/
def execPopc (d a : GReg) (s : State) : Out := strandOp (fun x => x.setG d (BitVec.ofNat 64 (onesCount (x.getG a)))) s
/-- rev8 (R167). -/
def execRev8 (d a : GReg) (s : State) : Out := strandOp (fun x => x.setG d (bytesReversed (x.getG a))) s
/-- fshr (R167). -/
def execFshr (d a b : GReg) (sh : BitVec 6) (s : State) : Out :=
  strandOp (fun x => x.setG d (funnel (x.getG a) (x.getG b) sh.toNat)) s

/-! ## Immediates (R168-R171) -/

/-- addi (R168). -/
def execAddi (d a : GReg) (imm : BitVec 15) (s : State) : Out := strandOp (fun x => x.setG d (x.getG a + simm imm)) s
/-- andi (R168). -/
def execAndi (d a : GReg) (imm : BitVec 15) (s : State) : Out := strandOp (fun x => x.setG d (x.getG a &&& uimm imm)) s
/-- ori (R168). -/
def execOri (d a : GReg) (imm : BitVec 15) (s : State) : Out := strandOp (fun x => x.setG d (x.getG a ||| uimm imm)) s
/-- xori (R168). -/
def execXori (d a : GReg) (imm : BitVec 15) (s : State) : Out := strandOp (fun x => x.setG d (x.getG a ^^^ uimm imm)) s
/-- slti (R168). -/
def execSlti (d a : GReg) (imm : BitVec 15) (s : State) : Out := strandOp (fun x => x.setG d (truth ((x.getG a).slt (simm imm)))) s
/-- sltiu (R168). -/
def execSltiu (d a : GReg) (imm : BitVec 15) (s : State) : Out := strandOp (fun x => x.setG d (truth ((x.getG a).ult (simm imm)))) s
/-- slli (R169). -/
def execSlli (d a : GReg) (sh : BitVec 6) (s : State) : Out := strandOp (fun x => x.setG d (x.getG a <<< sh.toNat)) s
/-- srli (R169). -/
def execSrli (d a : GReg) (sh : BitVec 6) (s : State) : Out := strandOp (fun x => x.setG d (x.getG a >>> sh.toNat)) s
/-- srai (R169). -/
def execSrai (d a : GReg) (sh : BitVec 6) (s : State) : Out := strandOp (fun x => x.setG d ((x.getG a).sshiftRight sh.toNat)) s
/-- roli (R169). -/
def execRoli (d a : GReg) (sh : BitVec 6) (s : State) : Out := strandOp (fun x => x.setG d ((x.getG a).rotateLeft sh.toNat)) s
/-- bfx: `width` holds the width less 1 (R170). -/
def execBfx (d a : GReg) (width pos : BitVec 6) (s : State) : Out :=
  strandOp (fun x => x.setG d (fieldS (x.getG a) pos.toNat (width.toNat + 1))) s
/-- bfxu: `width` holds the width less 1 (R170). -/
def execBfxu (d a : GReg) (width pos : BitVec 6) (s : State) : Out :=
  strandOp (fun x => x.setG d (fieldU (x.getG a) pos.toNat (width.toNat + 1))) s
/-- lui (R171). -/
def execLui (d : GReg) (imm : BitVec 20) (s : State) : Out :=
  strandOp (fun x => x.setG d ((imm ++ (0 : BitVec 12)).signExtend 64)) s
/-- lmid (R171). -/
def execLmid (d : GReg) (imm : BitVec 12) (s : State) : Out :=
  strandOp (fun x => x.setG d (setBits (x.getG d) 32 12 imm.toNat)) s
/-- lhi (R171). -/
def execLhi (d : GReg) (imm : BitVec 20) (s : State) : Out :=
  strandOp (fun x => x.setG d (setBits (x.getG d) 44 20 imm.toNat)) s

end Sys2Proof.Machine
end

