-- ==== Sys2Proof/Machine/ScalarMem.lean ====
section
/-! DEFINITION. Scalar loads, stores, acquire loads, release stores and atomics (R174-R176, R182-R184). -/

namespace Sys2Proof.Machine

/-- ldb (R174). -/
def execLdb (d a : GReg) (imm : BitVec 15) (s : State) : Host.Outcome State Fault Refusal :=
  loadOp true 1 d a imm s
/-- ldh (R174). -/
def execLdh (d a : GReg) (imm : BitVec 15) (s : State) : Host.Outcome State Fault Refusal :=
  loadOp true 2 d a imm s
/-- ldw (R174). -/
def execLdw (d a : GReg) (imm : BitVec 15) (s : State) : Host.Outcome State Fault Refusal :=
  loadOp true 4 d a imm s
/-- ldd (R174). -/
def execLdd (d a : GReg) (imm : BitVec 15) (s : State) : Host.Outcome State Fault Refusal :=
  loadOp false 8 d a imm s
/-- ldbu (R174). -/
def execLdbu (d a : GReg) (imm : BitVec 15) (s : State) : Host.Outcome State Fault Refusal :=
  loadOp false 1 d a imm s
/-- ldhu (R174). -/
def execLdhu (d a : GReg) (imm : BitVec 15) (s : State) : Host.Outcome State Fault Refusal :=
  loadOp false 2 d a imm s
/-- ldwu (R174). -/
def execLdwu (d a : GReg) (imm : BitVec 15) (s : State) : Host.Outcome State Fault Refusal :=
  loadOp false 4 d a imm s
/-- stb (R175). -/
def execStb (a b : GReg) (imm : BitVec 15) (s : State) : Host.Outcome State Fault Refusal := storeOp 1 a b imm s
/-- sth (R175). -/
def execSth (a b : GReg) (imm : BitVec 15) (s : State) : Host.Outcome State Fault Refusal := storeOp 2 a b imm s
/-- stw (R175). -/
def execStw (a b : GReg) (imm : BitVec 15) (s : State) : Host.Outcome State Fault Refusal := storeOp 4 a b imm s
/-- std (R175). -/
def execStd (a b : GReg) (imm : BitVec 15) (s : State) : Host.Outcome State Fault Refusal := storeOp 8 a b imm s
/-- lda.b (R176). -/
def execLdaB (d a : GReg) (_sc : Scope) (s : State) : Host.Outcome State Fault Refusal := loadAcqOp 1 d a s
/-- lda.h (R176). -/
def execLdaH (d a : GReg) (_sc : Scope) (s : State) : Host.Outcome State Fault Refusal := loadAcqOp 2 d a s
/-- lda.w (R176). -/
def execLdaW (d a : GReg) (_sc : Scope) (s : State) : Host.Outcome State Fault Refusal := loadAcqOp 4 d a s
/-- lda.d (R176). -/
def execLdaD (d a : GReg) (_sc : Scope) (s : State) : Host.Outcome State Fault Refusal := loadAcqOp 8 d a s
/-- stl.b (R176). -/
def execStlB (a b : GReg) (sc : Scope) (s : State) : Host.Outcome State Fault Refusal := storeRelOp 1 a b sc s
/-- stl.h (R176). -/
def execStlH (a b : GReg) (sc : Scope) (s : State) : Host.Outcome State Fault Refusal := storeRelOp 2 a b sc s
/-- stl.w (R176). -/
def execStlW (a b : GReg) (sc : Scope) (s : State) : Host.Outcome State Fault Refusal := storeRelOp 4 a b sc s
/-- stl.d (R176). -/
def execStlD (a b : GReg) (sc : Scope) (s : State) : Host.Outcome State Fault Refusal := storeRelOp 8 a b sc s
/-- atswap.w (R182, R183). -/
def execAtswapW (d a b : GReg) (sc : Scope) (_acq rel : Bool) (s : State) : Host.Outcome State Fault Refusal :=
  atomicOp 4 atSwap d a b sc rel s
/-- atadd.w (R182, R183). -/
def execAtaddW (d a b : GReg) (sc : Scope) (_acq rel : Bool) (s : State) : Host.Outcome State Fault Refusal :=
  atomicOp 4 (atAdd 4) d a b sc rel s
/-- atand.w (R182, R183). -/
def execAtandW (d a b : GReg) (sc : Scope) (_acq rel : Bool) (s : State) : Host.Outcome State Fault Refusal :=
  atomicOp 4 atAnd d a b sc rel s
/-- ator.w (R182, R183). -/
def execAtorW (d a b : GReg) (sc : Scope) (_acq rel : Bool) (s : State) : Host.Outcome State Fault Refusal :=
  atomicOp 4 atOr d a b sc rel s
/-- atxor.w (R182, R183). -/
def execAtxorW (d a b : GReg) (sc : Scope) (_acq rel : Bool) (s : State) : Host.Outcome State Fault Refusal :=
  atomicOp 4 atXor d a b sc rel s
/-- atmin.w (R182, R183). -/
def execAtminW (d a b : GReg) (sc : Scope) (_acq rel : Bool) (s : State) : Host.Outcome State Fault Refusal :=
  atomicOp 4 (atMin 4) d a b sc rel s
/-- atmax.w (R182, R183). -/
def execAtmaxW (d a b : GReg) (sc : Scope) (_acq rel : Bool) (s : State) : Host.Outcome State Fault Refusal :=
  atomicOp 4 (atMax 4) d a b sc rel s
/-- atminu.w (R182, R183). -/
def execAtminuW (d a b : GReg) (sc : Scope) (_acq rel : Bool) (s : State) : Host.Outcome State Fault Refusal :=
  atomicOp 4 atMinu d a b sc rel s
/-- atmaxu.w (R182, R183). -/
def execAtmaxuW (d a b : GReg) (sc : Scope) (_acq rel : Bool) (s : State) : Host.Outcome State Fault Refusal :=
  atomicOp 4 atMaxu d a b sc rel s
/-- cas.w (R182, R183). -/
def execCasW (d a b : GReg) (sc : Scope) (_acq rel : Bool) (s : State) : Host.Outcome State Fault Refusal :=
  atomicOp 4 atCas d a b sc rel s
/-- atswap.d (R182, R183). -/
def execAtswapD (d a b : GReg) (sc : Scope) (_acq rel : Bool) (s : State) : Host.Outcome State Fault Refusal :=
  atomicOp 8 atSwap d a b sc rel s
/-- atadd.d (R182, R183). -/
def execAtaddD (d a b : GReg) (sc : Scope) (_acq rel : Bool) (s : State) : Host.Outcome State Fault Refusal :=
  atomicOp 8 (atAdd 8) d a b sc rel s
/-- atand.d (R182, R183). -/
def execAtandD (d a b : GReg) (sc : Scope) (_acq rel : Bool) (s : State) : Host.Outcome State Fault Refusal :=
  atomicOp 8 atAnd d a b sc rel s
/-- ator.d (R182, R183). -/
def execAtorD (d a b : GReg) (sc : Scope) (_acq rel : Bool) (s : State) : Host.Outcome State Fault Refusal :=
  atomicOp 8 atOr d a b sc rel s
/-- atxor.d (R182, R183). -/
def execAtxorD (d a b : GReg) (sc : Scope) (_acq rel : Bool) (s : State) : Host.Outcome State Fault Refusal :=
  atomicOp 8 atXor d a b sc rel s
/-- atmin.d (R182, R183). -/
def execAtminD (d a b : GReg) (sc : Scope) (_acq rel : Bool) (s : State) : Host.Outcome State Fault Refusal :=
  atomicOp 8 (atMin 8) d a b sc rel s
/-- atmax.d (R182, R183). -/
def execAtmaxD (d a b : GReg) (sc : Scope) (_acq rel : Bool) (s : State) : Host.Outcome State Fault Refusal :=
  atomicOp 8 (atMax 8) d a b sc rel s
/-- atminu.d (R182, R183). -/
def execAtminuD (d a b : GReg) (sc : Scope) (_acq rel : Bool) (s : State) : Host.Outcome State Fault Refusal :=
  atomicOp 8 atMinu d a b sc rel s
/-- atmaxu.d (R182, R183). -/
def execAtmaxuD (d a b : GReg) (sc : Scope) (_acq rel : Bool) (s : State) : Host.Outcome State Fault Refusal :=
  atomicOp 8 atMaxu d a b sc rel s
/-- cas.d (R182, R183). -/
def execCasD (d a b : GReg) (sc : Scope) (_acq rel : Bool) (s : State) : Host.Outcome State Fault Refusal :=
  atomicOp 8 atCas d a b sc rel s

end Sys2Proof.Machine
end

