-- ==== Sys2Proof/Machine/Tiles.lean ====
section
/-! DEFINITION. Tile loads, stores and moves, and the matrix engine (R235-R242). -/

namespace Sys2Proof.Machine

/-! ## Tile elements (R235) -/

/-- Element `j`, row-major, of a tile in its format. -/
def Strand.tileElem (x : Strand) (t : TReg) (j : Nat) : Nat := elemAt x.t (16384 * t.val) (fmtBits (tileFmt (x.tile t.val))) j

/-- The poison of a tile row. -/
def Strand.rowPoisoned (x : Strand) (t : TReg) (r : Nat) : Bool := x.tp.get false (256 * t.val + r)

/-- Tile elements written; a row's mark is set where `bad` says so, and goes when the whole row is written clean (R237). -/
def Strand.setTile (x : Strand) (t : TReg) (ws : List (Nat × Nat)) (bad : List Nat) : Strand :=
  let c := x.tile t.val
  let n := tileCols c
  let rows := (ws.map fun p => p.1 / n).eraseDups
  { x with
    t := ws.foldl (fun m p => putElem m (16384 * t.val) (fmtBits (tileFmt c)) p.1 p.2) x.t
    tp := rows.foldl (fun m r =>
      if bad.any fun j => j / n == r then m.put false (256 * t.val + r) true
      else if (ws.countP fun p => p.1 / n == r) = n then m.put false (256 * t.val + r) false
      else m) x.tp }

/-! ## Loads and stores (R236, R237) -/

/-- An address mode of tile accesses. -/
inductive TMode where
  | unit
  | strided (b : GReg)
  | coord (b : GReg)
  deriving DecidableEq, Repr

/-- The innermost extent for the coordinate mode: a window and an object of device kind have none for it. -/
def State.tileInner (s : State) (a : Word) (writes : Bool) : Chk Nat :=
  if isWindow a then .fail (.plain 8)
  else match s.walkRec (s.agentOf s.cur) a writes s.myHolds with
  | .ok r => if r.kind = 1 ∨ r.kind = 2 then .fail (.plain 8) else .ok (r.ext 0)
  | .fail f => .fail f
  | .wait p => .wait p

/-- Elements from row vstart up with their places, or what the reading of the record waits for (R236). -/
def State.tilePlaces (s : State) (m : TMode) (t : TReg) (a : GReg) (writes : Bool) : Except Await (List (Nat × Where)) :=
  let x := s.me
  let c := x.tile t.val
  let ga := x.getG a
  let w := fmtBits (tileFmt c)
  let n := tileCols c
  let js := (List.range (tileRows c * n)).filter fun j => x.vstart.toNat ≤ j / n
  match m with
  | .unit => .ok (js.map fun j => (j, elemPlace ga w j))
  | .strided b => .ok (js.map fun j => (j, .place (ga + BitVec.ofNat 64 (j / n) * x.getG b + BitVec.ofNat 64 (j % n * (w / 8))) 0))
  | .coord b =>
    match s.tileInner ga writes with
    | .ok x0 =>
      let c0 := objOff ga * 8 / w % x0
      .ok ((js.filter fun j => c0 + j % n < x0).map fun j => (j, elemPlace ga w (j / n * (x.getG b).toNat * x0 + j % n)))
    | .fail f => .ok ((js.take 1).map fun j => (j, .fails f ga))
    | .wait p => if js = [] then .ok [] else .error p

/-- Loaded tile elements. -/
def State.loadTile (s : State) (t : TReg) (l : List Passed) : State :=
  let u := s.eccAll l
  u.upd fun x => x.setTile t (l.map fun e => (e.idx, u.readPieces e.pieces)) ((l.filter fun e => u.piecesPoisoned e.pieces).map Passed.idx)

/-- Stored tile elements; those of a poisoned row carry its poison (R199). -/
def State.storeTile (s : State) (t : TReg) (l : List Passed) : State :=
  let x := s.me
  let n := tileCols (x.tile t.val)
  let u := (s.anyOrder l).foldl (fun (u : State) e => u.writePieces .l1 e.pieces (x.tileElem t e.idx)) (s.openElems l)
  let (bad, clean) := l.partition fun e => x.rowPoisoned t (e.idx / n)
  (u.flagLines (bad.flatMap fun e => placesOf e.pieces) (clean.flatMap fun e => placesOf e.pieces)).tick

/-- The check of one tile element: tile accesses use object addresses (R82). -/
def State.checkTile (s : State) (store : Bool) (w : Nat) (held : List Nat) (a : Word) (b : Nat) : Chk Hit :=
  s.walk (s.agentOf s.cur) (accVec store false) (joinPins s.myHolds held) a (if w < 8 then 1 else w / 8) b w

/-- The row a hard pre-emption that is due stops an instruction of these rows at, the first not done; none where it does not (R237,
R241; log 60). -/
def State.stopRow (s : State) (rows : List Nat) : Option Nat := rows[s.stopAfter rows.length]?

/-- A tile load or store: rows below the failing one perform, then the trap (R237). -/
def State.tileMem (s : State) (store : Bool) (m : TMode) (t : TReg) (a : GReg) : State :=
  let x := s.me
  let c := x.tile t.val
  let n := tileCols c
  let w := fmtBits (tileFmt c)
  let badG := match m with
    | .coord b => if (x.getG b).toNat = 0 ∨ 4294967296 ≤ (x.getG b).toNat then some (x.getG b) else none
    | _ => none
  let badMode := match m with
    | .strided _ => decide (w < 8)
    | _ => false
  if !tileValid c || badMode then s.trap 4 0
  else match badG with
  | some v => s.trap 6 v
  | none =>
    match s.tilePlaces m t a store with
    | .error p => s.holdFor p
    | .ok l =>
      let r := scanElems (s.checkTile store w) [] (s.failing store l)
      let go (done : List Passed) (k : State → State) : State :=
        let all := done.flatMap Passed.pieces
        let perform (l : List Passed) : State := if store then s.storeTile t l else s.loadTile t l
        if s.piecesWait all (some s.cur) then s.holdRows all (s.pinsOfElems done)
        else match s.stopRow (done.map fun e => e.idx / n).eraseDups with
        | some row => (perform (done.filter fun e => e.idx / n < row)).stopAt x row
        | none => k (perform done)
      match r.2 with
      | none => go r.1 fun u => u.vdone id
      | some (.fail j f v) =>
        go (r.1.filter fun e => e.idx / n < j / n) fun u =>
          (u.upd fun y => { y with vstart := BitVec.ofNat 64 (j / n) }).trapFail f v
      | some (.wait p) => (s.upd fun y => { y with pins := s.pinsOfElems r.1 }).holdFor p
      | some _ => (s.upd fun y => { y with pins := s.pinsOfElems r.1 }).hold

/-- TLD (R236, R237). -/
def execTld (t : TReg) (a : GReg) (s : State) : Host.Outcome State Fault Refusal :=
  run (fun s => s.tileMem false .unit t a) s

/-- TLDS (R236, R237). -/
def execTlds (t : TReg) (a : GReg) (b : GReg) (s : State) : Host.Outcome State Fault Refusal :=
  run (fun s => s.tileMem false (.strided b) t a) s

/-- TLDC (R236, R237). -/
def execTldc (t : TReg) (a : GReg) (b : GReg) (s : State) : Host.Outcome State Fault Refusal :=
  run (fun s => s.tileMem false (.coord b) t a) s

/-- TST (R236, R237). -/
def execTst (t : TReg) (a : GReg) (s : State) : Host.Outcome State Fault Refusal :=
  run (fun s => s.tileMem true .unit t a) s

/-- TSTS (R236, R237). -/
def execTsts (t : TReg) (a : GReg) (b : GReg) (s : State) : Host.Outcome State Fault Refusal :=
  run (fun s => s.tileMem true (.strided b) t a) s

/-- TSTC (R236, R237). -/
def execTstc (t : TReg) (a : GReg) (b : GReg) (s : State) : Host.Outcome State Fault Refusal :=
  run (fun s => s.tileMem true (.coord b) t a) s

/-! ## Tile moves (R238) -/

/-- A tile move: the configuration and the strand's share, then the exchange. -/
def State.tileMove (s : State) (t : TReg) (f : Nat → Nat → Strand → Strand) : State :=
  let c := s.me.tile t.val
  let n := tileRows c * tileCols c
  if !tileValid c || decide (s.share s.cur (tileFmt c) < n) then s.trap 4 0
  else s.upd fun x => (f (tileFmt c) n x).retire

/-- TMV (R238). -/
def execTmv (t : TReg) (a : VReg) (s : State) : Host.Outcome State Fault Refusal :=
  run (fun s => s.tileMove t fun f n x =>
    x.setTile t ((List.range n).map fun j => (j, x.elem a f j)) ((List.range n).filter fun j => x.elemPoison a f j)) s

/-- VMVT (R238). -/
def execVmvt (v : VReg) (t : TReg) (s : State) : Host.Outcome State Fault Refusal :=
  run (fun s => s.tileMove t fun f n x =>
    (x.setElems v f ((List.range n).map fun j => (j, x.tileElem t j))).markElems v f
      ((List.range n).filter fun j => x.rowPoisoned t (j / tileCols (x.tile t.val)))) s

/-! ## The matrix engine (R239, R240) -/

/-- The largest K of the accepted formats, 0 for the others (R239). -/
def largestK (block : Bool) (af bf df : Nat) : Nat :=
  let int8 (f : Nat) : Bool := f == 0 || f == 10
  let fp8 (f : Nat) : Bool := f == 4 || f == 5
  if block then (if df ≠ 8 then 0 else if fp8 af && fp8 bf then 128 else if af = 9 ∧ bf = 9 then 256 else 0)
  else if int8 af && int8 bf && df == 2 then 128
  else if fp8 af && fp8 bf && df == 8 then 128
  else if (af = 6 ∨ af = 7) ∧ bf = af ∧ df = 8 then 64
  else 0

/-- The exact sum of terms, rounded once to FP32 (R240). -/
def exactSum (ts : List ExactNum) : Nat :=
  let n : ExactNum :=
    if ts.any ExactNum.isNan then .canonical
    else
      let infs := (ts.filter ExactNum.isInf).map ExactNum.neg
      if infs.contains true && infs.contains false then .canonical
      else if infs ≠ [] then .inf (infs.contains true)
      else
        let fs := ts.filterMap fun t => match t with
          | .fin g m e => some (g, m, e)
          | _ => none
        let lo := fs.foldl (fun (a : Int) p => if p.2.2 < a then p.2.2 else a) 0
        let v := (fs.map fun p => scaledInt p.1 p.2.1 p.2.2 (-lo)).sum
        if v = 0 then .fin (ts.all ExactNum.neg) 0 0 else .fin (v < 0) v.natAbs lo
  encodeFloat 8 (.rm .rne) false n

/-- Output (r, n) of a matrix instruction over K elements (R240). -/
def Strand.matrixOut (x : Strand) (v a : VReg) (t : TReg) (scales : Option (EReg × EReg)) (acc : Bool) (r n : Nat) : Nat :=
  let c := x.tile t.val
  let kk := tileRows c
  let nn := tileCols c
  let a0 := if acc then x.elem v x.df (r * nn + n) else 0
  let ea (k : Nat) := x.elem a x.af (r * kk + k)
  let eb (k : Nat) := x.tileElem t (k * nn + n)
  match scales with
  | some (sa, sb) =>
    (List.range (kk / x.bl)).foldl (fun acc j =>
      let p := (x.e.get 0 (4096 * sa.val + (r * kk + j * x.bl) / x.bl)).toNat
      let q := (x.e.get 0 (4096 * sb.val + n * (kk / x.bl) + j)).toNat
      addBlock acc (blockValue x.af x.bf p q ((List.range x.bl).map fun i =>
        (dotElem x.af p (ea (j * x.bl + i)), dotElem x.bf q (eb (j * x.bl + i)))))) a0
  | none =>
    if x.df = 2 then intDot x.sat a0 ((List.range kk).map fun k => (intValue x.af (ea k), intValue x.bf (eb k)))
    else exactSum (decodeFloat 8 a0 :: (List.range kk).map fun k => ExactNum.mul (decodeFloat x.af (ea k)) (decodeFloat x.bf (eb k)))

/-- The checks at dispatch (R190, R239). -/
def State.matrixLegal (s : State) (t : TReg) (block : Bool) : Bool :=
  let x := s.me
  let c := x.tile t.val
  let k := tileRows c
  let n := tileCols c
  let vl := x.vl.toNat
  tileValid c && tileFmt c == x.bf && k ≤ largestK block x.af x.bf x.df && n ≤ 96 && vl % k == 0
    && (!block || (k % x.bl == 0 && x.scalesFit)) && vl / k * n ≤ s.share s.cur x.df && !s.tooLong [x.af]

/-- tval of the poison a matrix instruction consumes, in the order of R240. -/
def Strand.matrixPoison (x : Strand) (v a : VReg) (t : TReg) (acc : Bool) (outs : List Nat) : Option Nat :=
  let k := tileRows (x.tile t.val)
  match ((List.range x.vl.toNat).filter fun i => x.vstart.toNat * k ≤ i).find? fun i => x.elemPoison a x.af i with
  | some i => some i
  | none => match (List.range k).find? fun r => x.rowPoisoned t r with
    | some r => some (2 ^ 63 + r)
    | none => if acc then (outs.find? fun i => x.elemPoison v x.df i).map (2 ^ 62 + ·) else none

/-- A matrix instruction (R239-R242). -/
def matrixOp (acc : Bool) (scales : Option (EReg × EReg)) (v a : VReg) (t : TReg) (s : State) :
    Host.Outcome State Fault Refusal :=
  run (fun s =>
    let x := s.me
    let c := x.tile t.val
    let n := tileCols c
    let outs := (List.range (x.vl.toNat / tileRows c * n)).filter fun j => x.vstart.toNat ≤ j / n
    if !s.matrixLegal t scales.isSome then s.trap 4 0
    else if outs = [] then s.vdone id
    else
      let plan (l : List Nat) : Plan :=
        { reads := []
          dest := .vec v x.df (l.map fun j => (j, x.matrixOut v a t scales acc (j / n) (j % n)))
          scales := []
          cands := l.length
          stoch := false }
      match x.matrixPoison v a t acc outs with
      | some i => s.consume (plan outs).dest i
      | none => match s.stopRow (outs.map fun j => j / n).eraseDups with
        | none => s.finishPlan (plan outs)
        | some row => match outs.filter fun j => j / n < row with
          | [] => s.stopAt x row
          | l => (s.retirePlan (plan l)).stopAt x row) s

/-- MMUL (R239). -/
def execMmul (v a : VReg) (t : TReg) (s : State) : Host.Outcome State Fault Refusal := matrixOp false none v a t s
/-- MMAC (R239). -/
def execMmac (v a : VReg) (t : TReg) (s : State) : Host.Outcome State Fault Refusal := matrixOp true none v a t s
/-- MMULB (R239). -/
def execMmulb (v a : VReg) (t : TReg) (ea eb : EReg) (s : State) : Host.Outcome State Fault Refusal :=
  matrixOp false (some (ea, eb)) v a t s
/-- MMACB (R239). -/
def execMmacb (v a : VReg) (t : TReg) (ea eb : EReg) (s : State) : Host.Outcome State Fault Refusal :=
  matrixOp true (some (ea, eb)) v a t s

end Sys2Proof.Machine
end

