-- ==== Sys2Proof/Decode.lean ====
section
/-! DEFINITION. Decoding of strand words (R145-R153) and row micro-ops (R127-R132), and the encoder.
A word is read as a number; each field is a quotient and a remainder, as R146 and R127 place it.
Some definitions are marked noncomputable: Lean's compiler gives no code to a constructor with operands beyond the 245th of
an inductive, and Instr has 374 (log 9). The kernel evaluates them all. -/

namespace Sys2Proof

/-- Why a word is no instruction: the trap R152 gives it. -/
inductive Reject where
  /-- Cause 0x01: majors 0x00 and 0x7F, and control register numbers that are not assigned. -/
  | illegal
  /-- Cause 0x02: every other word outside the maps. -/
  | reserved
  deriving DecidableEq, Repr

/-! ## Fields (R146) -/

/-- The major opcode, bits [31:25]. -/
def major (w : Nat) : Nat := w / 33554432
/-- gd of formats A, I, L, Y; ga of format B: bits [24:20]. -/
def gd (w : Nat) : Nat := w / 1048576 % 32
/-- ga of formats A, I, Y; gb of format B: bits [19:15]. -/
def ga (w : Nat) : Nat := w / 32768 % 32
/-- gb of formats A, Y: bits [14:10]. -/
def gb (w : Nat) : Nat := w / 1024 % 32
/-- fn of format A: bits [9:0]. -/
def fnA (w : Nat) : Nat := w % 1024
/-- imm15: bits [14:0]. -/
def imm15 (w : Nat) : Nat := w % 32768
/-- imm20 of format L: bits [19:0]. -/
def imm20 (w : Nat) : Nat := w % 1048576
/-- imm25 of format J: bits [24:0]. -/
def imm25 (w : Nat) : Nat := w % 33554432
/-- vd of formats V, M, T: bits [24:19]. -/
def vd (w : Nat) : Nat := w / 524288 % 64
/-- vs1 of formats V, T: bits [18:13]. -/
def vs1 (w : Nat) : Nat := w / 8192 % 64
/-- The third operand of format V: bits [12:7]. -/
def vo (w : Nat) : Nat := w / 128 % 64
/-- The mask of format V: bits [6:4]. -/
def vk (w : Nat) : Nat := w / 16 % 8
/-- The form of format V: bits [3:2]. -/
def vform (w : Nat) : Nat := w / 4 % 4
/-- Bit [1]: dt of formats V and M, acc of format T. -/
def bit1 (w : Nat) : Nat := w / 2 % 2
/-- Bit [0]: x of formats V and T, w of format M. -/
def bit0 (w : Nat) : Nat := w % 2
/-- ga of format M: bits [18:14]. -/
def ma (w : Nat) : Nat := w / 16384 % 32
/-- vi, or [13] and gb, of format M: bits [13:8]. -/
def mo (w : Nat) : Nat := w / 256 % 64
/-- The mode of format M: bits [7:5]. -/
def mmode (w : Nat) : Nat := w / 32 % 8
/-- The mask of format M: bits [4:2]. -/
def mk (w : Nat) : Nat := w / 4 % 8
/-- t of format T: bits [12:10]. -/
def tt (w : Nat) : Nat := w / 1024 % 8
/-- ea of format T: bits [9:6]. -/
def tea (w : Nat) : Nat := w / 64 % 16
/-- eb of format T: bits [5:2]. -/
def teb (w : Nat) : Nat := w / 4 % 16
/-- The scope of format Y: bits [9:7]. -/
def ysc (w : Nat) : Nat := w / 128 % 8
/-- acq of format Y: bit [6]. -/
def yacq (w : Nat) : Nat := w / 64 % 2
/-- rel of format Y: bit [5]. -/
def yrel (w : Nat) : Nat := w / 32 % 2
/-- fn of format Y: bits [4:0]. -/
def yfn (w : Nat) : Nat := w % 32

/-- A general register number. -/
def g (n : Nat) : GReg := Fin.ofNat 32 n
/-- A vector register number. -/
def v (n : Nat) : VReg := Fin.ofNat 64 n
/-- A mask register number. -/
def k (n : Nat) : KReg := Fin.ofNat 8 n
/-- A tile register number. -/
def t (n : Nat) : TReg := Fin.ofNat 8 n
/-- A scale register number. -/
def e (n : Nat) : EReg := Fin.ofNat 16 n
/-- A one-bit field. -/
def flag (n : Nat) : Bool := n == 1

/-- The scope of a code; 5 to 7 are reserved (R99). -/
def scopeOf (n : Nat) : Option Scope :=
  match n with
  | 0 => some .strand
  | 1 => some .core
  | 2 => some .die
  | 3 => some .module
  | 4 => some .system
  | _ => none

/-- `i` when every check `c` of its encoding holds, else the reserved-encoding trap (R152). -/
def only (c : Bool) (i : Instr) : Except Reject Instr := if c then .ok i else .error .reserved

/-- The instruction `f` of a word's scope when `c` holds and the scope is assigned (R99, R152). -/
def withScope (w : Nat) (c : Bool) (f : Scope → Instr) : Except Reject Instr :=
  match scopeOf (ysc w) with
  | some s => only c (f s)
  | none => .error .reserved

/-- The same where acq and rel choose, and with both 0 the scope must be 0 (R147). -/
def withOrder (w : Nat) (c : Bool) (f : Scope → Bool → Bool → Instr) : Except Reject Instr :=
  withScope w (c && (yacq w != 0 || yrel w != 0 || ysc w == 0)) fun s => f s (flag (yacq w)) (flag (yrel w))

/-- The second V operand by form (R147); form 11, and form 01 with bit [12] set, are reserved. -/
def vsrc (w : Nat) : Option VSrc :=
  match vform w with
  | 0 => some (.vv (v (vo w)))
  | 1 => if vo w < 32 then some (.vs (g (vo w))) else none
  | 2 => some (.vi (BitVec.ofNat 6 (vo w)))
  | _ => none

/-- A V-format instruction whose second operand must satisfy `ok`. -/
def withSrc (w : Nat) (ok : VSrc → Bool) (f : VSrc → Instr) : Except Reject Instr :=
  match vsrc w with
  | some b => only (ok b) (f b)
  | none => .error .reserved

/-! ## The maps (R148-R151) -/

/-- Major 0x01 (R165). -/
def decodeAlu (w : Nat) : Except Reject Instr :=
  match fnA w with
  | 0x000 => .ok (.add (g (gd w)) (g (ga w)) (g (gb w)))
  | 0x001 => .ok (.sub (g (gd w)) (g (ga w)) (g (gb w)))
  | 0x002 => .ok (.and (g (gd w)) (g (ga w)) (g (gb w)))
  | 0x003 => .ok (.or (g (gd w)) (g (ga w)) (g (gb w)))
  | 0x004 => .ok (.xor (g (gd w)) (g (ga w)) (g (gb w)))
  | 0x005 => .ok (.andn (g (gd w)) (g (ga w)) (g (gb w)))
  | 0x006 => .ok (.sll (g (gd w)) (g (ga w)) (g (gb w)))
  | 0x007 => .ok (.srl (g (gd w)) (g (ga w)) (g (gb w)))
  | 0x008 => .ok (.sra (g (gd w)) (g (ga w)) (g (gb w)))
  | 0x009 => .ok (.rol (g (gd w)) (g (ga w)) (g (gb w)))
  | 0x00A => .ok (.slt (g (gd w)) (g (ga w)) (g (gb w)))
  | 0x00B => .ok (.sltu (g (gd w)) (g (ga w)) (g (gb w)))
  | 0x00C => .ok (.min (g (gd w)) (g (ga w)) (g (gb w)))
  | 0x00D => .ok (.max (g (gd w)) (g (ga w)) (g (gb w)))
  | 0x00E => .ok (.minu (g (gd w)) (g (ga w)) (g (gb w)))
  | 0x00F => .ok (.maxu (g (gd w)) (g (ga w)) (g (gb w)))
  | 0x010 => .ok (.seq (g (gd w)) (g (ga w)) (g (gb w)))
  | 0x011 => .ok (.sne (g (gd w)) (g (ga w)) (g (gb w)))
  | _ => .error .reserved

/-- Major 0x02 (R166). -/
def decodeMul (w : Nat) : Except Reject Instr :=
  match fnA w with
  | 0x000 => .ok (.mul (g (gd w)) (g (ga w)) (g (gb w)))
  | 0x001 => .ok (.mulhs (g (gd w)) (g (ga w)) (g (gb w)))
  | 0x002 => .ok (.mulhu (g (gd w)) (g (ga w)) (g (gb w)))
  | 0x003 => .ok (.mulhm (g (gd w)) (g (ga w)) (g (gb w)))
  | 0x010 => .ok (.quot (g (gd w)) (g (ga w)) (g (gb w)))
  | 0x011 => .ok (.quotu (g (gd w)) (g (ga w)) (g (gb w)))
  | 0x012 => .ok (.mod (g (gd w)) (g (ga w)) (g (gb w)))
  | 0x013 => .ok (.modu (g (gd w)) (g (ga w)) (g (gb w)))
  | _ => .error .reserved

/-- Major 0x03 (R167): the unary operations need gb = 0; 0x040 to 0x07F are fshr with its amount. -/
def decodeBits (w : Nat) : Except Reject Instr :=
  if 64 ≤ fnA w ∧ fnA w < 128 then .ok (.fshr (g (gd w)) (g (ga w)) (g (gb w)) (BitVec.ofNat 6 (fnA w - 64)))
  else match fnA w with
  | 0x000 => only (gb w == 0) (.clz (g (gd w)) (g (ga w)))
  | 0x001 => only (gb w == 0) (.ctz (g (gd w)) (g (ga w)))
  | 0x002 => only (gb w == 0) (.popc (g (gd w)) (g (ga w)))
  | 0x003 => only (gb w == 0) (.rev8 (g (gd w)) (g (ga w)))
  | _ => .error .reserved

/-- Major 0x0A (R169): imm15[14:8] zero, [7:6] the operation, [5:0] the amount. -/
def decodeShiftImm (w : Nat) : Except Reject Instr :=
  match imm15 w / 64 with
  | 0 => .ok (.slli (g (gd w)) (g (ga w)) (BitVec.ofNat 6 (w % 64)))
  | 1 => .ok (.srli (g (gd w)) (g (ga w)) (BitVec.ofNat 6 (w % 64)))
  | 2 => .ok (.srai (g (gd w)) (g (ga w)) (BitVec.ofNat 6 (w % 64)))
  | 3 => .ok (.roli (g (gd w)) (g (ga w)) (BitVec.ofNat 6 (w % 64)))
  | _ => .error .reserved

/-- Major 0x0B (R170): imm15[14:13] zero, [12] bfx, [11:6] width - 1, [5:0] position. -/
def decodeField (w : Nat) : Except Reject Instr :=
  match imm15 w / 4096 with
  | 0 => .ok (.bfxu (g (gd w)) (g (ga w)) (BitVec.ofNat 6 (w / 64 % 64)) (BitVec.ofNat 6 (w % 64)))
  | 1 => .ok (.bfx (g (gd w)) (g (ga w)) (BitVec.ofNat 6 (w / 64 % 64)) (BitVec.ofNat 6 (w % 64)))
  | _ => .error .reserved

/-- Major 0x21 (R179): an unassigned register is illegal before the operation is judged. -/
def decodeCr (w : Nat) : Except Reject Instr :=
  if !crAssigned (w % 4096) then .error .illegal
  else match imm15 w / 4096 with
  | 0 => only (ga w == 0) (.crr (g (gd w)) (BitVec.ofNat 12 (w % 4096)))
  | 1 => .ok (.crw (g (gd w)) (g (ga w)) (BitVec.ofNat 12 (w % 4096)))
  | 2 => .ok (.crs (g (gd w)) (g (ga w)) (BitVec.ofNat 12 (w % 4096)))
  | 3 => .ok (.crc (g (gd w)) (g (ga w)) (BitVec.ofNat 12 (w % 4096)))
  | _ => .error .reserved

/-- Major 0x22 (R185-R189): gb, scope, acq and rel zero. -/
def decodeSys (w : Nat) : Except Reject Instr :=
  match w % 32768 with
  | 0 => only (gd w == 0) (.svc (g (ga w)))
  | 1 => only (gd w == 0) (.sret (g (ga w)))
  | 2 => .ok (.doze (g (gd w)) (g (ga w)))
  | 3 => only (gd w == 0) (.wake (g (ga w)))
  | 4 => only (gd w == 0 && ga w == 0) .brk
  | _ => .error .reserved

/-- Major 0x28: 32-bit atomics (R182). -/
def decodeAtomicW (w : Nat) : Except Reject Instr :=
  match yfn w with
  | 0 => withOrder w true (.atswapW (g (gd w)) (g (ga w)) (g (gb w)))
  | 1 => withOrder w true (.ataddW (g (gd w)) (g (ga w)) (g (gb w)))
  | 2 => withOrder w true (.atandW (g (gd w)) (g (ga w)) (g (gb w)))
  | 3 => withOrder w true (.atorW (g (gd w)) (g (ga w)) (g (gb w)))
  | 4 => withOrder w true (.atxorW (g (gd w)) (g (ga w)) (g (gb w)))
  | 5 => withOrder w true (.atminW (g (gd w)) (g (ga w)) (g (gb w)))
  | 6 => withOrder w true (.atmaxW (g (gd w)) (g (ga w)) (g (gb w)))
  | 7 => withOrder w true (.atminuW (g (gd w)) (g (ga w)) (g (gb w)))
  | 8 => withOrder w true (.atmaxuW (g (gd w)) (g (ga w)) (g (gb w)))
  | 9 => withOrder w true (.casW (g (gd w)) (g (ga w)) (g (gb w)))
  | _ => .error .reserved

/-- Major 0x29: 64-bit atomics (R182). -/
def decodeAtomicD (w : Nat) : Except Reject Instr :=
  match yfn w with
  | 0 => withOrder w true (.atswapD (g (gd w)) (g (ga w)) (g (gb w)))
  | 1 => withOrder w true (.ataddD (g (gd w)) (g (ga w)) (g (gb w)))
  | 2 => withOrder w true (.atandD (g (gd w)) (g (ga w)) (g (gb w)))
  | 3 => withOrder w true (.atorD (g (gd w)) (g (ga w)) (g (gb w)))
  | 4 => withOrder w true (.atxorD (g (gd w)) (g (ga w)) (g (gb w)))
  | 5 => withOrder w true (.atminD (g (gd w)) (g (ga w)) (g (gb w)))
  | 6 => withOrder w true (.atmaxD (g (gd w)) (g (ga w)) (g (gb w)))
  | 7 => withOrder w true (.atminuD (g (gd w)) (g (ga w)) (g (gb w)))
  | 8 => withOrder w true (.atmaxuD (g (gd w)) (g (ga w)) (g (gb w)))
  | 9 => withOrder w true (.casD (g (gd w)) (g (ga w)) (g (gb w)))
  | _ => .error .reserved

/-- Major 0x2A: acquire loads and release stores (R176). -/
def decodeLdaStl (w : Nat) : Except Reject Instr :=
  match yfn w with
  | 0 => withScope w (yacq w == 1 && yrel w == 0 && gb w == 0) (.ldaB (g (gd w)) (g (ga w)))
  | 1 => withScope w (yacq w == 1 && yrel w == 0 && gb w == 0) (.ldaH (g (gd w)) (g (ga w)))
  | 2 => withScope w (yacq w == 1 && yrel w == 0 && gb w == 0) (.ldaW (g (gd w)) (g (ga w)))
  | 3 => withScope w (yacq w == 1 && yrel w == 0 && gb w == 0) (.ldaD (g (gd w)) (g (ga w)))
  | 4 => withScope w (yacq w == 0 && yrel w == 1 && gd w == 0) (.stlB (g (ga w)) (g (gb w)))
  | 5 => withScope w (yacq w == 0 && yrel w == 1 && gd w == 0) (.stlH (g (ga w)) (g (gb w)))
  | 6 => withScope w (yacq w == 0 && yrel w == 1 && gd w == 0) (.stlW (g (ga w)) (g (gb w)))
  | 7 => withScope w (yacq w == 0 && yrel w == 1 && gd w == 0) (.stlD (g (ga w)) (g (gb w)))
  | _ => .error .reserved

/-- Major 0x2B: the typed fence (R148); an empty set is reserved. -/
def decodeFence (w : Nat) : Except Reject Instr :=
  withScope w (gd w == 0 && ga w == 0 && gb w < 16 && yacq w == 0 && yrel w == 0 && yfn w < 16
      && gb w != 0 && yfn w != 0)
    fun s => .fence (BitVec.ofNat 4 (gb w)) s (BitVec.ofNat 4 (yfn w))

/-- Major 0x30 (R149). -/
def decodeVset (w : Nat) : Except Reject Instr :=
  match fnA w with
  | 0 => only (gb w == 0) (.vsetl (g (gd w)) (g (ga w)))
  | 1 => .ok (.vsetlf (g (gd w)) (g (ga w)) (g (gb w)))
  | _ => .error .reserved

/-- Majors 0x00 to 0x31 but for the families above (R148, R149). -/
def decodeScalar (w : Nat) : Except Reject Instr :=
  match major w with
  | 0x00 => .error .illegal
  | 0x01 => decodeAlu w
  | 0x02 => decodeMul w
  | 0x03 => decodeBits w
  | 0x04 => .ok (.addi (g (gd w)) (g (ga w)) (BitVec.ofNat 15 (imm15 w)))
  | 0x05 => .ok (.andi (g (gd w)) (g (ga w)) (BitVec.ofNat 15 (imm15 w)))
  | 0x06 => .ok (.ori (g (gd w)) (g (ga w)) (BitVec.ofNat 15 (imm15 w)))
  | 0x07 => .ok (.xori (g (gd w)) (g (ga w)) (BitVec.ofNat 15 (imm15 w)))
  | 0x08 => .ok (.slti (g (gd w)) (g (ga w)) (BitVec.ofNat 15 (imm15 w)))
  | 0x09 => .ok (.sltiu (g (gd w)) (g (ga w)) (BitVec.ofNat 15 (imm15 w)))
  | 0x0A => decodeShiftImm w
  | 0x0B => decodeField w
  | 0x0D => .ok (.lui (g (gd w)) (BitVec.ofNat 20 (imm20 w)))
  | 0x0E => only (imm20 w < 4096) (.lmid (g (gd w)) (BitVec.ofNat 12 (imm20 w)))
  | 0x0F => .ok (.lhi (g (gd w)) (BitVec.ofNat 20 (imm20 w)))
  | 0x10 => .ok (.ldb (g (gd w)) (g (ga w)) (BitVec.ofNat 15 (imm15 w)))
  | 0x11 => .ok (.ldh (g (gd w)) (g (ga w)) (BitVec.ofNat 15 (imm15 w)))
  | 0x12 => .ok (.ldw (g (gd w)) (g (ga w)) (BitVec.ofNat 15 (imm15 w)))
  | 0x13 => .ok (.ldd (g (gd w)) (g (ga w)) (BitVec.ofNat 15 (imm15 w)))
  | 0x14 => .ok (.ldbu (g (gd w)) (g (ga w)) (BitVec.ofNat 15 (imm15 w)))
  | 0x15 => .ok (.ldhu (g (gd w)) (g (ga w)) (BitVec.ofNat 15 (imm15 w)))
  | 0x16 => .ok (.ldwu (g (gd w)) (g (ga w)) (BitVec.ofNat 15 (imm15 w)))
  | 0x17 => .ok (.stb (g (gd w)) (g (ga w)) (BitVec.ofNat 15 (imm15 w)))
  | 0x18 => .ok (.sth (g (gd w)) (g (ga w)) (BitVec.ofNat 15 (imm15 w)))
  | 0x19 => .ok (.stw (g (gd w)) (g (ga w)) (BitVec.ofNat 15 (imm15 w)))
  | 0x1A => .ok (.std (g (gd w)) (g (ga w)) (BitVec.ofNat 15 (imm15 w)))
  | 0x1B => .ok (.beq (g (gd w)) (g (ga w)) (BitVec.ofNat 15 (imm15 w)))
  | 0x1C => .ok (.bne (g (gd w)) (g (ga w)) (BitVec.ofNat 15 (imm15 w)))
  | 0x1D => .ok (.blt (g (gd w)) (g (ga w)) (BitVec.ofNat 15 (imm15 w)))
  | 0x1E => .ok (.bge (g (gd w)) (g (ga w)) (BitVec.ofNat 15 (imm15 w)))
  | 0x1F => .ok (.jal (BitVec.ofNat 25 (imm25 w)))
  | 0x20 => .ok (.jalr (g (gd w)) (g (ga w)) (BitVec.ofNat 15 (imm15 w)))
  | 0x21 => decodeCr w
  | 0x22 => decodeSys w
  | 0x28 => decodeAtomicW w
  | 0x29 => decodeAtomicD w
  | 0x2A => decodeLdaStl w
  | 0x2B => decodeFence w
  | 0x30 => decodeVset w
  | 0x31 => only (ga w == 0) (.vsetlc (g (gd w)) (BitVec.ofNat 15 (imm15 w)))
  | _ => .error .reserved

/-- Major 0x32 by mode (R149). -/
def decodeVload (w : Nat) : Except Reject Instr :=
  match mmode w with
  | 0 => only (mo w == 0) (.vld (v (vd w)) (g (ma w)) (k (mk w)) (flag (bit1 w)) (flag (bit0 w)))
  | 1 => only (mo w < 32 && bit0 w == 0) (.vlds (v (vd w)) (g (ma w)) (g (mo w)) (k (mk w)) (flag (bit1 w)))
  | 2 => only (bit0 w == 0) (.vldx (v (vd w)) (g (ma w)) (v (mo w)) (k (mk w)) (flag (bit1 w)))
  | 3 => only (bit0 w == 0) (.vldxo (v (vd w)) (g (ma w)) (v (mo w)) (k (mk w)) (flag (bit1 w)))
  | 4 => only (mo w < 32 && bit0 w == 0) (.vldc (v (vd w)) (g (ma w)) (g (mo w)) (k (mk w)) (flag (bit1 w)))
  | 5 => only (mo w == 0) (.vldo (v (vd w)) (g (ma w)) (k (mk w)) (flag (bit1 w)) (flag (bit0 w)))
  | _ => .error .reserved

/-- Major 0x33 by mode (R149). -/
def decodeVstore (w : Nat) : Except Reject Instr :=
  match mmode w with
  | 0 => only (mo w == 0) (.vst (v (vd w)) (g (ma w)) (k (mk w)) (flag (bit1 w)) (flag (bit0 w)))
  | 1 => only (mo w < 32 && bit0 w == 0) (.vsts (v (vd w)) (g (ma w)) (g (mo w)) (k (mk w)) (flag (bit1 w)))
  | 2 => only (bit0 w == 0) (.vstx (v (vd w)) (g (ma w)) (v (mo w)) (k (mk w)) (flag (bit1 w)))
  | 3 => only (bit0 w == 0) (.vstxo (v (vd w)) (g (ma w)) (v (mo w)) (k (mk w)) (flag (bit1 w)))
  | 4 => only (mo w < 32 && bit0 w == 0) (.vstc (v (vd w)) (g (ma w)) (g (mo w)) (k (mk w)) (flag (bit1 w)))
  | 5 => only (mo w == 0) (.vsto (v (vd w)) (g (ma w)) (k (mk w)) (flag (bit1 w)) (flag (bit0 w)))
  | _ => .error .reserved

/-- Major 0x34: scale registers (R149); a register above 15 is reserved. -/
def decodeVlde (w : Nat) : Except Reject Instr :=
  match w % 256 with
  | 0 => only (vd w < 16 && mo w == 0) (.vlde (e (vd w)) (g (ma w)))
  | 32 => only (vd w < 16 && mo w < 32) (.vldes (e (vd w)) (g (ma w)) (g (mo w)))
  | _ => .error .reserved

/-- Major 0x35: scale registers (R149); a register above 15 is reserved. -/
def decodeVste (w : Nat) : Except Reject Instr :=
  match w % 256 with
  | 0 => only (vd w < 16 && mo w == 0) (.vste (e (vd w)) (g (ma w)))
  | 32 => only (vd w < 16 && mo w < 32) (.vstes (e (vd w)) (g (ma w)) (g (mo w)))
  | _ => .error .reserved

/-- Major 0x68: tiles (R149); a register above 7 is reserved. -/
noncomputable def decodeTld (w : Nat) : Except Reject Instr :=
  match w % 256 with
  | 0 => only (vd w < 8 && mo w == 0) (.tld (t (vd w)) (g (ma w)))
  | 32 => only (vd w < 8 && mo w < 32) (.tlds (t (vd w)) (g (ma w)) (g (mo w)))
  | 128 => only (vd w < 8 && mo w < 32) (.tldc (t (vd w)) (g (ma w)) (g (mo w)))
  | _ => .error .reserved

/-- Major 0x69: tiles (R149); a register above 7 is reserved. -/
noncomputable def decodeTst (w : Nat) : Except Reject Instr :=
  match w % 256 with
  | 0 => only (vd w < 8 && mo w == 0) (.tst (t (vd w)) (g (ma w)))
  | 32 => only (vd w < 8 && mo w < 32) (.tsts (t (vd w)) (g (ma w)) (g (mo w)))
  | 128 => only (vd w < 8 && mo w < 32) (.tstc (t (vd w)) (g (ma w)) (g (mo w)))
  | _ => .error .reserved

/-- Majors 0x36 to 0x3B: vector atomics, mode 010 only, w zero (R149). -/
def decodeVat (w : Nat) : Except Reject Instr :=
  if mmode w ≠ 2 ∨ bit0 w ≠ 0 then .error .reserved
  else match major w with
  | 0x36 => .ok (.vatadd (v (vd w)) (g (ma w)) (v (mo w)) (k (mk w)) (flag (bit1 w)))
  | 0x37 => .ok (.vatmin (v (vd w)) (g (ma w)) (v (mo w)) (k (mk w)) (flag (bit1 w)))
  | 0x38 => .ok (.vatmax (v (vd w)) (g (ma w)) (v (mo w)) (k (mk w)) (flag (bit1 w)))
  | 0x39 => .ok (.vatswap (v (vd w)) (g (ma w)) (v (mo w)) (k (mk w)) (flag (bit1 w)))
  | 0x3A => .ok (.vatand (v (vd w)) (g (ma w)) (v (mo w)) (k (mk w)) (flag (bit1 w)))
  | 0x3B => .ok (.vator (v (vd w)) (g (ma w)) (v (mo w)) (k (mk w)) (flag (bit1 w)))
  | _ => .error .reserved

/-- Majors 0x32 to 0x3B (R149). -/
def decodeVmem (w : Nat) : Except Reject Instr :=
  match major w with
  | 0x32 => decodeVload w
  | 0x33 => decodeVstore w
  | 0x34 => decodeVlde w
  | 0x35 => decodeVste w
  | _ => decodeVat w

/-- vmove (R150): form v reads vs1 with [12:7] zero; forms vs and vi have vs1 zero. -/
noncomputable def decodeVmove (w : Nat) : Except Reject Instr :=
  if vform w = 0 then only (vo w == 0) (.vmove (v (vd w)) (.vv (v (vs1 w))) (k (vk w)) (flag (bit1 w)))
  else withSrc w (fun _ => vs1 w == 0) fun b => .vmove (v (vd w)) b (k (vk w)) (flag (bit1 w))

/-- Major 0x67: reductions, the function in [12:7] (R150). -/
noncomputable def decodeReduce (w : Nat) : Except Reject Instr :=
  if vform w ≠ 0 ∨ bit0 w ≠ 0 then .error .reserved
  else match vo w with
  | 0 => .ok (.vrsum (v (vd w)) (v (vs1 w)) (k (vk w)) (flag (bit1 w)))
  | 1 => .ok (.vrmin (v (vd w)) (v (vs1 w)) (k (vk w)) (flag (bit1 w)))
  | 2 => .ok (.vrmax (v (vd w)) (v (vs1 w)) (k (vk w)) (flag (bit1 w)))
  | 3 => .ok (.vrminu (v (vd w)) (v (vs1 w)) (k (vk w)) (flag (bit1 w)))
  | 4 => .ok (.vrmaxu (v (vd w)) (v (vs1 w)) (k (vk w)) (flag (bit1 w)))
  | 5 => .ok (.vrand (v (vd w)) (v (vs1 w)) (k (vk w)) (flag (bit1 w)))
  | 6 => .ok (.vror (v (vd w)) (v (vs1 w)) (k (vk w)) (flag (bit1 w)))
  | 7 => .ok (.vrxor (v (vd w)) (v (vs1 w)) (k (vk w)) (flag (bit1 w)))
  | 8 => .ok (.vfrsum (v (vd w)) (v (vs1 w)) (k (vk w)) (flag (bit1 w)))
  | 9 => .ok (.vfrosum (v (vd w)) (v (vs1 w)) (k (vk w)) (flag (bit1 w)))
  | 10 => .ok (.vfrmin (v (vd w)) (v (vs1 w)) (k (vk w)) (flag (bit1 w)))
  | 11 => .ok (.vfrmax (v (vd w)) (v (vs1 w)) (k (vk w)) (flag (bit1 w)))
  | _ => .error .reserved

/-- Majors 0x40 to 0x4F (R150). -/
def decodeVArith (w : Nat) : Except Reject Instr :=
  match major w, bit0 w with
  | 0x40, 0 => withSrc w (fun _ => true) fun b => .vadd (v (vd w)) (v (vs1 w)) b (k (vk w)) (flag (bit1 w))
  | 0x40, 1 => withSrc w (VSrc.isReg) fun b => .vfadd (v (vd w)) (v (vs1 w)) b (k (vk w)) (flag (bit1 w))
  | 0x41, 0 => withSrc w (fun _ => true) fun b => .vsub (v (vd w)) (v (vs1 w)) b (k (vk w)) (flag (bit1 w))
  | 0x41, 1 => withSrc w (VSrc.isReg) fun b => .vfsub (v (vd w)) (v (vs1 w)) b (k (vk w)) (flag (bit1 w))
  | 0x42, 0 => withSrc w (fun _ => true) fun b => .vmul (v (vd w)) (v (vs1 w)) b (k (vk w)) (flag (bit1 w))
  | 0x42, 1 => withSrc w (VSrc.isReg) fun b => .vfmul (v (vd w)) (v (vs1 w)) b (k (vk w)) (flag (bit1 w))
  | 0x43, 0 => withSrc w (fun _ => true) fun b => .vmulhs (v (vd w)) (v (vs1 w)) b (k (vk w)) (flag (bit1 w))
  | 0x43, 1 => withSrc w (fun _ => true) fun b => .vmulhu (v (vd w)) (v (vs1 w)) b (k (vk w)) (flag (bit1 w))
  | 0x44, 0 => withSrc w (fun _ => true) fun b => .vmuladd (v (vd w)) (v (vs1 w)) b (k (vk w)) (flag (bit1 w))
  | 0x44, 1 => withSrc w (VSrc.isReg) fun b => .vfmuladd (v (vd w)) (v (vs1 w)) b (k (vk w)) (flag (bit1 w))
  | 0x45, 0 => withSrc w (fun _ => true) fun b => .vmulsub (v (vd w)) (v (vs1 w)) b (k (vk w)) (flag (bit1 w))
  | 0x45, 1 => withSrc w (VSrc.isReg) fun b => .vfmulsub (v (vd w)) (v (vs1 w)) b (k (vk w)) (flag (bit1 w))
  | 0x46, 0 => withSrc w (fun _ => true) fun b => .vmin (v (vd w)) (v (vs1 w)) b (k (vk w)) (flag (bit1 w))
  | 0x46, 1 => withSrc w (VSrc.isReg) fun b => .vfmin (v (vd w)) (v (vs1 w)) b (k (vk w)) (flag (bit1 w))
  | 0x47, 0 => withSrc w (fun _ => true) fun b => .vmax (v (vd w)) (v (vs1 w)) b (k (vk w)) (flag (bit1 w))
  | 0x47, 1 => withSrc w (VSrc.isReg) fun b => .vfmax (v (vd w)) (v (vs1 w)) b (k (vk w)) (flag (bit1 w))
  | 0x48, 0 => withSrc w (fun _ => true) fun b => .vminu (v (vd w)) (v (vs1 w)) b (k (vk w)) (flag (bit1 w))
  | 0x48, 1 => withSrc w (fun _ => true) fun b => .vmaxu (v (vd w)) (v (vs1 w)) b (k (vk w)) (flag (bit1 w))
  | 0x49, 0 => withSrc w (fun _ => true) fun b => .vand (v (vd w)) (v (vs1 w)) b (k (vk w)) (flag (bit1 w))
  | 0x49, 1 => withSrc w (fun _ => true) fun b => .vor (v (vd w)) (v (vs1 w)) b (k (vk w)) (flag (bit1 w))
  | 0x4A, 0 => withSrc w (fun _ => true) fun b => .vxor (v (vd w)) (v (vs1 w)) b (k (vk w)) (flag (bit1 w))
  | 0x4A, 1 => withSrc w (fun _ => true) fun b => .vandn (v (vd w)) (v (vs1 w)) b (k (vk w)) (flag (bit1 w))
  | 0x4B, 0 => withSrc w (fun _ => true) fun b => .vshl (v (vd w)) (v (vs1 w)) b (k (vk w)) (flag (bit1 w))
  | 0x4B, 1 => withSrc w (fun _ => true) fun b => .vshr (v (vd w)) (v (vs1 w)) b (k (vk w)) (flag (bit1 w))
  | 0x4C, 0 => withSrc w (fun _ => true) fun b => .vsar (v (vd w)) (v (vs1 w)) b (k (vk w)) (flag (bit1 w))
  | 0x4C, 1 => withSrc w (fun _ => true) fun b => .vrol (v (vd w)) (v (vs1 w)) b (k (vk w)) (flag (bit1 w))
  | 0x4D, 0 => withSrc w (fun _ => true) fun b => .vaddsat (v (vd w)) (v (vs1 w)) b (k (vk w)) (flag (bit1 w))
  | 0x4D, 1 => withSrc w (fun _ => true) fun b => .vsubsat (v (vd w)) (v (vs1 w)) b (k (vk w)) (flag (bit1 w))
  | 0x4E, 0 => withSrc w (VSrc.isReg) fun b => .vquot (v (vd w)) (v (vs1 w)) b (k (vk w)) (flag (bit1 w))
  | 0x4E, 1 => withSrc w (VSrc.isReg) fun b => .vquotu (v (vd w)) (v (vs1 w)) b (k (vk w)) (flag (bit1 w))
  | 0x4F, 0 => withSrc w (VSrc.isReg) fun b => .vmod (v (vd w)) (v (vs1 w)) b (k (vk w)) (flag (bit1 w))
  | 0x4F, 1 => withSrc w (VSrc.isReg) fun b => .vmodu (v (vd w)) (v (vs1 w)) b (k (vk w)) (flag (bit1 w))
  | _, _ => .error .reserved

/-- Majors 0x50 to 0x5F (R150). -/
noncomputable def decodeVFloat (w : Nat) : Except Reject Instr :=
  match major w, bit0 w with
  | 0x50, 0 => withSrc w (VSrc.isReg) fun b => .vfdiv (v (vd w)) (v (vs1 w)) b (k (vk w)) (flag (bit1 w))
  | 0x50, 1 => only (vform w == 0 && vo w == 0) (.vfsqrt (v (vd w)) (v (vs1 w)) (k (vk w)) (flag (bit1 w)))
  | 0x51, 0 => only (vform w == 0 && vo w == 0) (.vfrec (v (vd w)) (v (vs1 w)) (k (vk w)) (flag (bit1 w)))
  | 0x51, 1 => only (vform w == 0 && vo w == 0) (.vfrsq (v (vd w)) (v (vs1 w)) (k (vk w)) (flag (bit1 w)))
  | 0x52, 0 => only (vform w == 0 && vo w == 0) (.vfexp (v (vd w)) (v (vs1 w)) (k (vk w)) (flag (bit1 w)))
  | 0x52, 1 => only (vform w == 0 && vo w == 0) (.vflog (v (vd w)) (v (vs1 w)) (k (vk w)) (flag (bit1 w)))
  | 0x53, 0 => withSrc w (fun _ => vd w < 8) fun b => .vceq (k (vd w)) (v (vs1 w)) b (k (vk w)) (flag (bit1 w))
  | 0x53, 1 => withSrc w (fun _ => vd w < 8) fun b => .vcne (k (vd w)) (v (vs1 w)) b (k (vk w)) (flag (bit1 w))
  | 0x54, 0 => withSrc w (fun _ => vd w < 8) fun b => .vclt (k (vd w)) (v (vs1 w)) b (k (vk w)) (flag (bit1 w))
  | 0x54, 1 => withSrc w (fun _ => vd w < 8) fun b => .vcle (k (vd w)) (v (vs1 w)) b (k (vk w)) (flag (bit1 w))
  | 0x55, 0 => withSrc w (fun _ => vd w < 8) fun b => .vcltu (k (vd w)) (v (vs1 w)) b (k (vk w)) (flag (bit1 w))
  | 0x55, 1 => withSrc w (fun _ => vd w < 8) fun b => .vcleu (k (vd w)) (v (vs1 w)) b (k (vk w)) (flag (bit1 w))
  | 0x56, 0 => withSrc w (fun b => b.isReg && vd w < 8) fun b => .vfceq (k (vd w)) (v (vs1 w)) b (k (vk w)) (flag (bit1 w))
  | 0x56, 1 => withSrc w (fun b => b.isReg && vd w < 8) fun b => .vfcne (k (vd w)) (v (vs1 w)) b (k (vk w)) (flag (bit1 w))
  | 0x57, 0 => withSrc w (fun b => b.isReg && vd w < 8) fun b => .vfclt (k (vd w)) (v (vs1 w)) b (k (vk w)) (flag (bit1 w))
  | 0x57, 1 => withSrc w (fun b => b.isReg && vd w < 8) fun b => .vfcle (k (vd w)) (v (vs1 w)) b (k (vk w)) (flag (bit1 w))
  | 0x58, 0 => withSrc w (fun _ => vk w != 0) fun b => .vsel (v (vd w)) (v (vs1 w)) b (k (vk w)) (flag (bit1 w))
  | 0x58, 1 => decodeVmove w
  | 0x59, 0 => only (vform w == 0 && vo w == 0) (.vcvt (v (vd w)) (v (vs1 w)) (k (vk w)) (flag (bit1 w)))
  | 0x59, 1 => withSrc w (VSrc.isReg) fun b => .vfsetsign (v (vd w)) (v (vs1 w)) b (k (vk w)) (flag (bit1 w))
  | 0x5A, 0 => withSrc w (VSrc.isReg) fun b => .vfnegsign (v (vd w)) (v (vs1 w)) b (k (vk w)) (flag (bit1 w))
  | 0x5A, 1 => withSrc w (VSrc.isReg) fun b => .vfxorsign (v (vd w)) (v (vs1 w)) b (k (vk w)) (flag (bit1 w))
  | 0x5B, 0 => only (vform w == 0 && vo w < 16) (.vquant (v (vd w)) (v (vs1 w)) (e (vo w)) (k (vk w)) (flag (bit1 w)))
  | 0x5B, 1 => only (vform w == 0) (.vpack (v (vd w)) (v (vs1 w)) (BitVec.ofNat 2 (vo w / 16)) (e (vo w % 16)) (k (vk w)) (flag (bit1 w)))
  | 0x5C, 0 => only (vform w == 0 && vo w < 16) (.vdequant (v (vd w)) (v (vs1 w)) (e (vo w)) (k (vk w)) (flag (bit1 w)))
  | 0x5C, 1 => only (vform w == 0) (.vbdot (v (vd w)) (v (vs1 w)) (v (vo w)) (k (vk w)) (flag (bit1 w)))
  | 0x5D, 0 => withSrc w (fun b => b.isReg && vd w < 8) fun b => .vfcun (k (vd w)) (v (vs1 w)) b (k (vk w)) (flag (bit1 w))
  | _, _ => .error .reserved

/-- Majors 0x60 to 0x67 (R150). -/
noncomputable def decodeVPerm (w : Nat) : Except Reject Instr :=
  match major w, bit0 w with
  | 0x60, 0 => withSrc w (VSrc.notVv) fun b => .vlift (v (vd w)) (v (vs1 w)) b (k (vk w)) (flag (bit1 w))
  | 0x60, 1 => withSrc w (VSrc.notVv) fun b => .vdrop (v (vd w)) (v (vs1 w)) b (k (vk w)) (flag (bit1 w))
  | 0x61, 0 => withSrc w (fun _ => true) fun b => .vpick (v (vd w)) (v (vs1 w)) b (k (vk w)) (flag (bit1 w))
  | 0x61, 1 => only (vform w == 0 && vo w == 0 && vs1 w == 0) (.vindex (v (vd w)) (k (vk w)) (flag (bit1 w)))
  | 0x62, 0 => only (vform w == 0 && vo w == 0) (.vsqueeze (v (vd w)) (v (vs1 w)) (k (vk w)) (flag (bit1 w)))
  | 0x62, 1 => only (vform w == 0 && vo w == 0) (.vspread (v (vd w)) (v (vs1 w)) (k (vk w)) (flag (bit1 w)))
  | 0x63, 0 => only (vform w == 0 && vo w == 0) (.vconf (v (vd w)) (v (vs1 w)) (k (vk w)) (flag (bit1 w)))
  | 0x63, 1 => only (vform w == 0 && vo w == 0 && vd w < 8) (.vconfm (k (vd w)) (v (vs1 w)) (k (vk w)) (flag (bit1 w)))
  | 0x64, 0 => only (vform w == 0 && vd w < 8 && vs1 w < 8 && vo w < 8 && vk w == 0 && bit1 w == 0) (.kand (k (vd w)) (k (vs1 w)) (k (vo w)))
  | 0x64, 1 => only (vform w == 0 && vd w < 8 && vs1 w < 8 && vo w < 8 && vk w == 0 && bit1 w == 0) (.kor (k (vd w)) (k (vs1 w)) (k (vo w)))
  | 0x65, 0 => only (vform w == 0 && vd w < 8 && vs1 w < 8 && vo w < 8 && vk w == 0 && bit1 w == 0) (.kxor (k (vd w)) (k (vs1 w)) (k (vo w)))
  | 0x65, 1 => only (vform w == 0 && vd w < 8 && vs1 w < 8 && vo w < 8 && vk w == 0 && bit1 w == 0) (.kandn (k (vd w)) (k (vs1 w)) (k (vo w)))
  | 0x66, 0 => only (vform w == 0 && vd w < 32 && vs1 w < 8 && vo w == 0 && vk w == 0 && bit1 w == 0) (.kpop (g (vd w)) (k (vs1 w)))
  | 0x66, 1 => only (vform w == 0 && vd w < 32 && vs1 w < 8 && vo w == 0 && vk w == 0 && bit1 w == 0) (.kfirst (g (vd w)) (k (vs1 w)))
  | 0x67, _ => decodeReduce w
  | _, _ => .error .reserved

/-- Major 0x6A: the matrix instructions (R149); ea and eb are zero when x = 0. -/
noncomputable def decodeMatrix (w : Nat) : Except Reject Instr :=
  match bit0 w, bit1 w with
  | 0, 0 => only (tea w == 0 && teb w == 0) (.mmul (v (vd w)) (v (vs1 w)) (t (tt w)))
  | 0, _ => only (tea w == 0 && teb w == 0) (.mmac (v (vd w)) (v (vs1 w)) (t (tt w)))
  | _, 0 => .ok (.mmulb (v (vd w)) (v (vs1 w)) (t (tt w)) (e (tea w)) (e (teb w)))
  | _, _ => .ok (.mmacb (v (vd w)) (v (vs1 w)) (t (tt w)) (e (tea w)) (e (teb w)))

/-- Major 0x6B: tile moves (R149). -/
noncomputable def decodeTmove (w : Nat) : Except Reject Instr :=
  match w % 1024 with
  | 0 => only (vd w == 0) (.tmv (t (tt w)) (v (vs1 w)))
  | 1 => only (vs1 w == 0) (.vmvt (v (vd w)) (t (tt w)))
  | _ => .error .reserved

/-- Majors 0x68 to 0x6B (R149). -/
noncomputable def decodeTile (w : Nat) : Except Reject Instr :=
  match major w with
  | 0x68 => decodeTld w
  | 0x69 => decodeTst w
  | 0x6A => decodeMatrix w
  | 0x6B => decodeTmove w
  | _ => .error .reserved

/-- Major 0x70: the copy engine (R151). -/
noncomputable def decodeCopy (w : Nat) : Except Reject Instr :=
  match yfn w with
  | 0 => withOrder w (gd w == 0 && gb w == 0) (.ocopy (g (ga w)))
  | 1 => withOrder w (gd w == 0 && gb w == 0) (.ogather (g (ga w)))
  | 2 => withOrder w (gd w == 0 && gb w == 0) (.vsave (g (ga w)))
  | 3 => withOrder w (gd w == 0 && gb w == 0) (.vrest (g (ga w)))
  | 4 => withOrder w (gd w == 0 && gb w == 0) (.vxcore (g (ga w)))
  | 5 => withOrder w (gb w == 0) (.sopen (g (gd w)) (g (ga w)))
  | 6 => only (gb w == 0 && ysc w == 0 && yacq w == 0 && yrel w == 0) (.sclose (g (gd w)) (g (ga w)))
  | 7 => only (ysc w == 0 && yacq w == 0 && yrel w == 0) (.sadv (g (gd w)) (g (ga w)) (g (gb w)))
  | _ => .error .reserved

/-- Major 0x71: the layout engine (R151). -/
noncomputable def decodeLayout (w : Nat) : Except Reject Instr :=
  match yfn w with
  | 0 => withOrder w (gd w == 0 && gb w == 0) (.lturn (g (ga w)))
  | 1 => withOrder w (gd w == 0 && gb w == 0) (.ltile (g (ga w)))
  | 2 => withOrder w (gd w == 0 && gb w == 0) (.ltrans (g (ga w)))
  | 3 => withOrder w (gd w == 0 && gb w == 0) (.lconv (g (ga w)))
  | 4 => withOrder w (gd w == 0 && gb w == 0) (.lconvo (g (ga w)))
  | 5 => withOrder w (gd w == 0 && gb w == 0) (.lscale (g (ga w)))
  | 6 => withOrder w (gd w == 0 && gb w == 0) (.lrepl (g (ga w)))
  | _ => .error .reserved

/-- Major 0x72: barriers, with acq and rel as R257 fixes them (R151). -/
noncomputable def decodeBarrier (w : Nat) : Except Reject Instr :=
  match yfn w with
  | 0 => withScope w (gd w == 0 && yacq w == 0 && (yrel w == 1 || ysc w == 0)) fun s => .binit (g (ga w)) (g (gb w)) s (flag (yrel w))
  | 1 => withScope w (gd w == 0 && gb w == 0 && yacq w == 0 && yrel w == 1) (.barrive (g (ga w)))
  | 2 => withScope w (gb w == 0 && yacq w == 1 && yrel w == 0) (.bwait (g (gd w)) (g (ga w)))
  | 3 => withScope w (gb w == 0 && yrel w == 0 && (yacq w == 1 || ysc w == 0)) fun s => .btest (g (gd w)) (g (ga w)) s (flag (yacq w))
  | 4 => withScope w (gd w == 0 && yacq w == 0 && yrel w == 1) (.bfail (g (ga w)) (g (gb w)))
  | _ => .error .reserved

/-- Major 0x73: arrays (R151). -/
noncomputable def decodeArray (w : Nat) : Except Reject Instr :=
  match yfn w with
  | 0 => withScope w (gd w == 0 && gb w == 0) fun s => .alaunch (g (ga w)) s (flag (yacq w)) (flag (yrel w))
  | 1 => only (ysc w == 0 && yacq w == 0 && yrel w == 0) (.alock (g (gd w)) (g (ga w)) (g (gb w)))
  | 2 => only (gd w == 0 && gb w == 0 && ysc w == 0 && yacq w == 0 && yrel w == 0) (.aunlock (g (ga w)))
  | 3 => only (gd w == 0 && gb w == 0 && ga w == 0 && ysc w == 0 && yacq w == 0 && yrel w == 0) .afence
  | _ => .error .reserved

/-- Major 0x74: collectives (R151). -/
noncomputable def decodeColl (w : Nat) : Except Reject Instr :=
  match yfn w with
  | 0 => withScope w (gd w == 0 && gb w == 0) fun s => .coll (g (ga w)) s (flag (yacq w)) (flag (yrel w))
  | 1 => withScope w (gb w == 0 && yrel w == 0 && (yacq w == 1 || ysc w == 0)) fun s => .cpoll (g (gd w)) (g (ga w)) s (flag (yacq w))
  | _ => .error .reserved

/-- Major 0x75: farms and objects (R151). -/
noncomputable def decodeFarm (w : Nat) : Except Reject Instr :=
  match yfn w with
  | 0 => withScope w (gb w == 0 && yacq w == 0 && (yrel w == 1 || ysc w == 0)) fun s => .farm (g (gd w)) (g (ga w)) s (flag (yrel w))
  | 1 => only (ysc w == 0 && yacq w == 0 && yrel w == 0) (.oinv (g (gd w)) (g (ga w)) (g (gb w)))
  | _ => .error .reserved

/-- Major 0x76: caches and memory-side operations (R151). -/
noncomputable def decodeCache (w : Nat) : Except Reject Instr :=
  match yfn w with
  | 0 => only (gd w == 0 && ysc w == 0 && yacq w == 0 && yrel w == 0) (.cwb (g (ga w)) (g (gb w)))
  | 1 => only (gd w == 0 && ysc w == 0 && yacq w == 0 && yrel w == 0) (.cinv (g (ga w)) (g (gb w)))
  | 2 => withScope w (gd w == 0 && yacq w == 0 && yrel w == 0) (.icinv (g (ga w)) (g (gb w)))
  | 3 => only (gd w == 0 && gb w == 0 && ga w == 0 && ysc w == 0 && yacq w == 0 && yrel w == 0) .fbar
  | 4 => withScope w (gd w == 0 && gb w == 0) fun s => .mside (g (ga w)) s (flag (yacq w)) (flag (yrel w))
  | 5 => only (gd w == 0 && ysc w == 0 && yacq w == 0 && yrel w == 0) (.sprefix (g (ga w)) (g (gb w)))
  | _ => .error .reserved

/-- Major 0x77: strand control (R151). -/
noncomputable def decodeCtl (w : Nat) : Except Reject Instr :=
  match yfn w with
  | 0 => only (gd w == 0 && gb w == 0 && ga w == 0 && ysc w == 0 && yacq w == 0 && yrel w == 0) .tret
  | 1 => only (gb w == 0 && ysc w == 0 && yacq w == 0 && yrel w == 0) (.spark (g (gd w)) (g (ga w)))
  | 2 => only (ysc w == 0 && yacq w == 0 && yrel w == 0) (.sstart (g (gd w)) (g (ga w)) (g (gb w)))
  | 3 => only (gb w == 0 && ysc w == 0 && yacq w == 0 && yrel w == 0) (.preq (g (gd w)) (g (ga w)))
  | _ => .error .reserved

/-- Majors 0x70 to 0x7F (R151). -/
noncomputable def decodeEngine (w : Nat) : Except Reject Instr :=
  match major w with
  | 0x70 => decodeCopy w
  | 0x71 => decodeLayout w
  | 0x72 => decodeBarrier w
  | 0x73 => decodeArray w
  | 0x74 => decodeColl w
  | 0x75 => decodeFarm w
  | 0x76 => decodeCache w
  | 0x77 => decodeCtl w
  | 0x7F => .error .illegal
  | _ => .error .reserved

/-- The instruction of a strand word, or its trap (R152, R153 checks 1 and 2), by ranges of the major opcode. -/
noncomputable def decodeNat (w : Nat) : Except Reject Instr :=
  if major w < 0x32 then decodeScalar w
  else if major w < 0x3C then decodeVmem w
  else if major w < 0x40 then .error .reserved
  else if major w < 0x50 then decodeVArith w
  else if major w < 0x60 then decodeVFloat w
  else if major w < 0x68 then decodeVPerm w
  else if major w < 0x70 then decodeTile w
  else decodeEngine w

/-- Decoding of a strand's 32-bit instruction word. -/
noncomputable def decode (w : Code) : Except Reject Instr := decodeNat w.toNat

/-! ## Row micro-ops (R127-R132) -/

/-- X, bits [26:17]. -/
def mX (w : Nat) : Nat := w / 131072 % 1024
/-- Y, bits [16:7]. -/
def mY (w : Nat) : Nat := w / 128 % 1024
/-- B, bits [6:4]. -/
def mB (w : Nat) : Nat := w / 16 % 8
/-- AUX, bits [3:0]. -/
def mAux (w : Nat) : Nat := w % 16

/-- A micro-op's checks of R132 that its own word decides, on top of the fields `c` it does not use. -/
def microOnly (c : Bool) (i : Instr) : Option Instr := if c && i.wellFormed then some i else none

/-- The micro-op of a word, or none where R132 makes the word invalid whatever the program's length. -/
noncomputable def decodeMicroNat (w : Nat) : Option Instr :=
  match w / 134217728 with
  | 0x01 => microOnly (mAux w == 0) (.rcopy (BitVec.ofNat 10 (mX w)) (BitVec.ofNat 10 (mY w)) (BitVec.ofNat 3 (mB w)))
  | 0x02 => microOnly (mAux w < 2) (.rnot (BitVec.ofNat 10 (mX w)) (BitVec.ofNat 10 (mY w)) (BitVec.ofNat 3 (mB w)) (flag (mAux w)))
  | 0x03 => microOnly (mY w == 0) (.rmaj (BitVec.ofNat 10 (mX w)) (BitVec.ofNat 3 (mB w)) (BitVec.ofNat 4 (mAux w)))
  | 0x04 => microOnly (mY w == 0 && mAux w < 2) (.rset (BitVec.ofNat 10 (mX w)) (BitVec.ofNat 3 (mB w)) (flag (mAux w)))
  | 0x05 => microOnly (true) (.rbcst (BitVec.ofNat 10 (mX w)) (BitVec.ofNat 10 (mY w)) (BitVec.ofNat 3 (mB w)) (BitVec.ofNat 4 (mAux w)))
  | 0x06 => microOnly (mAux w < 2) (.rmwr (BitVec.ofNat 10 (mX w)) (BitVec.ofNat 10 (mY w)) (BitVec.ofNat 3 (mB w)) (flag (mAux w)))
  | 0x07 => if mAux w < 4 then microOnly true (.rshl (BitVec.ofNat 10 (mX w)) (BitVec.ofNat 10 (mY w)) (BitVec.ofNat 3 (mB w)) (BitVec.ofNat 2 (mAux w)))
    else microOnly (mAux w < 8) (.rshr (BitVec.ofNat 10 (mX w)) (BitVec.ofNat 10 (mY w)) (BitVec.ofNat 3 (mB w)) (BitVec.ofNat 2 (mAux w % 4)))
  | 0x08 => if mAux w < 8 then microOnly true (.rpcaAdd false (BitVec.ofNat 10 (mX w)) (BitVec.ofNat 10 (mY w)) (BitVec.ofNat 3 (mB w)) (BitVec.ofNat 3 (mAux w)))
    else microOnly true (.rpcaSub false (BitVec.ofNat 10 (mX w)) (BitVec.ofNat 10 (mY w)) (BitVec.ofNat 3 (mB w)) (BitVec.ofNat 3 (mAux w % 8)))
  | 0x09 => if mAux w < 8 then microOnly true (.rpcaAdd true (BitVec.ofNat 10 (mX w)) (BitVec.ofNat 10 (mY w)) (BitVec.ofNat 3 (mB w)) (BitVec.ofNat 3 (mAux w)))
    else microOnly true (.rpcaSub true (BitVec.ofNat 10 (mX w)) (BitVec.ofNat 10 (mY w)) (BitVec.ofNat 3 (mB w)) (BitVec.ofNat 3 (mAux w % 8)))
  | 0x0A => microOnly (w % 134217728 == 0) .raclr
  | 0x0B => microOnly (mY w == 0 && mAux w < 2) (.raccw (BitVec.ofNat 10 (mX w)) (BitVec.ofNat 3 (mB w)) (flag (mAux w)))
  | 0x0C => microOnly (mX w == 0 && mAux w < 2) (.raccb (BitVec.ofNat 10 (mY w)) (BitVec.ofNat 3 (mB w)) (flag (mAux w)))
  | 0x0D => if mAux w < 4 then microOnly (mX w == 0 && mB w == 0) (.rldl (BitVec.ofNat 10 (mY w)) (BitVec.ofNat 2 (mAux w)))
    else microOnly (mX w == 0 && mB w == 0 && mY w < 16 && mAux w < 8) (.rldlQ (BitVec.ofNat 4 (mY w)) (BitVec.ofNat 2 (mAux w % 4)))
  | 0x0E => microOnly (mY w == 0 && mB w == 0 && mAux w < 4) (.rloop (BitVec.ofNat 10 (mX w)) (BitVec.ofNat 2 (mAux w)))
  | 0x0F => if mY w < 32 then microOnly (mB w == 0) (.rbtSet (BitVec.ofNat 10 (mX w)) (BitVec.ofNat 5 (mY w)) (BitVec.ofNat 4 (mAux w)))
    else microOnly (mB w == 0 && mY w < 64) (.rbtClr (BitVec.ofNat 10 (mX w)) (BitVec.ofNat 5 (mY w % 32)) (BitVec.ofNat 4 (mAux w)))
  | 0x10 => if mAux w < 4 then microOnly (mY w == 0) (.rbset (BitVec.ofNat 10 (mX w)) (BitVec.ofNat 3 (mB w)) (BitVec.ofNat 2 (mAux w)))
    else microOnly (mY w == 0 && mAux w == 4) (.rbsetK (BitVec.ofNat 10 (mX w)) (BitVec.ofNat 3 (mB w)))
  | 0x11 => microOnly (mY w == 0 && mAux w == 0) (.rbstep (BitVec.ofNat 10 (mX w)) (BitVec.ofNat 3 (mB w)))
  | 0x12 => microOnly (mY w == 0) (.rseal (BitVec.ofNat 10 (mX w)) (BitVec.ofNat 3 (mB w)) (BitVec.ofNat 4 (mAux w)))
  | 0x13 => microOnly (mY w == 0) (.rcheck (BitVec.ofNat 10 (mX w)) (BitVec.ofNat 3 (mB w)) (BitVec.ofNat 4 (mAux w)))
  | 0x14 => microOnly (w % 134217728 == 0) .rwait
  | 0x15 => microOnly (w % 134217728 == 0) .rend
  | 0x16 => microOnly (mX w == 0 && mY w < 256 && mB w == 0 && mAux w == 0) (.rraise (BitVec.ofNat 8 (mY w)))
  | _ => none

/-- Decoding of a 32-bit row micro-op. -/
noncomputable def decodeMicro (w : Code) : Option Instr := decodeMicroNat w.toNat

/-- The decoder of the opcode table's numbering (one 32-bit word). A number that is a strand word decodes as one;
another is read as a row micro-op, since the two sets of words are fetched from different places and their numbers
overlap (log 9). -/
noncomputable def decodeTableWord (nbits w : Nat) : Option Instr :=
  if nbits ≤ 32 ∧ w < 4294967296 then
    match decodeNat w with
    | .ok i => some i
    | .error _ => decodeMicroNat w
  else none

/-! ## The encoder -/

/-- Format A (R146). -/
def encA (m : Nat) (d a b : GReg) (fn : Nat) : Nat := m * 33554432 + d.val * 1048576 + a.val * 32768 + b.val * 1024 + fn
/-- Formats I and B (R146). -/
def encI (m : Nat) (d a : GReg) (imm : Nat) : Nat := m * 33554432 + d.val * 1048576 + a.val * 32768 + imm
/-- Format L (R146). -/
def encL (m : Nat) (d : GReg) (imm : Nat) : Nat := m * 33554432 + d.val * 1048576 + imm
/-- The code of a scope (R99). -/
def Scope.code : Scope → Nat
  | .strand => 0
  | .core => 1
  | .die => 2
  | .module => 3
  | .system => 4
/-- Format Y (R146). -/
def encY (m : Nat) (d a : GReg) (b : Nat) (s : Scope) (acq rel : Bool) (fn : Nat) : Nat :=
  m * 33554432 + d.val * 1048576 + a.val * 32768 + b * 1024 + s.code * 128 + acq.toNat * 64 + rel.toNat * 32 + fn
/-- Format V (R146); `o` holds the third operand and the form, bits [12:7] and [3:2], in place. -/
def encV (m vd vs1 o : Nat) (k : KReg) (dt x : Bool) : Nat :=
  m * 33554432 + vd * 524288 + vs1 * 8192 + o + k.val * 16 + dt.toNat * 2 + x.toNat
/-- The third operand and the form of a V source, in place (R147). -/
def VSrc.code : VSrc → Nat
  | .vv r => r.val * 128
  | .vs r => r.val * 128 + 4
  | .vi imm => imm.toNat * 128 + 8
/-- vs1 of a vmove: the source of form v, else zero (R150). -/
def VSrc.moveS1 : VSrc → Nat
  | .vv r => r.val
  | .vs _ => 0
  | .vi _ => 0
/-- The third operand and the form of a vmove (R150). -/
def VSrc.moveCode : VSrc → Nat
  | .vv _ => 0
  | .vs r => r.val * 128 + 4
  | .vi imm => imm.toNat * 128 + 8
/-- Format M (R146). -/
def encM (m vd : Nat) (a : GReg) (o mode : Nat) (k : KReg) (dt w : Bool) : Nat :=
  m * 33554432 + vd * 524288 + a.val * 16384 + o * 256 + mode * 32 + k.val * 4 + dt.toNat * 2 + w.toNat
/-- Format T (R146). -/
def encT (m vd vs1 : Nat) (t : TReg) (ea eb : Nat) (acc x : Bool) : Nat :=
  m * 33554432 + vd * 524288 + vs1 * 8192 + t.val * 1024 + ea * 64 + eb * 4 + acc.toNat * 2 + x.toNat
/-- A row micro-op (R127). -/
def encR (op x y b aux : Nat) : Nat := op * 134217728 + x * 131072 + y * 128 + b * 16 + aux

/-- The word of an instruction as a number; none for a row of the table that has no word. -/
def encodeNat (i : Instr) : Option Nat :=
  match i with
  | .moduleReset => none
  | .firmwareStart => none
  | .trapEntry _ => none
  | .serviceForward _ => none
  | .serviceResume _ => none
  | .serviceReflect _ => none
  | .servicePark _ => none
  | .hardPreemption _ => none
  | .psetWrite _ _ => none
  | .lpartWrite _ _ => none
  | .dmbaseWrite _ _ => none
  | .duppoolWrite _ _ => none
  | .controlRegisterWrite _ _ _ => none
  | .farmStart _ _ _ => none
  | .farmCompletionArrival _ _ => none
  | .farmArbitration _ => none
  | .walkWaitEnd _ => none
  | .pinWaitEnd _ => none
  | .postedSlotFree _ => none
  | .engineQueueSlotFree _ => none
  | .farmContextWaitEnd _ => none
  | .bwaitRelease _ => none
  | .dozeWake _ => none
  | .dozeTimeout _ => none
  | .streamWaitEnd _ => none
  | .launchAcceptance _ => none
  | .runStart _ _ _ => none
  | .stepOverrun _ _ => none
  | .runOverrun _ _ => none
  | .launchPerformed _ _ => none
  | .refreshSlot _ _ => none
  | .lockTimeout _ _ _ => none
  | .horizontalAccess _ => none
  | .engineFragment _ _ => none
  | .engineCommandDone _ _ => none
  | .streamInboundFill _ _ _ => none
  | .streamOutboundDrain _ _ _ => none
  | .collectiveChunk _ _ => none
  | .wireBlockReceive _ _ _ _ _ _ => none
  | .poisonNotice _ _ _ _ => none
  | .chunkDeadline _ _ => none
  | .collectiveComplete _ _ => none
  | .install _ => none
  | .reloc _ => none
  | .evict _ => none
  | .markp _ => none
  | .count _ => none
  | .flush _ => none
  | .relocCopyDone _ _ => none
  | .relocSwap _ _ => none
  | .relocDestWriteFail _ _ => none
  | .queueTailSnoop _ _ => none
  | .packetFarm _ _ => none
  | .packetArrive _ _ => none
  | .waitbarRelease _ _ => none
  | .queueEnable _ _ => none
  | .queueDisable _ _ => none
  | .queueClearError _ _ => none
  | .hostSnoop _ => none
  | .hostHdmAccess _ _ => none
  | .hostBar0Access _ _ _ => none
  | .hostLinkDown => none
  | .hostLinkUp => none
  | .clusterPowerGate _ => none
  | .doff _ => none
  | .don _ _ => none
  | .linksTrained _ _ => none
  | .trainTimeout _ => none
  | .mapComplete _ => none
  | .linkLost _ => none
  | .ualinkPortLost _ _ => none
  | .connectionAbandoned _ _ => none
  | .drainComplete _ => none
  | .drainTimeout _ => none
  | .evacComplete _ => none
  | .unmapComplete _ => none
  | .launchMessage _ _ => none
  | .lpddrChannelFailure _ => none
  | .lpddrPatrolScrub _ => none
  | .rosterInstall _ _ => none
  | .rosterRetire _ _ => none
  | .mctpReadRegister _ _ => none
  | .mctpWriteCapw _ => none
  | .attestationQuote _ => none
  | .add d a b => some (encA 0x01 d a b 0x000)
  | .sub d a b => some (encA 0x01 d a b 0x001)
  | .and d a b => some (encA 0x01 d a b 0x002)
  | .or d a b => some (encA 0x01 d a b 0x003)
  | .xor d a b => some (encA 0x01 d a b 0x004)
  | .andn d a b => some (encA 0x01 d a b 0x005)
  | .sll d a b => some (encA 0x01 d a b 0x006)
  | .srl d a b => some (encA 0x01 d a b 0x007)
  | .sra d a b => some (encA 0x01 d a b 0x008)
  | .rol d a b => some (encA 0x01 d a b 0x009)
  | .slt d a b => some (encA 0x01 d a b 0x00A)
  | .sltu d a b => some (encA 0x01 d a b 0x00B)
  | .min d a b => some (encA 0x01 d a b 0x00C)
  | .max d a b => some (encA 0x01 d a b 0x00D)
  | .minu d a b => some (encA 0x01 d a b 0x00E)
  | .maxu d a b => some (encA 0x01 d a b 0x00F)
  | .seq d a b => some (encA 0x01 d a b 0x010)
  | .sne d a b => some (encA 0x01 d a b 0x011)
  | .mul d a b => some (encA 0x02 d a b 0x000)
  | .mulhs d a b => some (encA 0x02 d a b 0x001)
  | .mulhu d a b => some (encA 0x02 d a b 0x002)
  | .mulhm d a b => some (encA 0x02 d a b 0x003)
  | .quot d a b => some (encA 0x02 d a b 0x010)
  | .quotu d a b => some (encA 0x02 d a b 0x011)
  | .mod d a b => some (encA 0x02 d a b 0x012)
  | .modu d a b => some (encA 0x02 d a b 0x013)
  | .clz d a => some (encA 0x03 d a 0 0x000)
  | .ctz d a => some (encA 0x03 d a 0 0x001)
  | .popc d a => some (encA 0x03 d a 0 0x002)
  | .rev8 d a => some (encA 0x03 d a 0 0x003)
  | .fshr d a b sh => some (encA 0x03 d a b (64 + sh.toNat))
  | .addi d a imm => some (encI 0x04 d a imm.toNat)
  | .andi d a imm => some (encI 0x05 d a imm.toNat)
  | .ori d a imm => some (encI 0x06 d a imm.toNat)
  | .xori d a imm => some (encI 0x07 d a imm.toNat)
  | .slti d a imm => some (encI 0x08 d a imm.toNat)
  | .sltiu d a imm => some (encI 0x09 d a imm.toNat)
  | .slli d a sh => some (encI 0x0A d a (0 + sh.toNat))
  | .srli d a sh => some (encI 0x0A d a (64 + sh.toNat))
  | .srai d a sh => some (encI 0x0A d a (128 + sh.toNat))
  | .roli d a sh => some (encI 0x0A d a (192 + sh.toNat))
  | .bfx d a width pos => some (encI 0x0B d a (4096 + 64 * width.toNat + pos.toNat))
  | .bfxu d a width pos => some (encI 0x0B d a (64 * width.toNat + pos.toNat))
  | .lui d imm => some (encL 0x0D d imm.toNat)
  | .lmid d imm => some (encL 0x0E d imm.toNat)
  | .lhi d imm => some (encL 0x0F d imm.toNat)
  | .ldb d a imm => some (encI 0x10 d a imm.toNat)
  | .ldh d a imm => some (encI 0x11 d a imm.toNat)
  | .ldw d a imm => some (encI 0x12 d a imm.toNat)
  | .ldd d a imm => some (encI 0x13 d a imm.toNat)
  | .ldbu d a imm => some (encI 0x14 d a imm.toNat)
  | .ldhu d a imm => some (encI 0x15 d a imm.toNat)
  | .ldwu d a imm => some (encI 0x16 d a imm.toNat)
  | .stb a b imm => some (encI 0x17 a b imm.toNat)
  | .sth a b imm => some (encI 0x18 a b imm.toNat)
  | .stw a b imm => some (encI 0x19 a b imm.toNat)
  | .std a b imm => some (encI 0x1A a b imm.toNat)
  | .beq a b imm => some (encI 0x1B a b imm.toNat)
  | .bne a b imm => some (encI 0x1C a b imm.toNat)
  | .blt a b imm => some (encI 0x1D a b imm.toNat)
  | .bge a b imm => some (encI 0x1E a b imm.toNat)
  | .jal imm => some (0x1F * 33554432 + imm.toNat)
  | .jalr d a imm => some (encI 0x20 d a imm.toNat)
  | .crr d r => some (encI 0x21 d 0 r.toNat)
  | .crw d a r => some (encI 0x21 d a (4096 + r.toNat))
  | .crs d a r => some (encI 0x21 d a (8192 + r.toNat))
  | .crc d a r => some (encI 0x21 d a (12288 + r.toNat))
  | .svc a => some (encI 0x22 0 a 0)
  | .sret a => some (encI 0x22 0 a 1)
  | .doze d a => some (encI 0x22 d a 2)
  | .wake a => some (encI 0x22 0 a 3)
  | .brk => some (encI 0x22 0 0 4)
  | .atswapW d a b s acq rel => some (encY 0x28 d a b.val s acq rel 0)
  | .ataddW d a b s acq rel => some (encY 0x28 d a b.val s acq rel 1)
  | .atandW d a b s acq rel => some (encY 0x28 d a b.val s acq rel 2)
  | .atorW d a b s acq rel => some (encY 0x28 d a b.val s acq rel 3)
  | .atxorW d a b s acq rel => some (encY 0x28 d a b.val s acq rel 4)
  | .atminW d a b s acq rel => some (encY 0x28 d a b.val s acq rel 5)
  | .atmaxW d a b s acq rel => some (encY 0x28 d a b.val s acq rel 6)
  | .atminuW d a b s acq rel => some (encY 0x28 d a b.val s acq rel 7)
  | .atmaxuW d a b s acq rel => some (encY 0x28 d a b.val s acq rel 8)
  | .casW d a b s acq rel => some (encY 0x28 d a b.val s acq rel 9)
  | .atswapD d a b s acq rel => some (encY 0x29 d a b.val s acq rel 0)
  | .ataddD d a b s acq rel => some (encY 0x29 d a b.val s acq rel 1)
  | .atandD d a b s acq rel => some (encY 0x29 d a b.val s acq rel 2)
  | .atorD d a b s acq rel => some (encY 0x29 d a b.val s acq rel 3)
  | .atxorD d a b s acq rel => some (encY 0x29 d a b.val s acq rel 4)
  | .atminD d a b s acq rel => some (encY 0x29 d a b.val s acq rel 5)
  | .atmaxD d a b s acq rel => some (encY 0x29 d a b.val s acq rel 6)
  | .atminuD d a b s acq rel => some (encY 0x29 d a b.val s acq rel 7)
  | .atmaxuD d a b s acq rel => some (encY 0x29 d a b.val s acq rel 8)
  | .casD d a b s acq rel => some (encY 0x29 d a b.val s acq rel 9)
  | .ldaB d a s => some (encY 0x2A d a 0 s true false 0)
  | .ldaH d a s => some (encY 0x2A d a 0 s true false 1)
  | .ldaW d a s => some (encY 0x2A d a 0 s true false 2)
  | .ldaD d a s => some (encY 0x2A d a 0 s true false 3)
  | .stlB a b s => some (encY 0x2A 0 a b.val s false true 4)
  | .stlH a b s => some (encY 0x2A 0 a b.val s false true 5)
  | .stlW a b s => some (encY 0x2A 0 a b.val s false true 6)
  | .stlD a b s => some (encY 0x2A 0 a b.val s false true 7)
  | .fence succ s pred => some (encY 0x2B 0 0 succ.toNat s false false pred.toNat)
  | .vsetl d a => some (encA 0x30 d a 0 0)
  | .vsetlf d a b => some (encA 0x30 d a b 1)
  | .vsetlc d imm => some (encI 0x31 d 0 imm.toNat)
  | .vld v a k dt w => some (encM 0x32 v.val a 0 0 k dt w)
  | .vlds v a b k dt => some (encM 0x32 v.val a b.val 1 k dt false)
  | .vldx v a x k dt => some (encM 0x32 v.val a x.val 2 k dt false)
  | .vldxo v a x k dt => some (encM 0x32 v.val a x.val 3 k dt false)
  | .vldc v a b k dt => some (encM 0x32 v.val a b.val 4 k dt false)
  | .vldo v a k dt w => some (encM 0x32 v.val a 0 5 k dt w)
  | .vst v a k dt w => some (encM 0x33 v.val a 0 0 k dt w)
  | .vsts v a b k dt => some (encM 0x33 v.val a b.val 1 k dt false)
  | .vstx v a x k dt => some (encM 0x33 v.val a x.val 2 k dt false)
  | .vstxo v a x k dt => some (encM 0x33 v.val a x.val 3 k dt false)
  | .vstc v a b k dt => some (encM 0x33 v.val a b.val 4 k dt false)
  | .vsto v a k dt w => some (encM 0x33 v.val a 0 5 k dt w)
  | .vlde e a => some (encM 0x34 e.val a 0 0 0 false false)
  | .vldes e a b => some (encM 0x34 e.val a b.val 1 0 false false)
  | .vste e a => some (encM 0x35 e.val a 0 0 0 false false)
  | .vstes e a b => some (encM 0x35 e.val a b.val 1 0 false false)
  | .vatadd v a x k dt => some (encM 0x36 v.val a x.val 2 k dt false)
  | .vatmin v a x k dt => some (encM 0x37 v.val a x.val 2 k dt false)
  | .vatmax v a x k dt => some (encM 0x38 v.val a x.val 2 k dt false)
  | .vatswap v a x k dt => some (encM 0x39 v.val a x.val 2 k dt false)
  | .vatand v a x k dt => some (encM 0x3A v.val a x.val 2 k dt false)
  | .vator v a x k dt => some (encM 0x3B v.val a x.val 2 k dt false)
  | .vadd v a b k dt => some (encV 0x40 v.val a.val b.code k dt false)
  | .vfadd v a b k dt => some (encV 0x40 v.val a.val b.code k dt true)
  | .vsub v a b k dt => some (encV 0x41 v.val a.val b.code k dt false)
  | .vfsub v a b k dt => some (encV 0x41 v.val a.val b.code k dt true)
  | .vmul v a b k dt => some (encV 0x42 v.val a.val b.code k dt false)
  | .vfmul v a b k dt => some (encV 0x42 v.val a.val b.code k dt true)
  | .vmulhs v a b k dt => some (encV 0x43 v.val a.val b.code k dt false)
  | .vmulhu v a b k dt => some (encV 0x43 v.val a.val b.code k dt true)
  | .vmuladd v a b k dt => some (encV 0x44 v.val a.val b.code k dt false)
  | .vfmuladd v a b k dt => some (encV 0x44 v.val a.val b.code k dt true)
  | .vmulsub v a b k dt => some (encV 0x45 v.val a.val b.code k dt false)
  | .vfmulsub v a b k dt => some (encV 0x45 v.val a.val b.code k dt true)
  | .vmin v a b k dt => some (encV 0x46 v.val a.val b.code k dt false)
  | .vfmin v a b k dt => some (encV 0x46 v.val a.val b.code k dt true)
  | .vmax v a b k dt => some (encV 0x47 v.val a.val b.code k dt false)
  | .vfmax v a b k dt => some (encV 0x47 v.val a.val b.code k dt true)
  | .vminu v a b k dt => some (encV 0x48 v.val a.val b.code k dt false)
  | .vmaxu v a b k dt => some (encV 0x48 v.val a.val b.code k dt true)
  | .vand v a b k dt => some (encV 0x49 v.val a.val b.code k dt false)
  | .vor v a b k dt => some (encV 0x49 v.val a.val b.code k dt true)
  | .vxor v a b k dt => some (encV 0x4A v.val a.val b.code k dt false)
  | .vandn v a b k dt => some (encV 0x4A v.val a.val b.code k dt true)
  | .vshl v a b k dt => some (encV 0x4B v.val a.val b.code k dt false)
  | .vshr v a b k dt => some (encV 0x4B v.val a.val b.code k dt true)
  | .vsar v a b k dt => some (encV 0x4C v.val a.val b.code k dt false)
  | .vrol v a b k dt => some (encV 0x4C v.val a.val b.code k dt true)
  | .vaddsat v a b k dt => some (encV 0x4D v.val a.val b.code k dt false)
  | .vsubsat v a b k dt => some (encV 0x4D v.val a.val b.code k dt true)
  | .vquot v a b k dt => some (encV 0x4E v.val a.val b.code k dt false)
  | .vquotu v a b k dt => some (encV 0x4E v.val a.val b.code k dt true)
  | .vmod v a b k dt => some (encV 0x4F v.val a.val b.code k dt false)
  | .vmodu v a b k dt => some (encV 0x4F v.val a.val b.code k dt true)
  | .vfdiv v a b k dt => some (encV 0x50 v.val a.val b.code k dt false)
  | .vfsqrt v a k dt => some (encV 0x50 v.val a.val 0 k dt true)
  | .vfrec v a k dt => some (encV 0x51 v.val a.val 0 k dt false)
  | .vfrsq v a k dt => some (encV 0x51 v.val a.val 0 k dt true)
  | .vfexp v a k dt => some (encV 0x52 v.val a.val 0 k dt false)
  | .vflog v a k dt => some (encV 0x52 v.val a.val 0 k dt true)
  | .vceq kd a b k dt => some (encV 0x53 kd.val a.val b.code k dt false)
  | .vcne kd a b k dt => some (encV 0x53 kd.val a.val b.code k dt true)
  | .vclt kd a b k dt => some (encV 0x54 kd.val a.val b.code k dt false)
  | .vcle kd a b k dt => some (encV 0x54 kd.val a.val b.code k dt true)
  | .vcltu kd a b k dt => some (encV 0x55 kd.val a.val b.code k dt false)
  | .vcleu kd a b k dt => some (encV 0x55 kd.val a.val b.code k dt true)
  | .vfceq kd a b k dt => some (encV 0x56 kd.val a.val b.code k dt false)
  | .vfcne kd a b k dt => some (encV 0x56 kd.val a.val b.code k dt true)
  | .vfclt kd a b k dt => some (encV 0x57 kd.val a.val b.code k dt false)
  | .vfcle kd a b k dt => some (encV 0x57 kd.val a.val b.code k dt true)
  | .vsel v a b k dt => some (encV 0x58 v.val a.val b.code k dt false)
  | .vmove v b k dt => some (encV 0x58 v.val b.moveS1 b.moveCode k dt true)
  | .vcvt v a k dt => some (encV 0x59 v.val a.val 0 k dt false)
  | .vfsetsign v a b k dt => some (encV 0x59 v.val a.val b.code k dt true)
  | .vfnegsign v a b k dt => some (encV 0x5A v.val a.val b.code k dt false)
  | .vfxorsign v a b k dt => some (encV 0x5A v.val a.val b.code k dt true)
  | .vquant v a e k dt => some (encV 0x5B v.val a.val (128 * e.val) k dt false)
  | .vpack v a ty e k dt => some (encV 0x5B v.val a.val (128 * (16 * ty.toNat + e.val)) k dt true)
  | .vdequant v a e k dt => some (encV 0x5C v.val a.val (128 * e.val) k dt false)
  | .vbdot v a b k dt => some (encV 0x5C v.val a.val (128 * b.val) k dt true)
  | .vfcun kd a b k dt => some (encV 0x5D kd.val a.val b.code k dt false)
  | .vlift v a b k dt => some (encV 0x60 v.val a.val b.code k dt false)
  | .vdrop v a b k dt => some (encV 0x60 v.val a.val b.code k dt true)
  | .vpick v a b k dt => some (encV 0x61 v.val a.val b.code k dt false)
  | .vindex v k dt => some (encV 0x61 v.val 0 0 k dt true)
  | .vsqueeze v a k dt => some (encV 0x62 v.val a.val 0 k dt false)
  | .vspread v a k dt => some (encV 0x62 v.val a.val 0 k dt true)
  | .vconf v a k dt => some (encV 0x63 v.val a.val 0 k dt false)
  | .vconfm kd a k dt => some (encV 0x63 kd.val a.val 0 k dt true)
  | .kand kd ka kb => some (encV 0x64 kd.val ka.val (128 * kb.val) 0 false false)
  | .kor kd ka kb => some (encV 0x64 kd.val ka.val (128 * kb.val) 0 false true)
  | .kxor kd ka kb => some (encV 0x65 kd.val ka.val (128 * kb.val) 0 false false)
  | .kandn kd ka kb => some (encV 0x65 kd.val ka.val (128 * kb.val) 0 false true)
  | .kpop d ks => some (encV 0x66 d.val ks.val 0 0 false false)
  | .kfirst d ks => some (encV 0x66 d.val ks.val 0 0 false true)
  | .vrsum v a k dt => some (encV 0x67 v.val a.val 0 k dt false)
  | .vrmin v a k dt => some (encV 0x67 v.val a.val 128 k dt false)
  | .vrmax v a k dt => some (encV 0x67 v.val a.val 256 k dt false)
  | .vrminu v a k dt => some (encV 0x67 v.val a.val 384 k dt false)
  | .vrmaxu v a k dt => some (encV 0x67 v.val a.val 512 k dt false)
  | .vrand v a k dt => some (encV 0x67 v.val a.val 640 k dt false)
  | .vror v a k dt => some (encV 0x67 v.val a.val 768 k dt false)
  | .vrxor v a k dt => some (encV 0x67 v.val a.val 896 k dt false)
  | .vfrsum v a k dt => some (encV 0x67 v.val a.val 1024 k dt false)
  | .vfrosum v a k dt => some (encV 0x67 v.val a.val 1152 k dt false)
  | .vfrmin v a k dt => some (encV 0x67 v.val a.val 1280 k dt false)
  | .vfrmax v a k dt => some (encV 0x67 v.val a.val 1408 k dt false)
  | .tld t a => some (encM 0x68 t.val a 0 0 0 false false)
  | .tlds t a b => some (encM 0x68 t.val a b.val 1 0 false false)
  | .tldc t a b => some (encM 0x68 t.val a b.val 4 0 false false)
  | .tst t a => some (encM 0x69 t.val a 0 0 0 false false)
  | .tsts t a b => some (encM 0x69 t.val a b.val 1 0 false false)
  | .tstc t a b => some (encM 0x69 t.val a b.val 4 0 false false)
  | .mmul v a t => some (encT 0x6A v.val a.val t 0 0 false false)
  | .mmac v a t => some (encT 0x6A v.val a.val t 0 0 true false)
  | .mmulb v a t ea eb => some (encT 0x6A v.val a.val t ea.val eb.val false true)
  | .mmacb v a t ea eb => some (encT 0x6A v.val a.val t ea.val eb.val true true)
  | .tmv t a => some (encT 0x6B 0 a.val t 0 0 false false)
  | .vmvt v t => some (encT 0x6B v.val 0 t 0 0 false true)
  | .ocopy a s acq rel => some (encY 0x70 0 a 0 s acq rel 0)
  | .ogather a s acq rel => some (encY 0x70 0 a 0 s acq rel 1)
  | .vsave a s acq rel => some (encY 0x70 0 a 0 s acq rel 2)
  | .vrest a s acq rel => some (encY 0x70 0 a 0 s acq rel 3)
  | .vxcore a s acq rel => some (encY 0x70 0 a 0 s acq rel 4)
  | .sopen d a s acq rel => some (encY 0x70 d a 0 s acq rel 5)
  | .sclose d a => some (encY 0x70 d a 0 .strand false false 6)
  | .sadv d a b => some (encY 0x70 d a b.val .strand false false 7)
  | .scloseDrained _ => none
  | .lturn a s acq rel => some (encY 0x71 0 a 0 s acq rel 0)
  | .ltile a s acq rel => some (encY 0x71 0 a 0 s acq rel 1)
  | .ltrans a s acq rel => some (encY 0x71 0 a 0 s acq rel 2)
  | .lconv a s acq rel => some (encY 0x71 0 a 0 s acq rel 3)
  | .lconvo a s acq rel => some (encY 0x71 0 a 0 s acq rel 4)
  | .lscale a s acq rel => some (encY 0x71 0 a 0 s acq rel 5)
  | .lrepl a s acq rel => some (encY 0x71 0 a 0 s acq rel 6)
  | .binit a b s rel => some (encY 0x72 0 a b.val s false rel 0)
  | .barrive a s => some (encY 0x72 0 a 0 s false true 1)
  | .bwait d a s => some (encY 0x72 d a 0 s true false 2)
  | .btest d a s acq => some (encY 0x72 d a 0 s acq false 3)
  | .bfail a b s => some (encY 0x72 0 a b.val s false true 4)
  | .alaunch a s acq rel => some (encY 0x73 0 a 0 s acq rel 0)
  | .alock d a b => some (encY 0x73 d a b.val .strand false false 1)
  | .aunlock a => some (encY 0x73 0 a 0 .strand false false 2)
  | .afence => some (encY 0x73 0 0 0 .strand false false 3)
  | .coll a s acq rel => some (encY 0x74 0 a 0 s acq rel 0)
  | .cpoll d a s acq => some (encY 0x74 d a 0 s acq false 1)
  | .farm d a s rel => some (encY 0x75 d a 0 s false rel 0)
  | .oinv d a b => some (encY 0x75 d a b.val .strand false false 1)
  | .cwb a b => some (encY 0x76 0 a b.val .strand false false 0)
  | .cinv a b => some (encY 0x76 0 a b.val .strand false false 1)
  | .icinv a b s => some (encY 0x76 0 a b.val s false false 2)
  | .fbar => some (encY 0x76 0 0 0 .strand false false 3)
  | .mside a s acq rel => some (encY 0x76 0 a 0 s acq rel 4)
  | .sprefix a b => some (encY 0x76 0 a b.val .strand false false 5)
  | .tret => some (encY 0x77 0 0 0 .strand false false 0)
  | .spark d a => some (encY 0x77 d a 0 .strand false false 1)
  | .sstart d a b => some (encY 0x77 d a b.val .strand false false 2)
  | .preq d a => some (encY 0x77 d a 0 .strand false false 3)
  | .rcopy x y b => some (encR 0x01 x.toNat y.toNat b.toNat 0)
  | .rnot x y b n => some (encR 0x02 x.toNat y.toNat b.toNat n.toNat)
  | .rmaj x b tri => some (encR 0x03 x.toNat 0 b.toNat tri.toNat)
  | .rset x b v => some (encR 0x04 x.toNat 0 b.toNat v.toNat)
  | .rbcst x y b q => some (encR 0x05 x.toNat y.toNat b.toNat q.toNat)
  | .rmwr x y b m => some (encR 0x06 x.toNat y.toNat b.toNat m.toNat)
  | .rshl x y b dist => some (encR 0x07 x.toNat y.toNat b.toNat dist.toNat)
  | .rshr x y b dist => some (encR 0x07 x.toNat y.toNat b.toNat (4 + dist.toNat))
  | .rpcaAdd hi x y b sh => some (encR (0x08 + hi.toNat) x.toNat y.toNat b.toNat sh.toNat)
  | .rpcaSub hi x y b sh => some (encR (0x08 + hi.toNat) x.toNat y.toNat b.toNat (8 + sh.toNat))
  | .raclr => some (encR 0x0A 0 0 0 0)
  | .raccw x b clr => some (encR 0x0B x.toNat 0 b.toNat clr.toNat)
  | .raccb y b clr => some (encR 0x0C 0 y.toNat b.toNat clr.toNat)
  | .rldl y l => some (encR 0x0D 0 y.toNat 0 l.toNat)
  | .rldlQ q l => some (encR 0x0D 0 q.toNat 0 (4 + l.toNat))
  | .rloop x l => some (encR 0x0E x.toNat 0 0 l.toNat)
  | .rbtSet x bit q => some (encR 0x0F x.toNat bit.toNat 0 q.toNat)
  | .rbtClr x bit q => some (encR 0x0F x.toNat (32 + bit.toNat) 0 q.toNat)
  | .rbset k b op => some (encR 0x10 k.toNat 0 b.toNat op.toNat)
  | .rbsetK k b => some (encR 0x10 k.toNat 0 b.toNat 4)
  | .rbstep k b => some (encR 0x11 k.toNat 0 b.toNat 0)
  | .rseal x b cnt => some (encR 0x12 x.toNat 0 b.toNat cnt.toNat)
  | .rcheck x b cnt => some (encR 0x13 x.toNat 0 b.toNat cnt.toNat)
  | .rwait => some (encR 0x14 0 0 0 0)
  | .rend => some (encR 0x15 0 0 0 0)
  | .rraise k => some (encR 0x16 0 k.toNat 0 0)
  | .sprefixPerformed _ _ => none
  | .queueAgentPreemptionRequest _ => none

/-- The 32-bit word of an instruction; zero for a row of the table that has no word. -/
def encode (i : Instr) : Code := BitVec.ofNat 32 ((encodeNat i).getD 0)

end Sys2Proof
end

