-- ==== Sys2Proof/Machine/Waits.lean ====
section
/-! DEFINITION. The ends of waits: of a walk, a pin, a row, a full queue, posted commands, streams (R33, R90, R107, R140,
R202, R243, R310), and of the instructions that wait in WAIT: farm, bwait, doze, and sclose (R189, R254, R259, R268). A waiting
instruction's effect runs again, but for what step 4 of R243 keeps (log 24). -/

namespace Sys2Proof.Machine

/-- Strand `n` waits in an instruction of a major and a function of format Y. -/
def Strand.waitsIn (x : Strand) (mj fn : Nat) : Bool := x.held && major x.iw.toNat == mj && yfn x.iw.toNat == fn

/-- The destination and the address register of the instruction the strand waits in. -/
def Strand.waitD (x : Strand) : GReg := Sys2Proof.g (Sys2Proof.gd x.iw.toNat)
def Strand.waitA (x : Strand) : GReg := Sys2Proof.g (Sys2Proof.ga x.iw.toNat)

/-- The waiting instruction of strand `n` goes on next. -/
def State.goOn (s : State) (n : Nat) : State :=
  if (s.strand n).held then { s with agenda := .strand n :: s.agenda } else s

/-- Strand `n` takes the turn. -/
def State.turnOf (s : State) (n : Nat) : State := { s with cur := n }

/-- WALK_WAIT_END (R310): no mark and no pending swap is left, or the walk waits on. -/
def execWalkWaitEnd (n : StrandId) (s : State) : Host.Outcome State Fault Refusal := run (fun s => s.goOn n.val) s

/-- PIN_WAIT_END (R90): a pin is free, or the access waits on. -/
def execPinWaitEnd (n : StrandId) (s : State) : Host.Outcome State Fault Refusal := run (fun s => s.goOn n.val) s

/-- HORIZONTAL_ACCESS (R140): the row is free, or the access waits on. -/
def execHorizontalAccess (n : StrandId) (s : State) : Host.Outcome State Fault Refusal := run (fun s => s.goOn n.val) s

/-- STREAM_WAIT_END (R202): the stream has an element, or the access waits on. -/
def execStreamWaitEnd (n : StrandId) (s : State) : Host.Outcome State Fault Refusal := run (fun s => s.goOn n.val) s

/-- POSTED_SLOT_FREE (R33). -/
def execPostedSlotFree (n : StrandId) (s : State) : Host.Outcome State Fault Refusal :=
  run (fun s => if (s.strand n.val).st = .wait ∧ (s.strand n.val).posted < 256 then s.goOn n.val else s) s

/-- ENGINE_QUEUE_SLOT_FREE (R243): an entry is free, or the command waits on. -/
def execEngineQueueSlotFree (n : StrandId) (s : State) : Host.Outcome State Fault Refusal :=
  run (fun s => if (s.strand n.val).st = .wait then s.goOn n.val else s) s

/-- FARM_CONTEXT_WAIT_END (R268): the farm is declared once a context is free. -/
def execFarmContextWaitEnd (n : StrandId) (s : State) : Host.Outcome State Fault Refusal :=
  let x := s.strand n.val
  if x.st = .wait ∧ x.waitsIn 0x75 0 then
    execFarm x.waitD x.waitA ((scopeOf (ysc x.iw.toNat)).getD .strand) (flag (yrel x.iw.toNat)) (s.turnOf n.val)
  else run (fun s => s) s

/-- BWAIT_RELEASE (R259). -/
def execBwaitRelease (n : StrandId) (s : State) : Host.Outcome State Fault Refusal :=
  run (fun s =>
    let x := s.strand n.val
    if x.inBwait then (s.turnOf n.val).bwait x.waitD x.waitA else s) s

/-- DOZE_WAKE (R189): a raise or a pre-emption request. -/
def execDozeWake (n : StrandId) (s : State) : Host.Outcome State Fault Refusal :=
  run (fun s =>
    let x := s.strand n.val
    if x.st = .wait ∧ x.waitsIn 0x22 2 ∧ (x.preemptPending ∨ 0 < x.wakes) then (s.turnOf n.val).dozeAct x.waitD x.waitA
    else s) s

/-- DOZE_TIMEOUT (R189): neither, and the limit has passed. -/
def execDozeTimeout (n : StrandId) (s : State) : Host.Outcome State Fault Refusal :=
  run (fun s =>
    let x := s.strand n.val
    if x.st = .wait ∧ x.waitsIn 0x22 2 ∧ !x.preemptPending ∧ x.wakes = 0 then (s.turnOf n.val).dozeAct x.waitD x.waitA
    else s) s

/-- SCLOSE_DRAINED (R254). -/
def execScloseDrained (n : StrandId) (s : State) : Host.Outcome State Fault Refusal :=
  run (fun s =>
    let x := s.strand n.val
    if x.waitsIn 0x70 6 then (s.turnOf n.val).sclose x.waitD x.waitA else s) s

end Sys2Proof.Machine
end

