-- ==== Sys2Proof/Machine/Dispatch.lean ====
section
/-! DEFINITION. One arm for each instruction: its meaning, or its refusal by name. -/

namespace Sys2Proof.Machine

/-- The effect of an instruction, micro-op or event. -/
def exec (i : Instr) (s : State) : Host.Outcome State Fault Refusal :=
  match i with
  | .moduleReset => Sys2Proof.Machine.execModuleReset s
  | .firmwareStart => Sys2Proof.Machine.execFirmwareStart s
  | .trapEntry n => Sys2Proof.Machine.execTrapEntry n s
  | .serviceForward n => Sys2Proof.Machine.execServiceForward n s
  | .serviceResume n => Sys2Proof.Machine.execServiceResume n s
  | .serviceReflect n => Sys2Proof.Machine.execServiceReflect n s
  | .servicePark n => Sys2Proof.Machine.execServicePark n s
  | .hardPreemption n => Sys2Proof.Machine.execHardPreemption n s
  | .psetWrite d w => Sys2Proof.Machine.execPsetWrite d w s
  | .lpartWrite c w => Sys2Proof.Machine.execLpartWrite c w s
  | .dmbaseWrite d w => Sys2Proof.Machine.execDmbaseWrite d w s
  | .duppoolWrite d w => Sys2Proof.Machine.execDuppoolWrite d w s
  | .controlRegisterWrite d off w => Sys2Proof.Machine.execControlRegisterWrite d off w s
  | .farmStart d f n => Sys2Proof.Machine.execFarmStart d f n s
  | .farmCompletionArrival d f => Sys2Proof.Machine.execFarmCompletionArrival d f s
  | .farmArbitration d => Sys2Proof.Machine.execFarmArbitration d s
  | .walkWaitEnd n => Sys2Proof.Machine.execWalkWaitEnd n s
  | .pinWaitEnd n => Sys2Proof.Machine.execPinWaitEnd n s
  | .postedSlotFree n => Sys2Proof.Machine.execPostedSlotFree n s
  | .engineQueueSlotFree n => Sys2Proof.Machine.execEngineQueueSlotFree n s
  | .farmContextWaitEnd n => Sys2Proof.Machine.execFarmContextWaitEnd n s
  | .bwaitRelease n => Sys2Proof.Machine.execBwaitRelease n s
  | .dozeWake n => Sys2Proof.Machine.execDozeWake n s
  | .dozeTimeout n => Sys2Proof.Machine.execDozeTimeout n s
  | .streamWaitEnd n => Sys2Proof.Machine.execStreamWaitEnd n s
  | .launchAcceptance d => Sys2Proof.Machine.execLaunchAcceptance d s
  | .runStart d l n => Sys2Proof.Machine.execRunStart d l n s
  | .stepOverrun d m => Sys2Proof.Machine.execStepOverrun d m s
  | .runOverrun d m => Sys2Proof.Machine.execRunOverrun d m s
  | .launchPerformed d l => Sys2Proof.Machine.execLaunchPerformed d l s
  | .refreshSlot d bank => Sys2Proof.Machine.execRefreshSlot d bank s
  | .lockTimeout d m row => Sys2Proof.Machine.execLockTimeout d m row s
  | .horizontalAccess n => Sys2Proof.Machine.execHorizontalAccess n s
  | .engineFragment e c => Sys2Proof.Machine.execEngineFragment e c s
  | .engineCommandDone e c => Sys2Proof.Machine.execEngineCommandDone e c s
  | .streamInboundFill c st bytes => Sys2Proof.Machine.execStreamInboundFill c st bytes s
  | .streamOutboundDrain c st bytes => Sys2Proof.Machine.execStreamOutboundDrain c st bytes s
  | .collectiveChunk d c => Sys2Proof.Machine.execCollectiveChunk d c s
  | .wireBlockReceive d c member g chan bytes => Sys2Proof.Machine.execWireBlockReceive d c member g chan bytes s
  | .poisonNotice d c member chunk => Sys2Proof.Machine.execPoisonNotice d c member chunk s
  | .chunkDeadline d c => Sys2Proof.Machine.execChunkDeadline d c s
  | .collectiveComplete d c => Sys2Proof.Machine.execCollectiveComplete d c s
  | .install d => Sys2Proof.Machine.execInstall d s
  | .reloc d => Sys2Proof.Machine.execReloc d s
  | .evict d => Sys2Proof.Machine.execEvict d s
  | .markp d => Sys2Proof.Machine.execMarkp d s
  | .count d => Sys2Proof.Machine.execCount d s
  | .flush d => Sys2Proof.Machine.execFlush d s
  | .relocCopyDone d r => Sys2Proof.Machine.execRelocCopyDone d r s
  | .relocSwap d r => Sys2Proof.Machine.execRelocSwap d r s
  | .relocDestWriteFail d r => Sys2Proof.Machine.execRelocDestWriteFail d r s
  | .queueTailSnoop d q => Sys2Proof.Machine.execQueueTailSnoop d q s
  | .packetFarm d q => Sys2Proof.Machine.execPacketFarm d q s
  | .packetArrive d q => Sys2Proof.Machine.execPacketArrive d q s
  | .waitbarRelease d q => Sys2Proof.Machine.execWaitbarRelease d q s
  | .queueEnable d q => Sys2Proof.Machine.execQueueEnable d q s
  | .queueDisable d q => Sys2Proof.Machine.execQueueDisable d q s
  | .queueClearError d q => Sys2Proof.Machine.execQueueClearError d q s
  | .hostSnoop pa => Sys2Proof.Machine.execHostSnoop pa s
  | .hostHdmAccess pa w => Sys2Proof.Machine.execHostHdmAccess pa w s
  | .hostBar0Access off len w => Sys2Proof.Machine.execHostBar0Access off len w s
  | .hostLinkDown => Sys2Proof.Machine.execHostLinkDown s
  | .hostLinkUp => Sys2Proof.Machine.execHostLinkUp s
  | .clusterPowerGate c => Sys2Proof.Machine.execClusterPowerGate c s
  | .doff g => Sys2Proof.Machine.execDoff g s
  | .don g w => Sys2Proof.Machine.execDon g w s
  | .linksTrained g up => Sys2Proof.Machine.execLinksTrained g up s
  | .trainTimeout g => Sys2Proof.Machine.execTrainTimeout g s
  | .mapComplete g => Sys2Proof.Machine.execMapComplete g s
  | .linkLost g => Sys2Proof.Machine.execLinkLost g s
  | .ualinkPortLost g p => Sys2Proof.Machine.execUalinkPortLost g p s
  | .connectionAbandoned g chan => Sys2Proof.Machine.execConnectionAbandoned g chan s
  | .drainComplete g => Sys2Proof.Machine.execDrainComplete g s
  | .drainTimeout g => Sys2Proof.Machine.execDrainTimeout g s
  | .evacComplete g => Sys2Proof.Machine.execEvacComplete g s
  | .unmapComplete g => Sys2Proof.Machine.execUnmapComplete g s
  | .launchMessage g bytes => Sys2Proof.Machine.execLaunchMessage g bytes s
  | .lpddrChannelFailure c => Sys2Proof.Machine.execLpddrChannelFailure c s
  | .lpddrPatrolScrub pa => Sys2Proof.Machine.execLpddrPatrolScrub pa s
  | .rosterInstall d w => Sys2Proof.Machine.execRosterInstall d w s
  | .rosterRetire d w => Sys2Proof.Machine.execRosterRetire d w s
  | .mctpReadRegister d off => Sys2Proof.Machine.execMctpReadRegister d off s
  | .mctpWriteCapw w => Sys2Proof.Machine.execMctpWriteCapw w s
  | .attestationQuote nonce => Sys2Proof.Machine.execAttestationQuote nonce s
  | .add d a b => Sys2Proof.Machine.execAdd d a b s
  | .sub d a b => Sys2Proof.Machine.execSub d a b s
  | .and d a b => Sys2Proof.Machine.execAnd d a b s
  | .or d a b => Sys2Proof.Machine.execOr d a b s
  | .xor d a b => Sys2Proof.Machine.execXor d a b s
  | .andn d a b => Sys2Proof.Machine.execAndn d a b s
  | .sll d a b => Sys2Proof.Machine.execSll d a b s
  | .srl d a b => Sys2Proof.Machine.execSrl d a b s
  | .sra d a b => Sys2Proof.Machine.execSra d a b s
  | .rol d a b => Sys2Proof.Machine.execRol d a b s
  | .slt d a b => Sys2Proof.Machine.execSlt d a b s
  | .sltu d a b => Sys2Proof.Machine.execSltu d a b s
  | .min d a b => Sys2Proof.Machine.execMin d a b s
  | .max d a b => Sys2Proof.Machine.execMax d a b s
  | .minu d a b => Sys2Proof.Machine.execMinu d a b s
  | .maxu d a b => Sys2Proof.Machine.execMaxu d a b s
  | .seq d a b => Sys2Proof.Machine.execSeq d a b s
  | .sne d a b => Sys2Proof.Machine.execSne d a b s
  | .mul d a b => Sys2Proof.Machine.execMul d a b s
  | .mulhs d a b => Sys2Proof.Machine.execMulhs d a b s
  | .mulhu d a b => Sys2Proof.Machine.execMulhu d a b s
  | .mulhm d a b => Sys2Proof.Machine.execMulhm d a b s
  | .quot d a b => Sys2Proof.Machine.execQuot d a b s
  | .quotu d a b => Sys2Proof.Machine.execQuotu d a b s
  | .mod d a b => Sys2Proof.Machine.execMod d a b s
  | .modu d a b => Sys2Proof.Machine.execModu d a b s
  | .clz d a => Sys2Proof.Machine.execClz d a s
  | .ctz d a => Sys2Proof.Machine.execCtz d a s
  | .popc d a => Sys2Proof.Machine.execPopc d a s
  | .rev8 d a => Sys2Proof.Machine.execRev8 d a s
  | .fshr d a b sh => Sys2Proof.Machine.execFshr d a b sh s
  | .addi d a imm => Sys2Proof.Machine.execAddi d a imm s
  | .andi d a imm => Sys2Proof.Machine.execAndi d a imm s
  | .ori d a imm => Sys2Proof.Machine.execOri d a imm s
  | .xori d a imm => Sys2Proof.Machine.execXori d a imm s
  | .slti d a imm => Sys2Proof.Machine.execSlti d a imm s
  | .sltiu d a imm => Sys2Proof.Machine.execSltiu d a imm s
  | .slli d a sh => Sys2Proof.Machine.execSlli d a sh s
  | .srli d a sh => Sys2Proof.Machine.execSrli d a sh s
  | .srai d a sh => Sys2Proof.Machine.execSrai d a sh s
  | .roli d a sh => Sys2Proof.Machine.execRoli d a sh s
  | .bfx d a width pos => Sys2Proof.Machine.execBfx d a width pos s
  | .bfxu d a width pos => Sys2Proof.Machine.execBfxu d a width pos s
  | .lui d imm => Sys2Proof.Machine.execLui d imm s
  | .lmid d imm => Sys2Proof.Machine.execLmid d imm s
  | .lhi d imm => Sys2Proof.Machine.execLhi d imm s
  | .ldb d a imm => Sys2Proof.Machine.execLdb d a imm s
  | .ldh d a imm => Sys2Proof.Machine.execLdh d a imm s
  | .ldw d a imm => Sys2Proof.Machine.execLdw d a imm s
  | .ldd d a imm => Sys2Proof.Machine.execLdd d a imm s
  | .ldbu d a imm => Sys2Proof.Machine.execLdbu d a imm s
  | .ldhu d a imm => Sys2Proof.Machine.execLdhu d a imm s
  | .ldwu d a imm => Sys2Proof.Machine.execLdwu d a imm s
  | .stb a b imm => Sys2Proof.Machine.execStb a b imm s
  | .sth a b imm => Sys2Proof.Machine.execSth a b imm s
  | .stw a b imm => Sys2Proof.Machine.execStw a b imm s
  | .std a b imm => Sys2Proof.Machine.execStd a b imm s
  | .beq a b imm => Sys2Proof.Machine.execBeq a b imm s
  | .bne a b imm => Sys2Proof.Machine.execBne a b imm s
  | .blt a b imm => Sys2Proof.Machine.execBlt a b imm s
  | .bge a b imm => Sys2Proof.Machine.execBge a b imm s
  | .jal imm => Sys2Proof.Machine.execJal imm s
  | .jalr d a imm => Sys2Proof.Machine.execJalr d a imm s
  | .crr d r => Sys2Proof.Machine.execCrr d r s
  | .crw d a r => Sys2Proof.Machine.execCrw d a r s
  | .crs d a r => Sys2Proof.Machine.execCrs d a r s
  | .crc d a r => Sys2Proof.Machine.execCrc d a r s
  | .svc a => Sys2Proof.Machine.execSvc a s
  | .sret a => Sys2Proof.Machine.execSret a s
  | .doze d a => Sys2Proof.Machine.execDoze d a s
  | .wake a => Sys2Proof.Machine.execWake a s
  | .brk => Sys2Proof.Machine.execBrk s
  | .atswapW d a b sc acq rel => Sys2Proof.Machine.execAtswapW d a b sc acq rel s
  | .ataddW d a b sc acq rel => Sys2Proof.Machine.execAtaddW d a b sc acq rel s
  | .atandW d a b sc acq rel => Sys2Proof.Machine.execAtandW d a b sc acq rel s
  | .atorW d a b sc acq rel => Sys2Proof.Machine.execAtorW d a b sc acq rel s
  | .atxorW d a b sc acq rel => Sys2Proof.Machine.execAtxorW d a b sc acq rel s
  | .atminW d a b sc acq rel => Sys2Proof.Machine.execAtminW d a b sc acq rel s
  | .atmaxW d a b sc acq rel => Sys2Proof.Machine.execAtmaxW d a b sc acq rel s
  | .atminuW d a b sc acq rel => Sys2Proof.Machine.execAtminuW d a b sc acq rel s
  | .atmaxuW d a b sc acq rel => Sys2Proof.Machine.execAtmaxuW d a b sc acq rel s
  | .casW d a b sc acq rel => Sys2Proof.Machine.execCasW d a b sc acq rel s
  | .atswapD d a b sc acq rel => Sys2Proof.Machine.execAtswapD d a b sc acq rel s
  | .ataddD d a b sc acq rel => Sys2Proof.Machine.execAtaddD d a b sc acq rel s
  | .atandD d a b sc acq rel => Sys2Proof.Machine.execAtandD d a b sc acq rel s
  | .atorD d a b sc acq rel => Sys2Proof.Machine.execAtorD d a b sc acq rel s
  | .atxorD d a b sc acq rel => Sys2Proof.Machine.execAtxorD d a b sc acq rel s
  | .atminD d a b sc acq rel => Sys2Proof.Machine.execAtminD d a b sc acq rel s
  | .atmaxD d a b sc acq rel => Sys2Proof.Machine.execAtmaxD d a b sc acq rel s
  | .atminuD d a b sc acq rel => Sys2Proof.Machine.execAtminuD d a b sc acq rel s
  | .atmaxuD d a b sc acq rel => Sys2Proof.Machine.execAtmaxuD d a b sc acq rel s
  | .casD d a b sc acq rel => Sys2Proof.Machine.execCasD d a b sc acq rel s
  | .ldaB d a sc => Sys2Proof.Machine.execLdaB d a sc s
  | .ldaH d a sc => Sys2Proof.Machine.execLdaH d a sc s
  | .ldaW d a sc => Sys2Proof.Machine.execLdaW d a sc s
  | .ldaD d a sc => Sys2Proof.Machine.execLdaD d a sc s
  | .stlB a b sc => Sys2Proof.Machine.execStlB a b sc s
  | .stlH a b sc => Sys2Proof.Machine.execStlH a b sc s
  | .stlW a b sc => Sys2Proof.Machine.execStlW a b sc s
  | .stlD a b sc => Sys2Proof.Machine.execStlD a b sc s
  | .fence succ sc pred => Sys2Proof.Machine.execFence succ sc pred s
  | .vsetl d a => Sys2Proof.Machine.execVsetl d a s
  | .vsetlf d a b => Sys2Proof.Machine.execVsetlf d a b s
  | .vsetlc d imm => Sys2Proof.Machine.execVsetlc d imm s
  | .vld v a k dt w => Sys2Proof.Machine.execVld v a k dt w s
  | .vlds v a b k dt => Sys2Proof.Machine.execVlds v a b k dt s
  | .vldx v a x k dt => Sys2Proof.Machine.execVldx v a x k dt s
  | .vldxo v a x k dt => Sys2Proof.Machine.execVldxo v a x k dt s
  | .vldc v a b k dt => Sys2Proof.Machine.execVldc v a b k dt s
  | .vldo v a k dt w => Sys2Proof.Machine.execVldo v a k dt w s
  | .vst v a k dt w => Sys2Proof.Machine.execVst v a k dt w s
  | .vsts v a b k dt => Sys2Proof.Machine.execVsts v a b k dt s
  | .vstx v a x k dt => Sys2Proof.Machine.execVstx v a x k dt s
  | .vstxo v a x k dt => Sys2Proof.Machine.execVstxo v a x k dt s
  | .vstc v a b k dt => Sys2Proof.Machine.execVstc v a b k dt s
  | .vsto v a k dt w => Sys2Proof.Machine.execVsto v a k dt w s
  | .vlde e a => Sys2Proof.Machine.execVlde e a s
  | .vldes e a b => Sys2Proof.Machine.execVldes e a b s
  | .vste e a => Sys2Proof.Machine.execVste e a s
  | .vstes e a b => Sys2Proof.Machine.execVstes e a b s
  | .vatadd v a x k dt => Sys2Proof.Machine.execVatadd v a x k dt s
  | .vatmin v a x k dt => Sys2Proof.Machine.execVatmin v a x k dt s
  | .vatmax v a x k dt => Sys2Proof.Machine.execVatmax v a x k dt s
  | .vatswap v a x k dt => Sys2Proof.Machine.execVatswap v a x k dt s
  | .vatand v a x k dt => Sys2Proof.Machine.execVatand v a x k dt s
  | .vator v a x k dt => Sys2Proof.Machine.execVator v a x k dt s
  | .vadd v a b k dt => Sys2Proof.Machine.execVadd v a b k dt s
  | .vfadd v a b k dt => Sys2Proof.Machine.execVfadd v a b k dt s
  | .vsub v a b k dt => Sys2Proof.Machine.execVsub v a b k dt s
  | .vfsub v a b k dt => Sys2Proof.Machine.execVfsub v a b k dt s
  | .vmul v a b k dt => Sys2Proof.Machine.execVmul v a b k dt s
  | .vfmul v a b k dt => Sys2Proof.Machine.execVfmul v a b k dt s
  | .vmulhs v a b k dt => Sys2Proof.Machine.execVmulhs v a b k dt s
  | .vmulhu v a b k dt => Sys2Proof.Machine.execVmulhu v a b k dt s
  | .vmuladd v a b k dt => Sys2Proof.Machine.execVmuladd v a b k dt s
  | .vfmuladd v a b k dt => Sys2Proof.Machine.execVfmuladd v a b k dt s
  | .vmulsub v a b k dt => Sys2Proof.Machine.execVmulsub v a b k dt s
  | .vfmulsub v a b k dt => Sys2Proof.Machine.execVfmulsub v a b k dt s
  | .vmin v a b k dt => Sys2Proof.Machine.execVmin v a b k dt s
  | .vfmin v a b k dt => Sys2Proof.Machine.execVfmin v a b k dt s
  | .vmax v a b k dt => Sys2Proof.Machine.execVmax v a b k dt s
  | .vfmax v a b k dt => Sys2Proof.Machine.execVfmax v a b k dt s
  | .vminu v a b k dt => Sys2Proof.Machine.execVminu v a b k dt s
  | .vmaxu v a b k dt => Sys2Proof.Machine.execVmaxu v a b k dt s
  | .vand v a b k dt => Sys2Proof.Machine.execVand v a b k dt s
  | .vor v a b k dt => Sys2Proof.Machine.execVor v a b k dt s
  | .vxor v a b k dt => Sys2Proof.Machine.execVxor v a b k dt s
  | .vandn v a b k dt => Sys2Proof.Machine.execVandn v a b k dt s
  | .vshl v a b k dt => Sys2Proof.Machine.execVshl v a b k dt s
  | .vshr v a b k dt => Sys2Proof.Machine.execVshr v a b k dt s
  | .vsar v a b k dt => Sys2Proof.Machine.execVsar v a b k dt s
  | .vrol v a b k dt => Sys2Proof.Machine.execVrol v a b k dt s
  | .vaddsat v a b k dt => Sys2Proof.Machine.execVaddsat v a b k dt s
  | .vsubsat v a b k dt => Sys2Proof.Machine.execVsubsat v a b k dt s
  | .vquot v a b k dt => Sys2Proof.Machine.execVquot v a b k dt s
  | .vquotu v a b k dt => Sys2Proof.Machine.execVquotu v a b k dt s
  | .vmod v a b k dt => Sys2Proof.Machine.execVmod v a b k dt s
  | .vmodu v a b k dt => Sys2Proof.Machine.execVmodu v a b k dt s
  | .vfdiv v a b k dt => Sys2Proof.Machine.execVfdiv v a b k dt s
  | .vfsqrt v a k dt => Sys2Proof.Machine.execVfsqrt v a k dt s
  | .vfrec v a k dt => Sys2Proof.Machine.execVfrec v a k dt s
  | .vfrsq v a k dt => Sys2Proof.Machine.execVfrsq v a k dt s
  | .vfexp v a k dt => Sys2Proof.Machine.execVfexp v a k dt s
  | .vflog v a k dt => Sys2Proof.Machine.execVflog v a k dt s
  | .vceq kd a b k dt => Sys2Proof.Machine.execVceq kd a b k dt s
  | .vcne kd a b k dt => Sys2Proof.Machine.execVcne kd a b k dt s
  | .vclt kd a b k dt => Sys2Proof.Machine.execVclt kd a b k dt s
  | .vcle kd a b k dt => Sys2Proof.Machine.execVcle kd a b k dt s
  | .vcltu kd a b k dt => Sys2Proof.Machine.execVcltu kd a b k dt s
  | .vcleu kd a b k dt => Sys2Proof.Machine.execVcleu kd a b k dt s
  | .vfceq kd a b k dt => Sys2Proof.Machine.execVfceq kd a b k dt s
  | .vfcne kd a b k dt => Sys2Proof.Machine.execVfcne kd a b k dt s
  | .vfclt kd a b k dt => Sys2Proof.Machine.execVfclt kd a b k dt s
  | .vfcle kd a b k dt => Sys2Proof.Machine.execVfcle kd a b k dt s
  | .vsel v a b k dt => Sys2Proof.Machine.execVsel v a b k dt s
  | .vmove v b k dt => Sys2Proof.Machine.execVmove v b k dt s
  | .vcvt v a k dt => Sys2Proof.Machine.execVcvt v a k dt s
  | .vfsetsign v a b k dt => Sys2Proof.Machine.execVfsetsign v a b k dt s
  | .vfnegsign v a b k dt => Sys2Proof.Machine.execVfnegsign v a b k dt s
  | .vfxorsign v a b k dt => Sys2Proof.Machine.execVfxorsign v a b k dt s
  | .vquant v a e k dt => Sys2Proof.Machine.execVquant v a e k dt s
  | .vpack v a ty e k dt => Sys2Proof.Machine.execVpack v a ty e k dt s
  | .vdequant v a e k dt => Sys2Proof.Machine.execVdequant v a e k dt s
  | .vbdot v a b k dt => Sys2Proof.Machine.execVbdot v a b k dt s
  | .vfcun kd a b k dt => Sys2Proof.Machine.execVfcun kd a b k dt s
  | .vlift v a b k dt => Sys2Proof.Machine.execVlift v a b k dt s
  | .vdrop v a b k dt => Sys2Proof.Machine.execVdrop v a b k dt s
  | .vpick v a b k dt => Sys2Proof.Machine.execVpick v a b k dt s
  | .vindex v k dt => Sys2Proof.Machine.execVindex v k dt s
  | .vsqueeze v a k dt => Sys2Proof.Machine.execVsqueeze v a k dt s
  | .vspread v a k dt => Sys2Proof.Machine.execVspread v a k dt s
  | .vconf v a k dt => Sys2Proof.Machine.execVconf v a k dt s
  | .vconfm kd a k dt => Sys2Proof.Machine.execVconfm kd a k dt s
  | .kand kd ka kb => Sys2Proof.Machine.execKand kd ka kb s
  | .kor kd ka kb => Sys2Proof.Machine.execKor kd ka kb s
  | .kxor kd ka kb => Sys2Proof.Machine.execKxor kd ka kb s
  | .kandn kd ka kb => Sys2Proof.Machine.execKandn kd ka kb s
  | .kpop d ks => Sys2Proof.Machine.execKpop d ks s
  | .kfirst d ks => Sys2Proof.Machine.execKfirst d ks s
  | .vrsum v a k dt => Sys2Proof.Machine.execVrsum v a k dt s
  | .vrmin v a k dt => Sys2Proof.Machine.execVrmin v a k dt s
  | .vrmax v a k dt => Sys2Proof.Machine.execVrmax v a k dt s
  | .vrminu v a k dt => Sys2Proof.Machine.execVrminu v a k dt s
  | .vrmaxu v a k dt => Sys2Proof.Machine.execVrmaxu v a k dt s
  | .vrand v a k dt => Sys2Proof.Machine.execVrand v a k dt s
  | .vror v a k dt => Sys2Proof.Machine.execVror v a k dt s
  | .vrxor v a k dt => Sys2Proof.Machine.execVrxor v a k dt s
  | .vfrsum v a k dt => Sys2Proof.Machine.execVfrsum v a k dt s
  | .vfrosum v a k dt => Sys2Proof.Machine.execVfrosum v a k dt s
  | .vfrmin v a k dt => Sys2Proof.Machine.execVfrmin v a k dt s
  | .vfrmax v a k dt => Sys2Proof.Machine.execVfrmax v a k dt s
  | .tld t a => Sys2Proof.Machine.execTld t a s
  | .tlds t a b => Sys2Proof.Machine.execTlds t a b s
  | .tldc t a b => Sys2Proof.Machine.execTldc t a b s
  | .tst t a => Sys2Proof.Machine.execTst t a s
  | .tsts t a b => Sys2Proof.Machine.execTsts t a b s
  | .tstc t a b => Sys2Proof.Machine.execTstc t a b s
  | .mmul v a t => Sys2Proof.Machine.execMmul v a t s
  | .mmac v a t => Sys2Proof.Machine.execMmac v a t s
  | .mmulb v a t ea eb => Sys2Proof.Machine.execMmulb v a t ea eb s
  | .mmacb v a t ea eb => Sys2Proof.Machine.execMmacb v a t ea eb s
  | .tmv t a => Sys2Proof.Machine.execTmv t a s
  | .vmvt v t => Sys2Proof.Machine.execVmvt v t s
  | .ocopy a sc acq rel => Sys2Proof.Machine.execOcopy a sc acq rel s
  | .ogather a sc acq rel => Sys2Proof.Machine.execOgather a sc acq rel s
  | .vsave a sc acq rel => Sys2Proof.Machine.execVsave a sc acq rel s
  | .vrest a sc acq rel => Sys2Proof.Machine.execVrest a sc acq rel s
  | .vxcore a sc acq rel => Sys2Proof.Machine.execVxcore a sc acq rel s
  | .sopen d a sc acq rel => Sys2Proof.Machine.execSopen d a sc acq rel s
  | .sclose d a => Sys2Proof.Machine.execSclose d a s
  | .sadv d a b => Sys2Proof.Machine.execSadv d a b s
  | .scloseDrained n => Sys2Proof.Machine.execScloseDrained n s
  | .lturn a sc acq rel => Sys2Proof.Machine.execLturn a sc acq rel s
  | .ltile a sc acq rel => Sys2Proof.Machine.execLtile a sc acq rel s
  | .ltrans a sc acq rel => Sys2Proof.Machine.execLtrans a sc acq rel s
  | .lconv a sc acq rel => Sys2Proof.Machine.execLconv a sc acq rel s
  | .lconvo a sc acq rel => Sys2Proof.Machine.execLconvo a sc acq rel s
  | .lscale a sc acq rel => Sys2Proof.Machine.execLscale a sc acq rel s
  | .lrepl a sc acq rel => Sys2Proof.Machine.execLrepl a sc acq rel s
  | .binit a b sc rel => Sys2Proof.Machine.execBinit a b sc rel s
  | .barrive a sc => Sys2Proof.Machine.execBarrive a sc s
  | .bwait d a sc => Sys2Proof.Machine.execBwait d a sc s
  | .btest d a sc acq => Sys2Proof.Machine.execBtest d a sc acq s
  | .bfail a b sc => Sys2Proof.Machine.execBfail a b sc s
  | .alaunch a sc acq rel => Sys2Proof.Machine.execAlaunch a sc acq rel s
  | .alock d a b => Sys2Proof.Machine.execAlock d a b s
  | .aunlock a => Sys2Proof.Machine.execAunlock a s
  | .afence => Sys2Proof.Machine.execAfence s
  | .coll a sc acq rel => Sys2Proof.Machine.execColl a sc acq rel s
  | .cpoll d a sc acq => Sys2Proof.Machine.execCpoll d a sc acq s
  | .farm d a sc rel => Sys2Proof.Machine.execFarm d a sc rel s
  | .oinv d a b => Sys2Proof.Machine.execOinv d a b s
  | .cwb a b => Sys2Proof.Machine.execCwb a b s
  | .cinv a b => Sys2Proof.Machine.execCinv a b s
  | .icinv a b sc => Sys2Proof.Machine.execIcinv a b sc s
  | .fbar => Sys2Proof.Machine.execFbar s
  | .mside a sc acq rel => Sys2Proof.Machine.execMside a sc acq rel s
  | .sprefix a b => Sys2Proof.Machine.execSprefix a b s
  | .tret => Sys2Proof.Machine.execTret s
  | .spark d a => Sys2Proof.Machine.execSpark d a s
  | .sstart d a b => Sys2Proof.Machine.execSstart d a b s
  | .preq d a => Sys2Proof.Machine.execPreq d a s
  | .rcopy x y b => Sys2Proof.Machine.execRcopy x y b s
  | .rnot x y b n => Sys2Proof.Machine.execRnot x y b n s
  | .rmaj x b tri => Sys2Proof.Machine.execRmaj x b tri s
  | .rset x b v => Sys2Proof.Machine.execRset x b v s
  | .rbcst x y b q => Sys2Proof.Machine.execRbcst x y b q s
  | .rmwr x y b m => Sys2Proof.Machine.execRmwr x y b m s
  | .rshl x y b dist => Sys2Proof.Machine.execRshl x y b dist s
  | .rshr x y b dist => Sys2Proof.Machine.execRshr x y b dist s
  | .rpcaAdd hi x y b sh => Sys2Proof.Machine.execRpcaAdd hi x y b sh s
  | .rpcaSub hi x y b sh => Sys2Proof.Machine.execRpcaSub hi x y b sh s
  | .raclr => Sys2Proof.Machine.execRaclr s
  | .raccw x b clr => Sys2Proof.Machine.execRaccw x b clr s
  | .raccb y b clr => Sys2Proof.Machine.execRaccb y b clr s
  | .rldl y l => Sys2Proof.Machine.execRldl y l s
  | .rldlQ q l => Sys2Proof.Machine.execRldlQ q l s
  | .rloop x l => Sys2Proof.Machine.execRloop x l s
  | .rbtSet x bit q => Sys2Proof.Machine.execRbtSet x bit q s
  | .rbtClr x bit q => Sys2Proof.Machine.execRbtClr x bit q s
  | .rbset k b op => Sys2Proof.Machine.execRbset k b op s
  | .rbsetK k b => Sys2Proof.Machine.execRbsetK k b s
  | .rbstep k b => Sys2Proof.Machine.execRbstep k b s
  | .rseal x b cnt => Sys2Proof.Machine.execRseal x b cnt s
  | .rcheck x b cnt => Sys2Proof.Machine.execRcheck x b cnt s
  | .rwait => Sys2Proof.Machine.execRwait s
  | .rend => Sys2Proof.Machine.execRend s
  | .rraise k => Sys2Proof.Machine.execRraise k s
  | .sprefixPerformed d c => Sys2Proof.Machine.execSprefixPerformed d c s
  | .queueAgentPreemptionRequest n => Sys2Proof.Machine.execQueueAgentPreemptionRequest n s

end Sys2Proof.Machine
end

