-- ==== Sys2Proof/Machine/Fetch.lean ====
section
/-! DEFINITION. Instruction fetch: the walk of R305 for a fetch, and L1 instruction lines, which are filled from the home L2
and kept until icinv or replacement (R77, R270). -/

namespace Sys2Proof.Machine

/-- The line as its home L2 holds it: the coherent bytes, but where a dirty L1 copy has not been written back. -/
def State.l2Line (s : State) (line : Nat) : List Byte :=
  (List.range 64).map fun i =>
    match s.l2.get none (64 * line + i) with
    | some b => b.1
    | none => s.readByte (64 * line + i)

/-- Some byte of the line is dirty in an L1. -/
def State.dirtyInL1 (s : State) (line : Nat) : Bool := s.l2.any fun p => p.1 / 64 == line

/-- A line whose dirty copy has been written back by now, if the free value says so. -/
def State.maybeWrittenBack (s : State) (line : Nat) : State :=
  if s.dirtyInL1 line then
    if Config.wroteBack s.ticks line then { s.tick with l2 := dropLine s.l2 line } else s.tick
  else s

/-- The line is held in the core's L1 instruction cache, and has not been replaced. -/
def State.lineHeld (s : State) (c line : Nat) : Bool :=
  match (s.core c).icache.get [] line with
  | [] => false
  | _ => !Config.lineReplaced s.ticks line

/-- Room for one more line: an L1 instruction cache of 128 KiB holds 2,048 lines, and any of them may go (R1, R77; log 4). -/
def Core.icacheRoom (k : Core) (n : Nat) : Core := if k.icache.length < 2048 then k else { k with icache := k.icache.eraseIdx (n % 2048) }

/-- The core holds the line from now on. -/
def State.fillLine (s : State) (c line : Nat) : State :=
  if s.lineHeld c line then s
  else
    let t := s.maybeWrittenBack line
    t.updCore c fun k =>
      let r := k.icacheRoom (Config.victim t.ticks (64 * line))
      { r with icache := r.icache.put [] line (t.l2Line line) }

/-- The byte of a piece of an instruction word whose line is cached: not in a ZERO sub-tile, nor in host memory of an object
without H (R344), nor a device object's (R184). -/
def Piece.cached (p : Piece) : Option Nat :=
  match p.place with
  | .mem a _ => some a
  | .host a _ => if isHost a then none else some a
  | .device _ _ => none
  | .zero => none

/-- One piece of an instruction word: from the core's line, or from where it lies when it is not cached. -/
def State.linePiece (s : State) (c : Nat) (p : Piece) : Nat :=
  match p.cached with
  | some a => (((s.core c).icache.get [] (a / 64)).getD (a % 64) 0).toNat / 2 ^ p.shift % 2 ^ p.width
  | none => s.readPiece p

/-- The line a piece of an instruction word lies in, where it is cached. -/
def Piece.line (p : Piece) : Option Nat := p.cached.map (· / 64)

/-- An instruction word, piece by piece: each line is filled as the word comes to it, unless the piece before lies in it. -/
def State.fetchPieces (s : State) (c : Nat) (last : Option Nat) (ps : List Piece) : State × Nat :=
  match ps with
  | [] => (s, 0)
  | p :: r =>
    let t := match p.line with
      | some l => if last = some l then s else s.fillLine c l
      | none => s
    let u := t.fetchPieces c (if p.line = none then last else p.line) r
    (u.1, t.linePiece c p + 2 ^ p.width * u.2)

/-- A translation cache reads the bytes of a record or a residency entry it does not hold: a horizontal access, whose ECC is
checked (R107, R140, R306; log 18). -/
def State.refill (s : State) (a n : Nat) : State := s.whenFree (rowsOf a n) (s.eccRead a n)

/-- The outcome of a fetch. -/
inductive Fetched where
  /-- The word, in the state the fetch leaves. -/
  | word (s : State) (w : Code)
  /-- A fault of the instruction that could not be fetched, already taken (R177). -/
  | trapped (s : State)
  /-- The walk or the row access waits. -/
  | waits (s : State)

/-- The fetch of the strand whose turn it is, at its pc. -/
def State.fetch (s : State) : Fetched :=
  let x := s.me
  match s.walk (s.agentOf s.cur) .fetch s.myHolds x.pc 4 0 32 with
  | .fail f => .trapped (((s.tick).upd fun y => { y with iw := Config.unfetched s.ticks }).trapFail f x.pc)
  | .wait w => .waits (s.awaitRow w)
  | .ok h =>
    match h.reach with
    | .ctrl _ _ => .trapped (((s.tick).upd fun y => { y with iw := Config.unfetched s.ticks }).trap 8 x.pc)
    | .bytes ps =>
      if s.piecesWait ps (some s.cur) then
        .waits ((s.notePieces ps (some s.cur)).upd fun y => { y with pins := s.pinsOf h.entries, rowWait := s.waitedRows ps (some s.cur) })
      else if (s.eccPieces ps).piecesPoisoned ps then
        .trapped ((((s.eccPieces ps).tick).upd fun y => { y with iw := Config.unfetched s.ticks }).trap 9 x.pc)
      else
        let (t, w) := (s.eccPieces ps).fetchPieces (coreOf s.cur) none ps
        .word (t.upd fun y => { y with iw := BitVec.ofNat 32 w, pins := [], rowWait := [] }) (BitVec.ofNat 32 w)

end Sys2Proof.Machine
end

