-- ==== Sys2Proof/Machine/Use.lean ====
section
/-! DEFINITION. The registers an instruction reads, where an uncorrectable error is found (R384), and those that wait for a
vrest (R249). -/

namespace Sys2Proof.Machine

/-- The control registers a vector instruction reads: vl, vtype and vstart; a vector memory access vspace too; a tile instruction the
tcfg of its tile (R24, R25, R82, R235). Those that translation, the mode and trap entry use are not read by an instruction (log 68). -/
def vecRegs : List RegName := [.cr 0, .cr 1, .cr 2]
def vmemRegs : List RegName := .cr 4 :: vecRegs
def tcfgReg (t : TReg) : RegName := .cr (0x30 + t.val)

/-- What the grant rule reads beside its operand: vl, vbase, lpart, vsend, vfarm and vcap (R26). -/
def grantRegs : List RegName := [.cr 0, .cr 3, .cr 6, .cr 7, .cr 8, .cr 9]

/-- What a transfer of control may read beside its operands: vfarm, and of a strand that leaves its farm vl, vbase and vsend (R30,
R31). -/
def farmRegs : List RegName := [.cr 8, .cr 0, .cr 3, .cr 7]

/-- The scalar register, or the vector register, of a third operand. -/
def srcRegs (b : VSrc) : List RegName := match b with
  | .vs r => [.g r.val]
  | _ => []
def srcTouched (b : VSrc) : List ImgReg := match b with
  | .vv r => [.v r.val]
  | _ => []

/-- The general, control, mask and scale registers an instruction reads. -/
def readsOf (i : Instr) : List RegName :=
  match i with
  | .add _ a b | .sub _ a b | .and _ a b | .or _ a b | .xor _ a b | .andn _ a b | .sll _ a b | .srl _ a b | .sra _ a b
  | .rol _ a b | .slt _ a b | .sltu _ a b | .min _ a b | .max _ a b | .minu _ a b | .maxu _ a b | .seq _ a b
  | .sne _ a b | .mul _ a b | .mulhs _ a b | .mulhu _ a b | .mulhm _ a b | .quot _ a b | .quotu _ a b | .mod _ a b
  | .modu _ a b | .sadv _ a b | .alock _ a b | .oinv _ a b | .sstart _ a b => [.g a.val, .g b.val]
  | .clz _ a | .ctz _ a | .popc _ a | .rev8 _ a | .doze _ a | .sclose _ a | .spark _ a | .preq _ a => [.g a.val]
  | .fshr _ a b _ => [.g a.val, .g b.val]
  | .addi _ a _ | .andi _ a _ | .ori _ a _ | .xori _ a _ | .slti _ a _ | .sltiu _ a _ | .ldb _ a _ | .ldh _ a _
  | .ldw _ a _ | .ldd _ a _ | .ldbu _ a _ | .ldhu _ a _ | .ldwu _ a _ | .slli _ a _ | .srli _ a _ | .srai _ a _
  | .roli _ a _ | .ldaB _ a _ | .ldaH _ a _ | .ldaW _ a _ | .ldaD _ a _ | .bwait _ a _ => [.g a.val]
  | .bfx _ a _ _ | .bfxu _ a _ _ | .btest _ a _ _ | .cpoll _ a _ _ | .farm _ a _ _ => [.g a.val]
  | .lui _ _ => []
  | .lhi d _ | .lmid d _ => [.g d.val]
  | .stb a b _ | .sth a b _ | .stw a b _ | .std a b _ | .stlB a b _ | .stlH a b _ | .stlW a b _ | .stlD a b _
  | .bfail a b _ | .icinv a b _ => [.g a.val, .g b.val]
  | .beq a b _ | .bne a b _ | .blt a b _ | .bge a b _ => [.g a.val, .g b.val] ++ farmRegs
  | .jal _ => farmRegs
  | .jalr _ a _ | .sret a => .g a.val :: farmRegs
  | .crr _ r => [.cr r.toNat]
  | .crw _ a r | .crs _ a r | .crc _ a r => [.g a.val, .cr r.toNat] ++ if r = 8 then farmRegs else []
  | .svc a | .wake a | .aunlock a => [.g a.val]
  | .brk | .afence | .fbar => []
  | .atswapW _ a b _ _ _ | .ataddW _ a b _ _ _ | .atandW _ a b _ _ _ | .atorW _ a b _ _ _ | .atxorW _ a b _ _ _
  | .atminW _ a b _ _ _ | .atmaxW _ a b _ _ _ | .atminuW _ a b _ _ _ | .atmaxuW _ a b _ _ _
  | .atswapD _ a b _ _ _ | .ataddD _ a b _ _ _ | .atandD _ a b _ _ _ | .atorD _ a b _ _ _ | .atxorD _ a b _ _ _
  | .atminD _ a b _ _ _ | .atmaxD _ a b _ _ _ | .atminuD _ a b _ _ _ | .atmaxuD _ a b _ _ _ =>
    [.g a.val, .g b.val]
  | .casW d a b _ _ _ | .casD d a b _ _ _ => [.g a.val, .g b.val, .g d.val]
  | .fence _ _ _ => []
  | .vsetl _ a => [.g a.val, .cr 1] ++ grantRegs
  | .vsetlf _ a b => [.g a.val, .g b.val] ++ grantRegs
  | .vsetlc _ _ => .cr 1 :: grantRegs
  | .vld _ a k _ _ | .vldo _ a k _ _ | .vst _ a k _ _ | .vsto _ a k _ _ => [.g a.val, .k k.val] ++ vmemRegs
  | .vlds _ a b k _ | .vldc _ a b k _ | .vsts _ a b k _ | .vstc _ a b k _ =>
    [.g a.val, .g b.val, .k k.val] ++ vmemRegs
  | .vldx _ a _ k _ | .vldxo _ a _ k _ | .vstx _ a _ k _ | .vstxo _ a _ k _ | .vatadd _ a _ k _ | .vatmin _ a _ k _
  | .vatmax _ a _ k _ | .vatswap _ a _ k _ | .vatand _ a _ k _ | .vator _ a _ k _ => [.g a.val, .k k.val] ++ vmemRegs
  | .vlde _ a => [.g a.val] ++ .cr 4 :: vecRegs
  | .vldes _ a b => [.g a.val, .g b.val] ++ .cr 4 :: vecRegs
  | .vste e a => [.e e.val, .g a.val] ++ .cr 4 :: vecRegs
  | .vstes e a b => [.e e.val, .g a.val, .g b.val] ++ .cr 4 :: vecRegs
  | .vadd _ _ b k _ | .vfadd _ _ b k _ | .vsub _ _ b k _ | .vfsub _ _ b k _ | .vmul _ _ b k _ | .vfmul _ _ b k _
  | .vmulhs _ _ b k _ | .vmulhu _ _ b k _ | .vmuladd _ _ b k _ | .vfmuladd _ _ b k _ | .vmulsub _ _ b k _
  | .vfmulsub _ _ b k _ | .vmin _ _ b k _ | .vfmin _ _ b k _ | .vmax _ _ b k _ | .vfmax _ _ b k _ | .vminu _ _ b k _
  | .vmaxu _ _ b k _ | .vand _ _ b k _ | .vor _ _ b k _ | .vxor _ _ b k _ | .vandn _ _ b k _ | .vshl _ _ b k _
  | .vshr _ _ b k _ | .vsar _ _ b k _ | .vrol _ _ b k _ | .vaddsat _ _ b k _ | .vsubsat _ _ b k _ | .vquot _ _ b k _
  | .vquotu _ _ b k _ | .vmod _ _ b k _ | .vmodu _ _ b k _ | .vfdiv _ _ b k _ | .vsel _ _ b k _ | .vfsetsign _ _ b k _
  | .vfnegsign _ _ b k _ | .vfxorsign _ _ b k _ | .vlift _ _ b k _ | .vdrop _ _ b k _ | .vpick _ _ b k _
  | .vceq _ _ b k _ | .vcne _ _ b k _ | .vclt _ _ b k _ | .vcle _ _ b k _ | .vcltu _ _ b k _ | .vcleu _ _ b k _
  | .vfceq _ _ b k _ | .vfcne _ _ b k _ | .vfclt _ _ b k _ | .vfcle _ _ b k _ | .vfcun _ _ b k _ =>
    [.k k.val] ++ srcRegs b ++ vecRegs
  | .vfsqrt _ _ k _ | .vfrec _ _ k _ | .vfrsq _ _ k _ | .vfexp _ _ k _ | .vflog _ _ k _ | .vcvt _ _ k _
  | .vsqueeze _ _ k _ | .vspread _ _ k _ | .vconf _ _ k _ | .vrsum _ _ k _ | .vrmin _ _ k _ | .vrmax _ _ k _
  | .vrminu _ _ k _ | .vrmaxu _ _ k _ | .vrand _ _ k _ | .vror _ _ k _ | .vrxor _ _ k _ | .vfrsum _ _ k _
  | .vfrosum _ _ k _ | .vfrmin _ _ k _ | .vfrmax _ _ k _ | .vconfm _ _ k _ => [.k k.val] ++ vecRegs
  | .vmove _ b k _ => [.k k.val] ++ srcRegs b ++ vecRegs
  | .vquant _ _ e k _ | .vdequant _ _ e k _ => [.e e.val, .k k.val] ++ vecRegs
  | .vpack _ _ _ _ k _ => [.k k.val] ++ vecRegs
  | .vbdot _ a b k _ => [.k k.val, .e (a.val % 16), .e (b.val % 16)] ++ vecRegs
  | .vindex _ k _ => [.k k.val] ++ vecRegs
  | .kand _ ka kb | .kor _ ka kb | .kxor _ ka kb | .kandn _ ka kb => [.k ka.val, .k kb.val] ++ vecRegs
  | .kpop _ ks | .kfirst _ ks => [.k ks.val] ++ vecRegs
  | .tld t a | .tst t a => [.g a.val, .cr 2, tcfgReg t]
  | .tlds t a b | .tldc t a b | .tsts t a b | .tstc t a b => [.g a.val, .g b.val, .cr 2, tcfgReg t]
  | .mmul _ _ t | .mmac _ _ t => tcfgReg t :: vecRegs
  | .mmulb _ _ t ea eb | .mmacb _ _ t ea eb => [.e ea.val, .e eb.val, tcfgReg t] ++ vecRegs
  | .tmv t _ | .vmvt _ t => [tcfgReg t]
  | .ocopy a _ _ _ | .ogather a _ _ _ | .vsave a _ _ _ | .vrest a _ _ _ | .vxcore a _ _ _ | .lturn a _ _ _
  | .ltile a _ _ _ | .ltrans a _ _ _ | .lconv a _ _ _ | .lconvo a _ _ _ | .lscale a _ _ _ | .lrepl a _ _ _
  | .alaunch a _ _ _ | .coll a _ _ _ | .mside a _ _ _ => [.g a.val]
  | .sopen _ a _ _ _ => [.g a.val]
  | .binit a b _ _ => [.g a.val, .g b.val]
  | .barrive a _ => [.g a.val]
  | .cwb a b | .cinv a b | .sprefix a b => [.g a.val, .g b.val]
  | .tret => [.cr 0x40, .cr 0x43] ++ farmRegs
  | .moduleReset | .firmwareStart | .hostLinkDown | .hostLinkUp | .raclr | .rwait | .rend
  | .trapEntry _ | .serviceForward _ | .serviceResume _ | .serviceReflect _ | .servicePark _ | .hardPreemption _
  | .farmArbitration _ | .walkWaitEnd _ | .pinWaitEnd _ | .postedSlotFree _ | .engineQueueSlotFree _
  | .farmContextWaitEnd _ | .bwaitRelease _ | .dozeWake _ | .dozeTimeout _ | .streamWaitEnd _ | .launchAcceptance _
  | .horizontalAccess _ | .install _ | .reloc _ | .evict _ | .markp _ | .count _ | .flush _ | .hostSnoop _
  | .clusterPowerGate _ | .doff _ | .trainTimeout _ | .mapComplete _ | .linkLost _ | .drainComplete _ | .drainTimeout _
  | .evacComplete _ | .unmapComplete _ | .lpddrChannelFailure _ | .lpddrPatrolScrub _ | .mctpWriteCapw _
  | .attestationQuote _ | .scloseDrained _ | .rraise _ | .queueAgentPreemptionRequest _
  | .psetWrite _ _ | .lpartWrite _ _ | .dmbaseWrite _ _ | .duppoolWrite _ _ | .farmCompletionArrival _ _
  | .stepOverrun _ _ | .runOverrun _ _ | .launchPerformed _ _ | .refreshSlot _ _ | .engineFragment _ _
  | .engineCommandDone _ _ | .collectiveChunk _ _ | .chunkDeadline _ _ | .collectiveComplete _ _ | .relocCopyDone _ _
  | .relocSwap _ _ | .relocDestWriteFail _ _ | .queueTailSnoop _ _ | .packetFarm _ _ | .packetArrive _ _
  | .waitbarRelease _ _ | .queueEnable _ _ | .queueDisable _ _ | .queueClearError _ _ | .hostHdmAccess _ _ | .don _ _
  | .linksTrained _ _ | .ualinkPortLost _ _ | .connectionAbandoned _ _ | .launchMessage _ _ | .rosterInstall _ _
  | .rosterRetire _ _ | .mctpReadRegister _ _ | .rldl _ _ | .rldlQ _ _ | .rloop _ _ | .rbsetK _ _ | .rbstep _ _
  | .sprefixPerformed _ _
  | .controlRegisterWrite _ _ _ | .farmStart _ _ _ | .runStart _ _ _ | .lockTimeout _ _ _ | .streamInboundFill _ _ _
  | .streamOutboundDrain _ _ _ | .hostBar0Access _ _ _ | .rcopy _ _ _ | .rmaj _ _ _ | .rset _ _ _ | .raccw _ _ _
  | .raccb _ _ _ | .rbtSet _ _ _ | .rbtClr _ _ _ | .rbset _ _ _ | .rseal _ _ _ | .rcheck _ _ _
  | .wireBlockReceive _ _ _ _ _ _
  | .poisonNotice _ _ _ _ | .rnot _ _ _ _ | .rbcst _ _ _ _ | .rmwr _ _ _ _ | .rshl _ _ _ _ | .rshr _ _ _ _
  | .rpcaAdd _ _ _ _ _ | .rpcaSub _ _ _ _ _ => []

/-- The vector, mask, tile and scale registers an instruction names. -/
def namesOf (i : Instr) : List ImgReg :=
  match i with
  | .add _ _ _ | .sub _ _ _ | .and _ _ _ | .or _ _ _ | .xor _ _ _ | .andn _ _ _ | .sll _ _ _ | .srl _ _ _ | .sra _ _ _
  | .rol _ _ _ | .slt _ _ _ | .sltu _ _ _ | .min _ _ _ | .max _ _ _ | .minu _ _ _ | .maxu _ _ _ | .seq _ _ _
  | .sne _ _ _ | .mul _ _ _ | .mulhs _ _ _ | .mulhu _ _ _ | .mulhm _ _ _ | .quot _ _ _ | .quotu _ _ _ | .mod _ _ _
  | .modu _ _ _ | .sadv _ _ _ | .alock _ _ _ | .oinv _ _ _ | .sstart _ _ _ | .addi _ _ _ | .andi _ _ _ | .ori _ _ _
  | .xori _ _ _ | .slti _ _ _ | .sltiu _ _ _ | .ldb _ _ _ | .ldh _ _ _ | .ldw _ _ _ | .ldd _ _ _ | .ldbu _ _ _
  | .ldhu _ _ _ | .ldwu _ _ _ | .slli _ _ _ | .srli _ _ _ | .srai _ _ _ | .roli _ _ _ | .stb _ _ _ | .sth _ _ _
  | .stw _ _ _ | .std _ _ _ | .beq _ _ _ | .bne _ _ _ | .blt _ _ _ | .bge _ _ _ | .jalr _ _ _ | .ldaB _ _ _ | .ldaH _ _ _ | .ldaW _ _ _ | .ldaD _ _ _ | .bwait _ _ _ | .stlB _ _ _ | .stlH _ _ _
  | .stlW _ _ _ | .stlD _ _ _ | .bfail _ _ _ | .icinv _ _ _ | .fence _ _ _ | .vsetlf _ _ _ => []
  | .crw _ _ r | .crs _ _ r | .crc _ _ r => if 0x30 ≤ r.toNat ∧ r.toNat ≤ 0x37 then [.t (r.toNat - 0x30)] else []
  | .clz _ _ | .ctz _ _ | .popc _ _ | .rev8 _ _ | .doze _ _ | .sclose _ _ | .spark _ _ | .preq _ _ | .lui _ _
  | .lhi _ _ | .lmid _ _ | .crr _ _ | .vsetl _ _ | .vsetlc _ _ | .barrive _ _ | .cwb _ _ | .cinv _ _ | .sprefix _ _ =>
    []
  | .fshr _ _ _ _ | .bfx _ _ _ _ | .bfxu _ _ _ _ | .ocopy _ _ _ _ | .ogather _ _ _ _ | .vsave _ _ _ _ | .vrest _ _ _ _
  | .vxcore _ _ _ _ | .lturn _ _ _ _ | .ltile _ _ _ _ | .ltrans _ _ _ _ | .lconv _ _ _ _ | .lconvo _ _ _ _
  | .lscale _ _ _ _ | .lrepl _ _ _ _ | .alaunch _ _ _ _ | .coll _ _ _ _ | .mside _ _ _ _ | .binit _ _ _ _
  | .btest _ _ _ _ | .cpoll _ _ _ _ | .farm _ _ _ _ => []
  | .jal _ | .svc _ | .sret _ | .wake _ | .aunlock _ => []
  | .brk | .afence | .fbar | .tret => []
  | .atswapW _ _ _ _ _ _ | .ataddW _ _ _ _ _ _ | .atandW _ _ _ _ _ _ | .atorW _ _ _ _ _ _ | .atxorW _ _ _ _ _ _
  | .atminW _ _ _ _ _ _ | .atmaxW _ _ _ _ _ _ | .atminuW _ _ _ _ _ _ | .atmaxuW _ _ _ _ _ _ | .casW _ _ _ _ _ _
  | .atswapD _ _ _ _ _ _ | .ataddD _ _ _ _ _ _ | .atandD _ _ _ _ _ _ | .atorD _ _ _ _ _ _ | .atxorD _ _ _ _ _ _
  | .atminD _ _ _ _ _ _ | .atmaxD _ _ _ _ _ _ | .atminuD _ _ _ _ _ _ | .atmaxuD _ _ _ _ _ _ | .casD _ _ _ _ _ _ => []
  | .vld v _ k _ _ | .vldo v _ k _ _ | .vst v _ k _ _ | .vsto v _ k _ _ => [.v v.val, .k k.val]
  | .vlds v _ _ k _ | .vldc v _ _ k _ | .vsts v _ _ k _ | .vstc v _ _ k _ => [.v v.val, .k k.val]
  | .vldx v _ x k _ | .vldxo v _ x k _ | .vstx v _ x k _ | .vstxo v _ x k _ | .vatadd v _ x k _ | .vatmin v _ x k _
  | .vatmax v _ x k _ | .vatswap v _ x k _ | .vatand v _ x k _ | .vator v _ x k _ => [.v v.val, .v x.val, .k k.val]
  | .vlde e _ | .vste e _ => [.e e.val]
  | .vldes e _ _ | .vstes e _ _ => [.e e.val]
  | .vadd v a b k _ | .vfadd v a b k _ | .vsub v a b k _ | .vfsub v a b k _ | .vmul v a b k _ | .vfmul v a b k _
  | .vmulhs v a b k _ | .vmulhu v a b k _ | .vmuladd v a b k _ | .vfmuladd v a b k _ | .vmulsub v a b k _
  | .vfmulsub v a b k _ | .vmin v a b k _ | .vfmin v a b k _ | .vmax v a b k _ | .vfmax v a b k _ | .vminu v a b k _
  | .vmaxu v a b k _ | .vand v a b k _ | .vor v a b k _ | .vxor v a b k _ | .vandn v a b k _ | .vshl v a b k _
  | .vshr v a b k _ | .vsar v a b k _ | .vrol v a b k _ | .vaddsat v a b k _ | .vsubsat v a b k _ | .vquot v a b k _
  | .vquotu v a b k _ | .vmod v a b k _ | .vmodu v a b k _ | .vfdiv v a b k _ | .vsel v a b k _ | .vfsetsign v a b k _
  | .vfnegsign v a b k _ | .vfxorsign v a b k _ | .vlift v a b k _ | .vdrop v a b k _ | .vpick v a b k _ =>
    [.v v.val, .v a.val, .k k.val] ++ srcTouched b
  | .vfsqrt v a k _ | .vfrec v a k _ | .vfrsq v a k _ | .vfexp v a k _ | .vflog v a k _ | .vcvt v a k _
  | .vsqueeze v a k _ | .vspread v a k _ | .vconf v a k _ | .vrsum v a k _ | .vrmin v a k _ | .vrmax v a k _
  | .vrminu v a k _ | .vrmaxu v a k _ | .vrand v a k _ | .vror v a k _ | .vrxor v a k _ | .vfrsum v a k _
  | .vfrosum v a k _ | .vfrmin v a k _ | .vfrmax v a k _ => [.v v.val, .v a.val, .k k.val]
  | .vceq kd a b k _ | .vcne kd a b k _ | .vclt kd a b k _ | .vcle kd a b k _ | .vcltu kd a b k _ | .vcleu kd a b k _
  | .vfceq kd a b k _ | .vfcne kd a b k _ | .vfclt kd a b k _ | .vfcle kd a b k _ | .vfcun kd a b k _ =>
    [.k kd.val, .v a.val, .k k.val] ++ srcTouched b
  | .vmove v b k _ => [.v v.val, .k k.val] ++ srcTouched b
  | .vquant v a e k _ | .vdequant v a e k _ => [.v v.val, .v a.val, .e e.val, .k k.val]
  | .vpack v a _ e k _ => [.v v.val, .v a.val, .e e.val, .k k.val]
  | .vbdot v a b k _ => [.v v.val, .v a.val, .v b.val, .e (a.val % 16), .e (b.val % 16), .k k.val]
  | .vindex v k _ => [.v v.val, .k k.val]
  | .vconfm kd a k _ => [.k kd.val, .v a.val, .k k.val]
  | .kand kd ka kb | .kor kd ka kb | .kxor kd ka kb | .kandn kd ka kb => [.k kd.val, .k ka.val, .k kb.val]
  | .kpop _ ks | .kfirst _ ks => [.k ks.val]
  | .tld t _ | .tst t _ => [.t t.val]
  | .tlds t _ _ | .tldc t _ _ | .tsts t _ _ | .tstc t _ _ => [.t t.val]
  | .mmul v a t | .mmac v a t => [.v v.val, .v a.val, .t t.val]
  | .mmulb v a t ea eb | .mmacb v a t ea eb => [.v v.val, .v a.val, .t t.val, .e ea.val, .e eb.val]
  | .tmv t a => [.t t.val, .v a.val]
  | .vmvt v t => [.v v.val, .t t.val]
  | .sopen _ _ _ _ _ => []
  | .moduleReset | .firmwareStart | .hostLinkDown | .hostLinkUp | .raclr | .rwait | .rend
  | .trapEntry _ | .serviceForward _ | .serviceResume _ | .serviceReflect _ | .servicePark _ | .hardPreemption _
  | .farmArbitration _ | .walkWaitEnd _ | .pinWaitEnd _ | .postedSlotFree _ | .engineQueueSlotFree _
  | .farmContextWaitEnd _ | .bwaitRelease _ | .dozeWake _ | .dozeTimeout _ | .streamWaitEnd _ | .launchAcceptance _
  | .horizontalAccess _ | .install _ | .reloc _ | .evict _ | .markp _ | .count _ | .flush _ | .hostSnoop _
  | .clusterPowerGate _ | .doff _ | .trainTimeout _ | .mapComplete _ | .linkLost _ | .drainComplete _ | .drainTimeout _
  | .evacComplete _ | .unmapComplete _ | .lpddrChannelFailure _ | .lpddrPatrolScrub _ | .mctpWriteCapw _
  | .attestationQuote _ | .scloseDrained _ | .rraise _ | .queueAgentPreemptionRequest _
  | .psetWrite _ _ | .lpartWrite _ _ | .dmbaseWrite _ _ | .duppoolWrite _ _ | .farmCompletionArrival _ _
  | .stepOverrun _ _ | .runOverrun _ _ | .launchPerformed _ _ | .refreshSlot _ _ | .engineFragment _ _
  | .engineCommandDone _ _ | .collectiveChunk _ _ | .chunkDeadline _ _ | .collectiveComplete _ _ | .relocCopyDone _ _
  | .relocSwap _ _ | .relocDestWriteFail _ _ | .queueTailSnoop _ _ | .packetFarm _ _ | .packetArrive _ _
  | .waitbarRelease _ _ | .queueEnable _ _ | .queueDisable _ _ | .queueClearError _ _ | .hostHdmAccess _ _ | .don _ _
  | .linksTrained _ _ | .ualinkPortLost _ _ | .connectionAbandoned _ _ | .launchMessage _ _ | .rosterInstall _ _
  | .rosterRetire _ _ | .mctpReadRegister _ _ | .rldl _ _ | .rldlQ _ _ | .rloop _ _ | .rbsetK _ _ | .rbstep _ _
  | .sprefixPerformed _ _
  | .controlRegisterWrite _ _ _ | .farmStart _ _ _ | .runStart _ _ _ | .lockTimeout _ _ _ | .streamInboundFill _ _ _
  | .streamOutboundDrain _ _ _ | .hostBar0Access _ _ _ | .rcopy _ _ _ | .rmaj _ _ _ | .rset _ _ _ | .raccw _ _ _
  | .raccb _ _ _ | .rbtSet _ _ _ | .rbtClr _ _ _ | .rbset _ _ _ | .rseal _ _ _ | .rcheck _ _ _
  | .wireBlockReceive _ _ _ _ _ _
  | .poisonNotice _ _ _ _ | .rnot _ _ _ _ | .rbcst _ _ _ _ | .rmwr _ _ _ _ | .rshl _ _ _ _ | .rshr _ _ _ _
  | .rpcaAdd _ _ _ _ _ | .rpcaSub _ _ _ _ _ => []

/-- The stream register whose COUNT an instruction reads: a stream-trimmed access that of its ring's stream, sadv that of the stream it
names (R202, R253). -/
def State.streamRead (s : State) (i : Instr) : List RegName :=
  let x := s.me
  let ring (a : GReg) : List RegName :=
    if x.space = 1 then
      match s.myCore.streamAt (x.getG a + BitVec.ofNat 64 (x.vstart.toNat * fmtBits x.df / 8)).toNat with
      | some n => [.cr (0x20 + n)]
      | none => []
    else []
  match i with
  | .vld _ a _ _ true | .vldo _ a _ _ true | .vst _ a _ _ true | .vsto _ a _ _ true => ring a
  | .sadv _ a _ => if (x.getG a).toNat < 8 then [.cr (0x20 + (x.getG a).toNat)] else []
  | _ => []

/-- Where an instruction transfers control to, if it does. -/
def Strand.goesTo (x : Strand) (i : Instr) : Option Word :=
  let branch (c : Bool) (imm : BitVec 15) : Option Word := if c then some (x.target (simm imm)) else none
  match i with
  | .beq a b imm => branch (x.getG a == x.getG b) imm
  | .bne a b imm => branch (x.getG a != x.getG b) imm
  | .blt a b imm => branch ((x.getG a).slt (x.getG b)) imm
  | .bge a b imm => branch ((x.getG b).sle (x.getG a)) imm
  | .jal imm => some (x.target (imm.signExtend 64))
  | .jalr _ a imm => some (x.getG a + simm imm)
  | .sret a => some (x.getG a)
  | .tret => some x.tpc
  | _ => none

/-- An instruction ends the strand's membership of a farm while it holds a strip: it goes to address 0, or clears vfarm.FM (R30,
R31). -/
def State.leavesStrip (s : State) (i : Instr) : Bool :=
  let x := s.me
  x.inFarm && x.strip && (s.myDie.farm x.fctx).isSome && match i with
    | .crw _ a _ => !(x.getG a).getLsbD 63
    | .crs _ _ _ => false
    | .crc _ a _ => (x.getG a).getLsbD 63
    | _ => x.goesTo i == some 0

/-- A vector instruction begins at or behind its end, so it reads no operand element (R191, R205, R241). -/
def Strand.pastEnd (x : Strand) (i : Instr) : Bool :=
  match i with
  | .mmulb _ _ t _ _ | .mmacb _ _ t _ _ => decide (x.vl.toNat / tileRows (x.tile t.val) ≤ x.vstart.toNat)
  | .vste _ _ | .vstes _ _ _ => decide (x.scaleCount ≤ x.vstart.toNat)
  | _ => decide (x.vl.toNat ≤ x.vstart.toNat)

/-- A register that an instruction of this kind may read and this one does not: mask and scale registers where it reads no element
(R191), and the scale registers of an integer block dot (R227); vl, vbase and vsend where no farm is asked for a strip, and vl and
vbase where the context holds none (R26, R414); vfarm where control does not go to address 0 (R30), and vl, vbase and vsend where no
farm is left with a strip (R31). -/
def State.unread (s : State) (i : Instr) (r : RegName) : Bool :=
  let x := s.me
  let transfer : Bool := match r with
    | .cr 8 => x.goesTo i != some 0
    | .cr 0 | .cr 3 | .cr 7 => !s.leavesStrip i
    | _ => false
  let grant : Bool := match r with
    | .cr 0 | .cr 3 => !x.inFarm || (s.myDie.farm x.fctx).isNone
    | .cr 7 => !x.inFarm
    | _ => false
  match i, r with
  | .vbdot _ _ _ _ _, .e _ => isInt x.af || x.pastEnd i
  | _, .k _ | _, .e _ => x.pastEnd i
  | .vsetl _ _, _ | .vsetlf _ _ _, _ | .vsetlc _ _, _ => grant
  | .beq _ _ _, _ | .bne _ _ _, _ | .blt _ _ _, _ | .bge _ _ _, _ | .jal _, _ | .jalr _ _ _, _ | .sret _, _ | .tret, _ => transfer
  | .crw _ _ c, .cr n | .crs _ _ c, .cr n | .crc _ _ c, .cr n => c = 8 && n != 8 && !s.leavesStrip i
  | _, _ => false

/-- An erroneous register of the strand whose turn it is that an instruction reads, at its issue; g0 and k0 hold no bits (R22). -/
def State.badRead (s : State) (i : Instr) : Option RegName :=
  if s.me.held then none
  else (readsOf i ++ s.streamRead i).find? fun r => s.me.badRegs.contains r && r != .g 0 && r != .k 0 && !s.unread i r

/-- A control register of a strand that holds other bits in the fields an instruction reads. -/
def Strand.flipCr (x : Strand) (n : Nat) : Strand :=
  match n with
  | 0 => { x with vl := x.vl ^^^ 0x1FFFF#64 }
  | 1 => { x with vtype := x.vtype ^^^ 0x3FFFF#64 }
  | 2 => { x with vstart := x.vstart ^^^ 0x1FFFF#64 }
  | 3 => { x with vbase := ~~~ x.vbase }
  | 4 => { x with vspace := x.vspace ^^^ 3#64 }
  | 7 => { x with vsend := ~~~ x.vsend }
  | 8 => { x with vfarm := x.vfarm ^^^ 0x800000000000003F#64 }
  | _ => if 0x30 ≤ n ∧ n ≤ 0x37 then { x with tcfg := x.tcfg.put 0 (n - 0x30) (x.tcfg.get 0 (n - 0x30) ^^^ 0xF01FFFF#64) } else x

/-- A register of a strand that holds other bits: every bit of a general, mask or scale register turned over, and the fields of a
control register. -/
def Strand.flipReg (x : Strand) (r : RegName) : Strand :=
  match r with
  | .g n => { x with g := x.g.put 0 n (~~~ x.g.get 0 n) }
  | .k n =>
    let new := (List.range 65536).filterMap fun i => if x.k.get false (65536 * n + i) then none else some (65536 * n + i, true)
    { x with k := (x.k.filter fun p => p.1 / 65536 < n) ++ new ++ x.k.filter fun p => n < p.1 / 65536 }
  | .e n =>
    let new := (List.range 4096).filterMap fun i =>
      let b := ~~~ x.e.get 0 (4096 * n + i)
      if b = 0 then none else some (4096 * n + i, b)
    { x with e := (x.e.filter fun p => p.1 / 4096 < n) ++ new ++ x.e.filter fun p => n < p.1 / 4096 }
  | .cr n => x.flipCr n

/-- The same of the strand whose turn it is, a stream's COUNT among its registers; lpart and vcap decide no trap. -/
def State.flipReg (s : State) (r : RegName) : State :=
  match r with
  | .cr n =>
    if 0x20 ≤ n ∧ n ≤ 0x27 then
      s.updMyCore fun c =>
        let t := c.streams.get Stream.closed (n - 0x20)
        { c with streams := c.streams.put Stream.closed (n - 0x20) { t with count := t.count ^^^ 0xFFFFFFFF } }
    else s.upd fun x => x.flipReg r
  | _ => s.upd fun x => x.flipReg r

/-- The instruction takes a cause that comes before the consumption of register `r` in R326's order: one that is decided
without reading operands (0x03, 0x02, 0x0B, 0x04; R153), or a trap that is the same whatever bits the register holds (log 68). A
service record of the trap, which repeats g4 and g5 (R332), is no part of it: the strand's own handler stands for both. -/
def State.earlyTrap (s : State) (r : RegName) (o : State → Host.Outcome State Fault Refusal) : Bool :=
  let s := s.updMyCore fun c => { c with svcmode := 0 }
  match o s with
  | .next t =>
    ([2, 3, 4, 0xB].any fun c => decide (t = commit s (s.trap c 0)))
      || match o (s.flipReg r) with
        | .next u => !t.me.held && t.me.instret == s.me.instret && decide (u.flipReg r = t)
        | _ => false
  | _ => false

/-- The registers that a vsetl's hand-over writes, where the lane groups of the strand change (R26). -/
def State.handedRegs (s : State) : List ImgReg :=
  if s.myCore.heldAfter (s.cur % 2) = s.myCore.own (s.cur % 2) then []
  else (List.range 64).map ImgReg.v ++ (List.range 8).map ImgReg.k

/-- The instruction names a register that a vrest of the strand has still to restore, or a vsetl hands one over (R249). -/
def State.restWaits (s : State) (i : Instr) : Bool :=
  s.restorePending s.cur (match i with
    | .vsetl _ _ | .vsetlf _ _ _ | .vsetlc _ _ => s.handedRegs
    | _ => namesOf i)

end Sys2Proof.Machine
end

