-- ==== Sys2Proof/Machine/Step.lean ====
section
/-! DEFINITION. One step of the module: the agent whose turn it is moves, then time passes (log 1). -/

namespace Sys2Proof.Machine

/-- Time passes with a step that goes on (R5), the ACT writes it has performed take effect (R334), and full caches have written
lines back (R1). -/
def pass (o : Host.Outcome State Fault Refusal) : Host.Outcome State Fault Refusal :=
  match o with
  | .next t => .next { t.serviceAll.fit.endTurn with now := t.now + Config.stepClocks t.ticks, ticks := t.ticks + 1 }
  | .fault r => .fault r
  | .refused r => .refused r

/-- The effect of an instruction word: the trap R152 gives it, or its instruction, unless an error in a register it reads is
consumed (R384) or a vrest of the strand has still to write one it names (R249). -/
noncomputable def execWord (w : Code) (s : State) : Host.Outcome State Fault Refusal :=
  match decode w with
  | .ok i => match s.badRead i with
    | some r => if s.earlyTrap r (exec i) then exec i s else run (fun t => t.consumeReg r) s
    | none => if s.restWaits i then run State.hold s else exec i s
  | .error .illegal => run (fun t => t.trap 1 0) s
  | .error .reserved => run (fun t => t.trap 2 0) s

/-- The turn of strand `s.cur` (R17): an IDLE strand does nothing, a strand in SVCWAIT looks at its service record (R334), a
decided trap is entered (R249), a waiting instruction's effect runs again, and otherwise the next instruction is fetched. -/
noncomputable def strandTurn (s : State) : Host.Outcome State Fault Refusal :=
  match s.me.st with
  | .idle => .next s
  | .svcwait => run (fun s => s.serviceAct s.cur) s
  | _ =>
    match s.me.pend with
    | some t => run (fun u => u.enterTrap u.cur t) s
    | none =>
      if s.me.held then execWord s.me.iw s
      else match s.fetch with
        | .word t w => execWord w t
        | .trapped t => .next (commit s t)
        | .waits t => .next t

/-- The turn of the run in mitten `s.curRun`: the sequencer's own next step for it (R135), its next micro-op (R127), or run fault 0x0B behind the last (R132). -/
noncomputable def runTurn (s : State) : Host.Outcome State Fault Refusal :=
  match s.runAt s.curRun with
  | none => .next s
  | some (l, r) =>
    if r.todo ≠ [] then choreStep s
    else match l.mprog[r.pc]? with
    | none => passedEnd s.curRun s
    | some w => match decodeMicro w with
      | some i => exec i s
      | none => .next s

/-- An agent's turn at `s` that waits for rows is put off; one that is undone leaves `s` (R107, R134, R140). -/
def putOff (t : Turn) (s : State) (o : Host.Outcome State Fault Refusal) : Host.Outcome State Fault Refusal :=
  match o with
  | .next u =>
    if u.noted = [] then .next u
    else
      let v := if u.undo then s.startWaits u.noted else u
      .next { v with waiting := v.waiting ++ [(t, u.noted)], noted := [], undo := false }
  | x => x

/-- The rows that a strand's turn at `s` waits for are the strand's: those of a held write of the register space, and those of
a turn that is undone, which leaves `s` (R107, R348). -/
def keepNoted (s : State) (o : Host.Outcome State Fault Refusal) : Host.Outcome State Fault Refusal :=
  match o with
  | .next u =>
    if u.noted = [] then .next u
    else
      let v := if u.undo then s.startWaits u.noted else u
      .next { v.upd fun x => if u.undo || x.held then { x with rowWait := u.noted } else x with noted := [], undo := false }
  | x => x

/-- What moves when the agenda names nothing: the boot ROM after reset (R406), the security block once an image is verified
(R18), and from then on strand `s.cur`. -/
noncomputable def idleTurn (s : State) : Host.Outcome State Fault Refusal :=
  match s.boot with
  | .reset => run State.romBoot s
  | .verified _ => execFirmwareStart s
  | _ => keepNoted s (strandTurn (s.issuing (some (.strand s.cur none))))

/-- The agenda may name the turn: a launch message that waits is no new one. -/
def Turn.given (t : Turn) : Bool :=
  match t with
  | .message _ _ => false
  | _ => true

/-- The agent of a turn moves, and time passes. -/
noncomputable def takeTurn (t : Turn) (a : State) : Host.Outcome State Fault Refusal :=
  let s := a.issuing (a.turnIssuer t)
  match t with
  | .strand n => if n < 512 then pass (keepNoted { s with cur := n } (strandTurn { s with cur := n })) else .fault .noSuchTurn
  | .run m => if m < 20480 then pass (putOff t s (runTurn { s with curRun := m })) else .fault .noSuchTurn
  | .ack g c n => if g < 8 then pass (putOff t s (run (fun u => u.ackBlock g c n) s)) else .fault .noSuchTurn
  | .event i => if (encodeNat i).isNone then pass (putOff t s (exec i s)) else .fault .noSuchTurn
  | .flaw f => if f.ok then pass (putOff t s (run (fun u => u.meetFlaw f) s)) else .fault .noSuchTurn
  | .refill a n => pass (putOff t s (run (fun u => u.refill a n) s))
  | .message x bytes => pass (putOff t s (run (fun u => u.handleMessage x bytes) s))

/-- The first turn put off whose rows no longer wait, by its place. -/
def State.freed (s : State) : Option Nat := s.waiting.findIdx? fun w => w.2.all fun a => !s.rowWaits a none

/-- One step: a turn put off whose rows are free, else the head of the agenda, or what moves when it is empty. -/
noncomputable def step (s : State) : Host.Outcome State Fault Refusal :=
  match s.freed with
  | some i => match s.waiting[i]? with
    | some w => takeTurn w.1 { s with waiting := s.waiting.eraseIdx i }
    | none => .fault .noSuchTurn
  | none => match s.agenda with
    | [] => pass (idleTurn s)
    | t :: r => if t.given then takeTurn t { s with agenda := r } else .fault .noSuchTurn

/-! ## A word placed where the next step fetches it (log 23) -/

/-- Bytes put at an address. -/
def putBytes (m : Sparse Byte) (a : Nat) (bs : List Byte) : Sparse Byte :=
  match bs with
  | [] => m
  | b :: r => putBytes (m.put memDefault a b) (a + 1) r

/-- Where the placed program's object table lies: the start of LPDDR-6 (R296). -/
def loadBase : Nat := 2199023255552

/-- Record 1 of that table: KIND 11, U8, rank 1, R W X M, 4,096 elements from the next page (R299). -/
def loadRecord : List Byte :=
  ofWords [BitVec.ofNat 64 (2 ^ 63 + 3 * 2 ^ 22 + 2 ^ 14 + 0xA * 2 ^ 8 + 0x17), 4096, 0, 0, 0, 0,
    BitVec.ofNat 64 (loadBase + 4096), 0]

/-- Strand 0 running in supervisor mode at the first byte of object 1 of that table. -/
def Strand.loaded (x : Strand) : Strand :=
  { x.unhold with
    st := .run
    pc := 0x10000000000
    sstat := 7
    pend := none
    ortb := BitVec.ofNat 64 (4 * 2 ^ 56 + loadBase) }

/-- A strand's word: stored where strand 0 fetches next. -/
def State.withStrandWord (s : State) (w : Nat) : State :=
  let t := s.updStrand 0 Strand.loaded
  let gone (a : Nat) : Bool := loadBase ≤ a && a < loadBase + 8192
  { t.updCore 0 fun c => { c with icache := c.icache.filter fun p => !gone (64 * p.1) } with
    cur := 0
    agenda := []
    waiting := []
    boot := .started
    mem := putBytes (putBytes t.mem (loadBase + 64) loadRecord) (loadBase + 4096) (toBytes 4 w)
    l2 := t.l2.filter fun p => !gone p.1
    recOld := t.recOld.filter fun p => !gone p.1
    marks := [] }

/-- A run of one micro-op in mitten 0 of stack 0, with one RW operand of 1,008 rows. -/
def loadRun : Run where
  launch := 0
  index := 0
  mitten := 0
  shadow := none
  ops := [⟨0, 3, ⟨0, 0⟩, 0, 33030144, 0, 1008⟩]
  stage := .running
  pc := 0
  b := []
  l := []
  acc := []
  rows := []
  stepNs := 0
  count := 0
  written := []
  whole := []
  sent := 0
  midStep := false
  broken := false
  twinAcc := []
  twinRows := []
  todo := []
  ending := false
  mismatch := false

/-- A row micro-op's word: the next word of the microprogram of a running run. -/
def State.withMicroWord (s : State) (w : Nat) : State :=
  let l := newLaunch 0 0 (s.agentOf 0) .die false false [0, 0, 0, 0, 0, 0, 0, 0] 0 [] [] []
  let u := s.updDie 0 fun d =>
    { d with launches := [{ l with accepted := true, mprog := [BitVec.ofNat 32 w], runs := [loadRun] }] }
  { u with agenda := [.run 0], waiting := [], boot := .started }

/-- The state whose next step fetches and runs the instruction of the opcode table whose bits are `w`: a strand's word, or a
row micro-op's where no strand word has these bits. -/
noncomputable def State.withFetchWord (s : State) (_nbits w : Nat) : State :=
  match decodeNat w with
  | .ok _ => s.withStrandWord w
  | .error _ => match decodeMicroNat w with
    | some _ => s.withMicroWord w
    | none => s.withStrandWord w

end Sys2Proof.Machine
end

