-- ==== Sys2Proof/Safety.lean ====
section
/-! DEFINITION. The terms statements are made in: states between two steps, what part of the state a step may change, and
the shapes in which an instruction completes. -/

namespace Sys2Proof.Machine

/-- Between two steps: no store of a step in progress, and memory in its canonical form. -/
abbrev State.Settled (s : State) : Prop := s.log = [] ∧ Memory.wf s.mem = true

/-- A step that goes on. -/
def State.Goes (s : State) : Prop := ∃ t, step s = .next t

/-- No part of the state but the strands differs, and no strand but `n`. -/
def State.OnlyStrand (n : Nat) (s t : State) : Prop :=
  t = { s with strands := t.strands } ∧ ∀ m, m ≠ n → t.strand m = s.strand m

/-- Every byte of memory reads as before. -/
def State.MemoryKept (s t : State) : Prop := ∀ a, t.readByte a = s.readByte a

/-- Every byte of memory outside [a, a + n) reads as before. -/
def State.MemoryKeptBut (a n : Nat) (s t : State) : Prop := ∀ k, k < a ∨ a + n ≤ k → t.readByte k = s.readByte k

/-- General register `d` holds `w` where R22 lets it be written, and every other one what it held. -/
def Strand.WritesG (x y : Strand) (d : GReg) (w : Word) : Prop :=
  ∀ r, y.getG r = if r = 0 then 0 else if r = d then w else x.getG r

/-- The strand goes on behind its instruction, one more retired, and beside general registers nothing of it differs. -/
def Strand.Advances (x y : Strand) : Prop :=
  y = { x.unhold with g := y.g, pc := x.pc + 4, instret := x.instret + 1, st := .run }

/-- Instruction `i` completes at `s`: it writes `w` to register `d` and goes on to the next instruction, and nothing else of
the machine changes. -/
def State.Writes (s : State) (i : Instr) (d : GReg) (w : Word) : Prop :=
  ∃ t, exec i s = .next t ∧ s.me.WritesG t.me d w ∧ s.me.Advances t.me ∧ s.OnlyStrand s.cur t ∧ s.MemoryKept t

/-- Instruction `i` completes at `s` with the strand whose turn it is as `x`, and nothing else of the machine changes. -/
def State.Becomes (s : State) (i : Instr) (x : Strand) : Prop :=
  ∃ t, exec i s = .next t ∧ t.me = x ∧ s.OnlyStrand s.cur t ∧ s.MemoryKept t

/-! ## Traps -/

/-- A trap of cause `c` by the strand whose turn it is goes to its own handler at once: service mode does not forward it (R19),
it is no double trap (R329), and no vsave or vrest still uses the strand's registers (R249). -/
abbrev State.OwnTrap (s : State) (c : Nat) : Prop :=
  s.forwards s.cur c = false ∧ (s.me.supervisor && s.me.tm) = false ∧ s.saving s.cur = false

/-- Trap entry as R328 states it: the mode and TM saved, the handler's mode and TM set, the trap registers written, the pc at
the handler; every other register of the strand stays. -/
def Strand.Entered (x y : Strand) (c : Nat) (tval tpc : Word) : Prop :=
  y = { x.unhold with
    sstat := y.sstat, tcause := BitVec.ofNat 64 c, tval := tval, tpc := tpc, tinst := x.iw.setWidth 64
    pc := x.tvec &&& 0xFFFFFFFFFFFFFFFC#64, preq := if c = 0x0B then false else x.preq
    st := .run, pend := none, svcRec := none }
  ∧ wbits y.sstat 0 1 = 1 ∧ wbits y.sstat 1 1 = wbits x.sstat 0 1
  ∧ wbits y.sstat 2 1 = 1 ∧ wbits y.sstat 3 1 = wbits x.sstat 2 1
  ∧ wbits y.sstat 4 3 = 0 ∧ (c ≠ 0x0B → wbits y.sstat 7 1 = wbits x.sstat 7 1) ∧ wbits y.sstat 8 56 = 0

/-- Instruction `i` traps at `s` with cause `c` at its own address, and nothing but its strand changes. -/
def State.Traps (s : State) (i : Instr) (c : Nat) (tval : Word) : Prop :=
  ∃ t, exec i s = .next t ∧ s.me.Entered t.me c tval s.me.pc ∧ s.OnlyStrand s.cur t ∧ s.MemoryKept t

/-- The word `w` is no instruction: run at `s`, it traps with cause `c` at its own address (R152). -/
def State.WordTraps (s : State) (w c : Nat) : Prop :=
  ∃ t, execWord (BitVec.ofNat 32 w) s = .next t ∧ s.me.Entered t.me c 0 s.me.pc ∧ s.OnlyStrand s.cur t ∧ s.MemoryKept t

/-! ## Accesses -/

/-- A piece of an access reaches the byte at `k`. -/
def Piece.reaches (p : Piece) (k : Nat) : Bool :=
  p.place.addrs.contains k

/-- No channel of the second tier, expander link or host link has failed, so no write is dropped (R357, R363, R378). -/
def State.Healthy (s : State) : Prop :=
  s.badChannels = [] ∧ s.hostUp = true ∧ ∀ g, (s.die g).port.linkLost = false

/-- Byte `k` is none of those the fill of a ZERO sub-tile writes: its location's, and its residency entry's (R311). -/
def Alloc.keeps (a : Alloc) (k : Nat) : Prop :=
  (k < a.entry ∨ a.entry + 16 ≤ k) ∧ ∀ p ∈ a.record.ranges a.loc, k < p.1 ∨ p.1 + p.2 ≤ k

/-- Pieces of the whole bytes [q, q + n), each where its byte is held, with the byte of a move's destination beside it, cached or
not (R317, R344). -/
def BytesAt (q n : Nat) (ps : List Piece) : Prop :=
  ps.map (fun p => p.place.addr) = (List.range n).map (fun i => some (q + i))
    ∧ ∀ p ∈ ps, p.shift = 0 ∧ p.width = 8 ∧
      ∀ a m, p.place = .mem a (some m) ∨ p.place = .host a (some m) ∨ p.place = .device a (some m) → m < q ∨ q + n ≤ m

/-- An arrival that brings `n` bytes, and a failure of cause `c` with them (R104). -/
def Bar.arrival (n : Nat) (b : Bar) : Bar := { b with arrived := (b.arrived + 1) % 2 ^ 32, bytes := (b.bytes + n) % 2 ^ 64 }
def Bar.failure (c n : Nat) (b : Bar) : Bar :=
  { b with failed := true, cause := if b.failed then b.cause else c, bytes := (b.bytes + n) % 2 ^ 64 }

/-- The barrier word that `o` names for an agent becomes what `f` says, a ZERO sub-tile filled first (R104, R311), and no byte
that neither it nor the fill writes changes; 0 names none, and then no byte does. -/
def State.BarrierGets (s t : State) (ag : Agent) (holds : List Nat) (o : Word) (f : Bar → Bar) : Prop :=
  (o = 0 → s.MemoryKept t)
    ∧ ∀ h ps q, o ≠ 0 → s.Healthy → s.walkBarrier ag holds o = .ok h → h.reach = .bytes ps → BytesAt q 64 ps →
        (∀ i, i < 64 → q + i < scratchBase → s.region (q + i) ≠ none) →
        parseBar (t.readNum q 64) = f (parseBar ((s.allocateAll h.allocs).readNum q 64))
          ∧ ∀ k, (∀ p ∈ ps, p.reaches k = false) → (∀ al ∈ h.allocs, al.keeps k) → t.readByte k = s.readByte k

/-- A failed check made for `ag` has left its fault record in the fault queue of the agent's die, or one more lost (R320-R322);
no other byte of memory differs. -/
def State.Records (s t : State) (ag : Agent) (f : Fail) (addr : Word) : Prop :=
  let d := s.die ag.die
  let e := t.die ag.die
  let a := wbits d.fqbase 18 30 * 262144 + 64 * (d.fqtail.toNat % 4096)
  let w := BitVec.ofNat 64 (t.readNum a 8)
  e.fqseq = d.fqseq + 1 ∧
    (if (d.fqtail - d.fqhead).toNat = 4096 then
      e.fqlost = satAdd d.fqlost 1 ∧ e.fqovf = true ∧ e.fqtail = d.fqtail ∧ s.MemoryKept t
    else
      e.fqtail = d.fqtail + 1 ∧ s.MemoryKeptBut a 64 t
        ∧ ((∀ i, i < 64 → s.region (a + i) ≠ none) → wbits w 0 8 = f.cause ∧ wbits w 8 8 = f.state % 256 ∧ wbits w 16 8 = f.flags
          ∧ wbits w 24 8 = ag.source ∧ wbits w 32 8 = ag.unit % 256 ∧ wbits w 48 12 = ag.asid % 4096
          ∧ t.readNum (a + 8) 8 = addr.toNat ∧ t.readNum (a + 16) 8 = f.sub % 268435456 ∧ t.readNum (a + 24) 8 = ag.pc.toNat
          ∧ t.readNum (a + 32) 8 = d.fqseq.toNat ∧ t.readNum (a + 40) 24 = 0))

/-- `o` names `n` bytes, aligned, of a scratchpad window of the die of the strand whose turn it is (R80, R81). -/
abbrev State.InWindow (_s : State) (o : Word) (n : Nat) : Prop :=
  isWindow o = true ∧ objOff o % n = 0 ∧ objOff o + n ≤ 2097152

/-- Where those bytes are held. -/
def State.windowAt (s : State) (o : Word) : Nat := windowByte (dieOf s.cur) o

/-- The fields of a control register that a write in supervisor mode sets (R25, R179); vl, lpart and vcap have rules of their
own. -/
def crMask (n : Nat) : Option Word :=
  if n = 0x001 then some 0x3FFFF else if n = 0x002 then some (BitVec.allOnes 64) else if n = 0x003 then some (BitVec.allOnes 64)
  else if n = 0x004 then some 3 else if n = 0x005 then some 0 else if n = 0x007 then some (BitVec.allOnes 64)
  else if n = 0x008 then some 0x800000000000003F else if n = 0x010 then some 0 else if n = 0x011 then some 1
  else if 0x020 ≤ n ∧ n ≤ 0x027 then some 0xFFFFFFFF else if 0x030 ≤ n ∧ n ≤ 0x037 then some 0xF01FFFF
  else if n = 0x040 then some 0x8E else if 0x041 ≤ n ∧ n ≤ 0x045 then some (BitVec.allOnes 64) else if n = 0x046 then some 3
  else if n = 0x047 then some 0xFFFFC0 else if n = 0x050 then some 0xFFF else if n = 0x051 then some 0xFF00FFFFFFFFFFC0
  else if n = 0x060 ∨ n = 0x061 then some (BitVec.allOnes 64) else none

/-- The fields of a control register that hold a value but take no write (R25, R251, R327). -/
def crKept (n : Nat) : Word :=
  if n = 0x005 ∨ n = 0x010 then BitVec.allOnes 64 else if 0x020 ≤ n ∧ n ≤ 0x027 then 0xE000000000000000
  else if n = 0x040 then 1 else 0

/-! ## Vector instructions -/

/-- No group of a vector register of the strand and no row of a tile carries poison (R13, R235). -/
def Strand.Clean (x : Strand) : Prop := (∀ k, x.vp.get false k = false) ∧ ∀ k, x.tp.get false k = false

/-- A computing instruction over these formats is not stopped at dispatch: vl is within the length limit (R190), an element is
left to work (R191), nothing it could read carries poison (R230), and the recheck finds at most one mismatch in a row whichever
candidate it takes (R231, R232). -/
def State.VectorReady (s : State) (fs : List Nat) : Prop :=
  s.tooLong fs = false ∧ s.me.vstart.toNat < s.me.vl.toNat ∧ s.me.Clean ∧ ∀ c, s.me.mismatches c ≤ 1

/-- Element `i` is active under mask `k` (R162). -/
abbrev Strand.Active (x : Strand) (k : KReg) (i : Nat) : Prop := x.vstart.toNat ≤ i ∧ i < x.vl.toNat ∧ x.getK k i = true

/-- The strand goes on behind a vector instruction: vstart 0, one more retired, and nothing beside vector, mask, tile and scale
registers and the environment's recheck upsets differs. -/
def Strand.VectorAdvances (x y : Strand) : Prop :=
  y = { x.unhold with
    v := y.v, vp := y.vp, k := y.k, t := y.t, tp := y.tp, e := y.e, upsets := y.upsets
    vstart := 0, pc := x.pc + 4, instret := x.instret + 1, st := .run }

/-- Only strand `n`, the state its core and its die share with it, and no byte of memory differ. -/
def State.Local (n : Nat) (s t : State) : Prop :=
  t = { s with strands := t.strands, cores := t.cores, dies := t.dies, ticks := t.ticks }
    ∧ (∀ m, m ≠ n → t.strand m = s.strand m) ∧ (∀ c, c ≠ coreOf n → t.core c = s.core c)
    ∧ (∀ d, d ≠ dieOf n → t.die d = s.die d) ∧ s.MemoryKept t

/-- The vector instruction `i` completes: element `j` of `v`, read in format `f`, holds the low bits of `r j`, exactly the groups
in `bad` gain poison, vl is `n`, and every other register of the strand is as it was; `frame` says what else may change. -/
def State.VectorResult (s : State) (i : Instr) (v : VReg) (f : Nat) (r : Nat → Nat) (bad : Nat → Prop) (n : Word)
    (frame : State → Prop) : Prop :=
  ∃ t, exec i s = .next t ∧ (∀ j, j < vlmax f → t.me.elem v f j = r j % 2 ^ fmtBits f)
    ∧ (∀ u, u ≠ v → ∀ f' j, j < vlmax f' → t.me.elem u f' j = s.me.elem u f' j)
    ∧ (∀ g, t.me.vp.get false g = true → s.me.vp.get false g = true ∨ bad g) ∧ (∀ g, bad g → t.me.vp.get false g = true)
    ∧ (∀ k j, j < 65536 → t.me.getK k j = s.me.getK k j) ∧ (∀ g, t.me.getG g = s.me.getG g) ∧ t.me.t = s.me.t ∧ t.me.tp = s.me.tp
    ∧ t.me.e = s.me.e ∧ ({ s.me with vl := n } : Strand).VectorAdvances t.me ∧ frame t

/-- The vector instruction `i` completes with the elements `r` in `v`, no group gains poison, and every other register of the
strand is as it was. -/
def State.VectorWrites (s : State) (i : Instr) (v : VReg) (f : Nat) (r : Nat → Nat) : Prop :=
  s.VectorResult i v f r (fun _ => False) s.me.vl (s.Local s.cur)

/-- The instruction `i` completes: bit `j` of mask `kd` is `r j`, and every other register is as it was; k0 takes no write. -/
def State.MaskWrites (s : State) (i : Instr) (kd : KReg) (r : Nat → Bool) : Prop :=
  ∃ t, exec i s = .next t ∧ (∀ j, j < 65536 → t.me.getK kd j = if kd = 0 then true else r j)
    ∧ (∀ k, k ≠ kd → ∀ j, j < 65536 → t.me.getK k j = s.me.getK k j) ∧ (∀ g, t.me.getG g = s.me.getG g)
    ∧ t.me.v = s.me.v ∧ t.me.vp = s.me.vp ∧ t.me.t = s.me.t ∧ t.me.e = s.me.e
    ∧ s.me.VectorAdvances t.me ∧ s.Local s.cur t

/-- What the active elements of `v` become, the others staying. -/
def Strand.lanes (x : Strand) (k : KReg) (v : VReg) (r : Nat → Nat) (i : Nat) : Nat :=
  if x.vstart.toNat ≤ i ∧ i < x.vl.toNat ∧ x.getK k i = true then r i else x.elem v x.df i

/-- What the active bits of mask `kd` become, the others staying. -/
def Strand.bits (x : Strand) (k kd : KReg) (r : Nat → Bool) (i : Nat) : Bool :=
  if x.vstart.toNat ≤ i ∧ i < x.vl.toNat ∧ x.getK k i = true then r i else x.getK kd i

/-- A number's bits other than the lowest `n` beside a new value of element 0: what a reduction writes. -/
def Strand.first (x : Strand) (v : VReg) (r : Nat) (i : Nat) : Nat := if i = 0 then r else x.elem v x.df i

/-! ## Commands -/

/-- The eight words `ws` of a descriptor at `a` can be read at issue (R243 step 1), or have been while the instruction waits in
step 4; `u` is the state behind the read's effect on row ECC (R140). -/
def State.Described (s : State) (a : Word) (ws : List Word) (u : State) : Prop :=
  (s.me.issued = [] ∧ ∃ h ps, s.walk (s.agentOf s.cur) .descriptor s.myHolds a 64 0 512 = .ok h ∧ h.reach = .bytes ps
      ∧ s.piecesWait ps (some s.cur) = false ∧ u = s.eccPieces ps ∧ u.piecesPoisoned ps = false
      ∧ ws = toWords 8 (toBytes 64 (u.readPieces ps)))
    ∨ (s.me.issued ≠ [] ∧ ws = s.me.issued ∧ u = s)

/-- BAR and CREC of R244 name nothing, or what passes its check (R243 step 3); an instruction that waits in step 4 has made it. -/
def State.TailPasses (s : State) (ws : List Word) : Prop :=
  s.me.issued ≠ [] ∨
    ((wordAt ws 3 = 0 ∨ ∃ h, s.walkBarrier (s.agentOf s.cur) s.myHolds (wordAt ws 3) = .ok h)
      ∧ (wordAt ws 4 = 0 ∨ ∃ h, s.walk (s.agentOf s.cur) .engWrite s.myHolds (wordAt ws 4) 32 0 256 = .ok h))

/-- A command as its issue leaves it, at the descriptor address `da`. -/
def Cmd.Issued (c : Cmd) (n : Nat) (k : CmdKind) (sc : Scope) (acq rel : Bool) (ws : List Word) (da : Word) : Prop :=
  c.kind = k ∧ c.sid = n ∧ c.scope = sc ∧ c.acq = acq ∧ c.rel = rel ∧ c.desc = ws ∧ c.daddr = da
    ∧ c.pos = 0 ∧ c.progress = 0 ∧ c.wrote = 0 ∧ c.cause = 0 ∧ c.flags = 0

/-- Every field of a descriptor is in range. -/
def AllHold (fs : List Prop) : Prop := ∀ p ∈ fs, p

/-- Field `j` is the first one out of range. -/
def FirstFails (fs : List Prop) (j : Nat) : Prop := (∃ p, fs[j]? = some p ∧ ¬ p) ∧ ∀ i p, i < j → fs[i]? = some p → p

/-- The strand whose turn it is goes on behind its instruction, one more retired, with every register as it was. -/
def State.Retires (s t : State) : Prop := t.me = s.me.retire ∧ ∀ n, n ≠ s.cur → t.strand n = s.strand n

/-- The strand whose turn it is waits in WAIT at its instruction. -/
def State.Stalls (s t : State) : Prop :=
  t.me = { s.me with st := .wait, held := true, heldAt := if s.me.held then s.me.heldAt else s.now }
    ∧ ∀ n, n ≠ s.cur → t.strand n = s.strand n

/-- The strand whose turn it is waits in WAIT in step 4 of R243, with the descriptor it has read and the pins it has taken. -/
def State.Queues (s t : State) (ws : List Word) : Prop :=
  (∃ ps, t.me = { s.me with
      st := .wait, held := true, heldAt := if s.me.held then s.me.heldAt else s.now, issued := ws, pins := ps })
    ∧ ∀ n, n ≠ s.cur → t.strand n = s.strand n

/-- A step's own trap of cause `c`, whatever other agents' state the checks before it changed. -/
def State.TrapsWith (s : State) (i : Instr) (c : Nat) (tval : Word) : Prop :=
  ∃ t, exec i s = .next t ∧ s.me.Entered t.me c tval s.me.pc ∧ (∀ n, n ≠ s.cur → t.strand n = s.strand n) ∧ s.MemoryKept t

/-! ## Runs -/

/-- Run `r` of launch `l` has the turn: its step may start (R134), it is listed under its launch, and a micro-op of
nominal time `ns` is not stopped by the step or the run limit or a broken lock (R132, R133, R141). -/
def State.MayRun (s : State) (l : Launch) (r : Run) (ns : Nat) : Prop :=
  s.runAt s.curRun = some (l, r) ∧ r.launch = l.id ∧ (r.midStep = true ∨ s.stepHeld (s.curRun / 2560) r = false)
    ∧ r.stops ns = none

/-- The run `r` of launch `l` after a step. -/
def State.HasRun (t : State) (k : Nat) (l : Launch) (r : Run) (p : Run → Prop) : Prop :=
  ∃ x ∈ (t.die k).launches, x.id = l.id ∧ ∃ y ∈ x.runs, y.index = r.index ∧ y.mitten = r.mitten ∧ p y

/-- Lane `i` of a row of a run's mitten (R114). -/
def State.laneOf (t : State) (k : Nat) (y : Run) (row i : Nat) : Bool :=
  if row < 1008 then (t.readByte (y.rowAt k row + i / 8)).getLsbD (i % 8)
  else match y.rows.get none row with
    | some v => v.testBit i
    | none => false

/-- The run has gone on `ns` within its step. -/
def Run.Steps (r y : Run) (ns : Nat) : Prop :=
  y.count = r.count + 1 ∧ y.stepNs = r.stepNs + ns ∧ y.midStep = true ∧ y.stage = .running

end Sys2Proof.Machine
end

