-- ==== Sys2Proof/Certificates/Slice0/Obligations.lean ====
section
/-! DEFINITION. The statements of this row, for the provers. -/

open Sys2Proof Sys2Proof.Machine

/-! ## Scalar arithmetic -/

/-- R165: every row of major 0x01, as the decoder reads it and as it completes, and the reserved function values, which take
cause 0x02. -/
def Obligations.RegisterArithmetic : Prop :=
  ∀ (s : State) (d a b : GReg), s.Settled →
    let x := s.me.getG a
    let y := s.me.getG b
    let n := y.toNat % 64
    let rows : List (Nat × Instr × Word) :=
      [(0x000, .add d a b, x + y), (0x001, .sub d a b, x - y), (0x002, .and d a b, x &&& y), (0x003, .or d a b, x ||| y),
       (0x004, .xor d a b, x ^^^ y), (0x005, .andn d a b, x &&& ~~~ y), (0x006, .sll d a b, x <<< n),
       (0x007, .srl d a b, x >>> n), (0x008, .sra d a b, x.sshiftRight n), (0x009, .rol d a b, x.rotateLeft n),
       (0x00A, .slt d a b, if x.toInt < y.toInt then 1 else 0), (0x00B, .sltu d a b, if x.toNat < y.toNat then 1 else 0),
       (0x00C, .min d a b, if x.toInt < y.toInt then x else y), (0x00D, .max d a b, if x.toInt < y.toInt then y else x),
       (0x00E, .minu d a b, if x.toNat < y.toNat then x else y), (0x00F, .maxu d a b, if x.toNat < y.toNat then y else x),
       (0x010, .seq d a b, if x = y then 1 else 0), (0x011, .sne d a b, if x = y then 0 else 1)]
    (∀ p ∈ rows, decodeNat (encA 0x01 d a b p.1) = .ok p.2.1 ∧ s.Writes p.2.1 d p.2.2)
      ∧ ∀ fn, 0x012 ≤ fn → fn ≤ 0x3FF → decodeNat (encA 0x01 d a b fn) = .error .reserved
        ∧ (s.OwnTrap 2 → s.WordTraps (encA 0x01 d a b fn) 2)

/-- R166: products, and quotients and remainders with their corner cases; no row traps, and the other function values are
reserved. -/
def Obligations.MultiplyDivide : Prop :=
  ∀ (s : State) (d a b : GReg), s.Settled →
    let x := s.me.getG a
    let y := s.me.getG b
    let t := x.toInt.tdiv y.toInt
    let rows : List (Nat × Instr × Word) :=
      [(0x000, .mul d a b, x * y), (0x001, .mulhs d a b, BitVec.ofInt 64 (x.toInt * y.toInt / 2 ^ 64)),
       (0x002, .mulhu d a b, BitVec.ofNat 64 (x.toNat * y.toNat / 2 ^ 64)),
       (0x003, .mulhm d a b, BitVec.ofInt 64 (x.toInt * y.toNat / 2 ^ 64)),
       (0x010, .quot d a b,
        if y = 0 then (if x.toInt < 0 then 0x8000000000000000 else 0x7FFFFFFFFFFFFFFF)
        else if 2 ^ 63 ≤ t then 0x7FFFFFFFFFFFFFFF else BitVec.ofInt 64 t),
       (0x011, .quotu d a b, if y = 0 then 0xFFFFFFFFFFFFFFFF else BitVec.ofNat 64 (x.toNat / y.toNat)),
       (0x012, .mod d a b, if y = 0 then x else BitVec.ofInt 64 (x.toInt - y.toInt * t)),
       (0x013, .modu d a b, if y = 0 then x else BitVec.ofNat 64 (x.toNat - y.toNat * (x.toNat / y.toNat)))]
    (∀ p ∈ rows, decodeNat (encA 0x02 d a b p.1) = .ok p.2.1 ∧ s.Writes p.2.1 d p.2.2)
      ∧ ∀ fn, fn ≤ 0x3FF → (∀ p ∈ rows, p.1 ≠ fn) → decodeNat (encA 0x02 d a b fn) = .error .reserved
        ∧ (s.OwnTrap 2 → s.WordTraps (encA 0x02 d a b fn) 2)

/-- R167: the bit operations, by what their result is, and the words of the major that take cause 0x02. -/
def Obligations.BitOperations : Prop :=
  ∀ (s : State) (d a b : GReg) (sh : BitVec 6), s.Settled →
    let x := s.me.getG a
    let y := s.me.getG b
    (∃ n, s.Writes (.clz d a) d (BitVec.ofNat 64 n) ∧ n ≤ 64 ∧ x.toNat < 2 ^ (64 - n) ∧ (n < 64 → 2 ^ (63 - n) ≤ x.toNat))
    ∧ (∃ n, s.Writes (.ctz d a) d (BitVec.ofNat 64 n) ∧ n ≤ 64 ∧ (∀ i, i < n → x.getLsbD i = false)
        ∧ (n < 64 → x.getLsbD n = true))
    ∧ s.Writes (.popc d a) d (BitVec.ofNat 64 ((List.range 64).countP fun i => x.getLsbD i))
    ∧ (∃ w, s.Writes (.rev8 d a) d w ∧ ∀ j, j < 8 → wbits w (8 * j) 8 = wbits x (8 * (7 - j)) 8)
    ∧ s.Writes (.fshr d a b sh) d (BitVec.ofNat 64 ((x.toNat * 2 ^ 64 + y.toNat) / 2 ^ sh.toNat))
    ∧ decodeNat (encA 0x03 d a 0 0x000) = .ok (.clz d a) ∧ decodeNat (encA 0x03 d a 0 0x001) = .ok (.ctz d a)
    ∧ decodeNat (encA 0x03 d a 0 0x002) = .ok (.popc d a) ∧ decodeNat (encA 0x03 d a 0 0x003) = .ok (.rev8 d a)
    ∧ decodeNat (encA 0x03 d a b (0x040 + sh.toNat)) = .ok (.fshr d a b sh)
    ∧ ∀ fn, (fn ≤ 0x003 ∧ b ≠ 0) ∨ (0x004 ≤ fn ∧ fn ≤ 0x03F) ∨ (0x080 ≤ fn ∧ fn ≤ 0x3FF) →
        decodeNat (encA 0x03 d a b fn) = .error .reserved ∧ (s.OwnTrap 2 → s.WordTraps (encA 0x03 d a b fn) 2)

/-- R168: immediate arithmetic. R169, R170 and R171: shifts by an immediate, bit fields and constants. -/
def Obligations.ImmediateOperations : Prop :=
  (∀ (s : State) (d a : GReg) (imm : BitVec 15), s.Settled →
     let x := s.me.getG a
     let i := imm.signExtend 64
     let z := imm.setWidth 64
     let rows : List (Nat × Instr × Word) :=
       [(0x04, .addi d a imm, x + i), (0x05, .andi d a imm, x &&& z), (0x06, .ori d a imm, x ||| z), (0x07, .xori d a imm, x ^^^ z),
        (0x08, .slti d a imm, if x.toInt < i.toInt then 1 else 0), (0x09, .sltiu d a imm, if x.toNat < i.toNat then 1 else 0)]
     ∀ p ∈ rows, decodeNat (encI p.1 d a imm.toNat) = .ok p.2.1 ∧ s.Writes p.2.1 d p.2.2)
  ∧ (∀ (s : State) (d a : GReg) (n pos width : BitVec 6) (imm : BitVec 20) (im : BitVec 12), s.Settled →
       let x := s.me.getG a
       let o := s.me.getG d
       s.Writes (.slli d a n) d (x <<< n.toNat) ∧ s.Writes (.srli d a n) d (x >>> n.toNat)
       ∧ s.Writes (.srai d a n) d (x.sshiftRight n.toNat) ∧ s.Writes (.roli d a n) d (x.rotateLeft n.toNat)
       ∧ s.Writes (.bfx d a width pos) d (((x.sshiftRight pos.toNat).setWidth (width.toNat + 1)).signExtend 64)
       ∧ s.Writes (.bfxu d a width pos) d (((x >>> pos.toNat).setWidth (width.toNat + 1)).setWidth 64)
       ∧ s.Writes (.lui d imm) d ((imm ++ (0 : BitVec 12)).signExtend 64)
       ∧ (∃ w, s.Writes (.lmid d im) d w ∧ wbits w 32 12 = im.toNat ∧ wbits w 0 32 = wbits o 0 32 ∧ wbits w 44 20 = wbits o 44 20)
       ∧ ∃ w, s.Writes (.lhi d imm) d w ∧ wbits w 44 20 = imm.toNat ∧ wbits w 0 44 = wbits o 0 44)

/-! ## Scalar loads, stores and atomics -/

/-- R174, R176: a load whose check passes and which neither waits nor meets poison writes the value its pieces hold, sign- or
zero-extended, stores nothing, and changes beside its strand only what a read does to row ECC (R140); an 8-byte access to a
control register writes what that register reads. -/
def Obligations.LoadsComplete : Prop :=
  ∀ (s : State) (d a : GReg) (imm : BitVec 15) (sc : Scope) (h : Hit), s.Settled →
    let o := s.me.getG a + imm.signExtend 64
    let p := s.me.getG a
    let rows : List (Nat × Bool × Word × Instr) :=
      [(1, true, o, .ldb d a imm), (2, true, o, .ldh d a imm), (4, true, o, .ldw d a imm), (8, false, o, .ldd d a imm),
       (1, false, o, .ldbu d a imm), (2, false, o, .ldhu d a imm), (4, false, o, .ldwu d a imm),
       (1, false, p, .ldaB d a sc), (2, false, p, .ldaH d a sc), (4, false, p, .ldaW d a sc), (8, false, p, .ldaD d a sc)]
    ∀ r ∈ rows, s.walk (s.agentOf s.cur) .scalarLoad s.myHolds r.2.2.1 r.1 0 (8 * r.1) = .ok h →
      (∀ ps, h.reach = .bytes ps → s.piecesWait ps (some s.cur) = false → (s.eccPieces ps).piecesPoisoned ps = false →
        ∃ t, exec r.2.2.2 s = .next t
          ∧ s.me.WritesG t.me d
              (if r.2.1 then (BitVec.ofNat (8 * r.1) (s.readPieces ps)).signExtend 64 else BitVec.ofNat 64 (s.readPieces ps))
          ∧ s.me.Advances t.me ∧ s.MemoryKept t ∧ (∀ n, n ≠ s.cur → t.strand n = s.strand n)
          ∧ t = { s with strands := t.strands, dies := t.dies })
      ∧ ∀ k off, h.reach = .ctrl k off → r.1 = 8 → s.Writes r.2.2.2 d (s.ctrlRead k off)

/-- R79 to R81, R174: a load through a scratchpad window reads the bytes of that scratchpad, the low byte first. R79 to R81,
R175: a store through a scratchpad window writes its bytes there, the low byte first, and nothing else. -/
def Obligations.WindowAccesses : Prop :=
  (∀ (s : State) (d a : GReg) (imm : BitVec 15), s.Settled →
     let o := s.me.getG a + imm.signExtend 64
     let v (n : Nat) := s.readNum (s.windowAt o) n
     let rows : List (Nat × Instr × Word) :=
       [(1, .ldb d a imm, (BitVec.ofNat 8 (v 1)).signExtend 64), (2, .ldh d a imm, (BitVec.ofNat 16 (v 2)).signExtend 64),
        (4, .ldw d a imm, (BitVec.ofNat 32 (v 4)).signExtend 64), (8, .ldd d a imm, BitVec.ofNat 64 (v 8)),
        (1, .ldbu d a imm, BitVec.ofNat 64 (v 1)), (2, .ldhu d a imm, BitVec.ofNat 64 (v 2)),
        (4, .ldwu d a imm, BitVec.ofNat 64 (v 4))]
     ∀ r ∈ rows, s.InWindow o r.1 → s.poisoned (s.windowAt o) = false → s.Writes r.2.1 d r.2.2)
  ∧ (∀ (s : State) (a b : GReg) (imm : BitVec 15), s.Settled →
       let o := s.me.getG a + imm.signExtend 64
       let rows : List (Nat × Instr) := [(1, .stb a b imm), (2, .sth a b imm), (4, .stw a b imm), (8, .std a b imm)]
       ∀ r ∈ rows, s.InWindow o r.1 →
         ∃ t, exec r.2 s = .next t ∧ (∀ g, t.me.getG g = s.me.getG g) ∧ s.me.Advances t.me
           ∧ t = { s with strands := t.strands, mem := t.mem } ∧ (∀ n, n ≠ s.cur → t.strand n = s.strand n)
           ∧ (∀ i, i < r.1 → t.readByte (s.windowAt o + i) = BitVec.ofNat 8 (wbits (s.me.getG b) (8 * i) 8))
           ∧ s.MemoryKeptBut (s.windowAt o) r.1 t)

/-- R175, R176: a store whose check passes completes: every byte it reaches at consecutive addresses holds its value, every byte
that neither it nor an allocation reaches reads as before, and no register changes. A release store at die scope or wider has no
posted command to wait for (R35). R311: a ZERO sub-tile with a reserved location is filled first: its entry names the location's
tier with GEN advanced, its lines lose poison, and each of its bytes the store does not reach reads 0. -/
def Obligations.StoresComplete : Prop :=
  ∀ (s : State) (a b : GReg) (imm : BitVec 15) (sc : Scope) (h : Hit) (ps : List Piece), s.Settled → s.Healthy →
    let o := s.me.getG a + imm.signExtend 64
    let p := s.me.getG a
    let rows : List (Nat × Word × Instr) :=
      [(1, o, .stb a b imm), (2, o, .sth a b imm), (4, o, .stw a b imm), (8, o, .std a b imm),
       (1, p, .stlB a b sc), (2, p, .stlH a b sc), (4, p, .stlW a b sc), (8, p, .stlD a b sc)]
    ∀ r ∈ rows, s.walk (s.agentOf s.cur) .scalarStore s.myHolds r.2.1 r.1 0 (8 * r.1) = .ok h → h.reach = .bytes ps →
      s.piecesWait ps (some s.cur) = false → (scopeWide sc = true → s.me.posted = 0) →
      ∃ t, exec r.2.2 s = .next t ∧ (∀ g, t.me.getG g = s.me.getG g) ∧ s.me.Advances t.me
        ∧ (∀ n, n ≠ s.cur → t.strand n = s.strand n)
        ∧ (∀ k, (∀ q ∈ ps, q.reaches k = false) → (∀ al ∈ h.allocs, al.keeps k) → t.readByte k = s.readByte k)
        ∧ (∀ q, ps = bytePieces q r.1 → (∀ i, i < r.1 → q + i < scratchBase → s.region (q + i) ≠ none) →
            ∀ i, i < r.1 → t.readByte (q + i) = BitVec.ofNat 8 (wbits (s.me.getG b) (8 * i) 8))
        ∧ ∀ al, h.allocs = [al] → (s.readEnt al.entry).state = 1 →
            (∀ q ∈ al.record.ranges al.loc, ∀ i, i < q.2 → s.region (q.1 + i) ≠ none) →
            (∀ i, i < 16 → s.region (al.entry + i) ≠ none ∧ (∀ q ∈ ps, q.reaches (al.entry + i) = false)
              ∧ ∀ q ∈ al.record.ranges al.loc, al.entry + i < q.1 ∨ q.1 + q.2 ≤ al.entry + i) →
            t.readEnt al.entry = { s.readEnt al.entry with
              state := s.locTier al.loc, gen := ((s.readEnt al.entry).gen + 1) % 256, zeros := true }
            ∧ ∀ q ∈ al.record.ranges al.loc, ∀ k, q.1 ≤ k → k < q.1 + q.2 → t.poison.get false (k / 64) = false
                ∧ ((∀ p ∈ ps, p.reaches k = false) → t.readByte k = 0)

/-- R182, R183: every atomic on 4 or 8 bytes of a scratchpad window returns the old value sign-extended and leaves the new one
of R182's table; a cas whose comparison fails writes nothing. -/
def Obligations.AtomicsComplete : Prop :=
  ∀ (s : State) (d a b : GReg) (sc : Scope) (acq rel : Bool), s.Settled →
    (rel = true → scopeWide sc = true → s.me.posted = 0) →
    let o := s.me.getG a
    let q := s.windowAt o
    s.poisoned q = false →
    (s.InWindow o 4 →
      let x := BitVec.ofNat 32 (s.readNum q 4)
      let y := (s.me.getG b).setWidth 32
      let c := (s.me.getG d).setWidth 32
      let rows : List (Instr × BitVec 32) :=
        [(.atswapW d a b sc acq rel, y), (.ataddW d a b sc acq rel, x + y), (.atandW d a b sc acq rel, x &&& y),
         (.atorW d a b sc acq rel, x ||| y), (.atxorW d a b sc acq rel, x ^^^ y),
         (.atminW d a b sc acq rel, if y.toInt < x.toInt then y else x),
         (.atmaxW d a b sc acq rel, if x.toInt < y.toInt then y else x),
         (.atminuW d a b sc acq rel, if y.toNat < x.toNat then y else x),
         (.atmaxuW d a b sc acq rel, if x.toNat < y.toNat then y else x),
         (.casW d a b sc acq rel, if x = c then y else x)]
      ∀ r ∈ rows, ∃ t, exec r.1 s = .next t ∧ s.me.WritesG t.me d (x.signExtend 64) ∧ s.me.Advances t.me
        ∧ t = { s with strands := t.strands, mem := t.mem } ∧ (∀ n, n ≠ s.cur → t.strand n = s.strand n)
        ∧ t.readNum q 4 = r.2.toNat ∧ s.MemoryKeptBut q 4 t)
    ∧ (s.InWindow o 8 →
      let x := BitVec.ofNat 64 (s.readNum q 8)
      let y := s.me.getG b
      let c := s.me.getG d
      let rows : List (Instr × BitVec 64) :=
        [(.atswapD d a b sc acq rel, y), (.ataddD d a b sc acq rel, x + y), (.atandD d a b sc acq rel, x &&& y),
         (.atorD d a b sc acq rel, x ||| y), (.atxorD d a b sc acq rel, x ^^^ y),
         (.atminD d a b sc acq rel, if y.toInt < x.toInt then y else x),
         (.atmaxD d a b sc acq rel, if x.toInt < y.toInt then y else x),
         (.atminuD d a b sc acq rel, if y.toNat < x.toNat then y else x),
         (.atmaxuD d a b sc acq rel, if x.toNat < y.toNat then y else x),
         (.casD d a b sc acq rel, if x = c then y else x)]
      ∀ r ∈ rows, ∃ t, exec r.1 s = .next t ∧ s.me.WritesG t.me d x ∧ s.me.Advances t.me
        ∧ t = { s with strands := t.strands, mem := t.mem } ∧ (∀ n, n ≠ s.cur → t.strand n = s.strand n)
        ∧ t.readNum q 8 = r.2.toNat ∧ s.MemoryKeptBut q 8 t)

/-- R172: where the checks of a scalar load, store, acquire load, release store or atomic fail, the access traps with the failed
check's cause, tval the address, and nothing else of the machine changes; R320, R321, R322: but for a failure that calls for a
fault record, which then stands in the fault queue of the strand's die, or is counted as lost where the queue is full. R172 check 5:
a load or an atomic whose checks pass and whose line carries poison traps with cause 0x09; that this holds of a KIND 11 object's
lines too is log 66, the model's reading. -/
def Obligations.AccessTraps : Prop :=
  ∀ (s : State) (d a b : GReg) (imm : BitVec 15) (sc : Scope) (acq rel : Bool) (f : Fail), s.Settled → s.OwnTrap f.cause →
    (scopeWide sc = true → s.me.posted = 0) →
    let o := s.me.getG a + imm.signExtend 64
    let p := s.me.getG a
    let loads : List (Nat × Word × Instr) := [(1, o, .ldb d a imm), (2, o, .ldh d a imm), (4, o, .ldw d a imm), (8, o, .ldd d a imm),
      (1, o, .ldbu d a imm), (2, o, .ldhu d a imm), (4, o, .ldwu d a imm),
      (1, p, .ldaB d a sc), (2, p, .ldaH d a sc), (4, p, .ldaW d a sc), (8, p, .ldaD d a sc)]
    let stores : List (Nat × Word × Instr) := [(1, o, .stb a b imm), (2, o, .sth a b imm), (4, o, .stw a b imm), (8, o, .std a b imm),
      (1, p, .stlB a b sc), (2, p, .stlH a b sc), (4, p, .stlW a b sc), (8, p, .stlD a b sc)]
    let atomics : List (Nat × Word × Instr) := [(4, p, .atswapW d a b sc acq rel), (4, p, .ataddW d a b sc acq rel),
      (4, p, .atandW d a b sc acq rel), (4, p, .atorW d a b sc acq rel), (4, p, .atxorW d a b sc acq rel),
      (4, p, .atminW d a b sc acq rel), (4, p, .atmaxW d a b sc acq rel), (4, p, .atminuW d a b sc acq rel),
      (4, p, .atmaxuW d a b sc acq rel), (4, p, .casW d a b sc acq rel), (8, p, .atswapD d a b sc acq rel),
      (8, p, .ataddD d a b sc acq rel), (8, p, .atandD d a b sc acq rel), (8, p, .atorD d a b sc acq rel),
      (8, p, .atxorD d a b sc acq rel), (8, p, .atminD d a b sc acq rel), (8, p, .atmaxD d a b sc acq rel),
      (8, p, .atminuD d a b sc acq rel), (8, p, .atmaxuD d a b sc acq rel), (8, p, .casD d a b sc acq rel)]
    let fails (acc : Acc) (r : Nat × Word × Instr) : Prop := s.walk (s.agentOf s.cur) acc s.myHolds r.2.1 r.1 0 (8 * r.1) = .fail f
    let traps (r : Nat × Word × Instr) : Prop :=
      (f.recorded = false → s.Traps r.2.2 f.cause r.2.1)
      ∧ (f.recorded = true → f.flags < 256 → s.Healthy → ∃ t, exec r.2.2 s = .next t ∧ s.me.Entered t.me f.cause r.2.1 s.me.pc
          ∧ (∀ n, n ≠ s.cur → t.strand n = s.strand n) ∧ s.Records t (s.agentOf s.cur) f r.2.1)
    (∀ r ∈ loads, fails .scalarLoad r → traps r) ∧ (∀ r ∈ stores, fails .scalarStore r → traps r)
    ∧ (∀ r ∈ atomics, fails .scalarAtomic r → traps r)
    ∧ (∀ h ps, h.reach = .bytes ps → s.piecesWait ps (some s.cur) = false → s.OwnTrap 9 →
        ((s.eccPieces ps).piecesPoisoned ps = true →
          ∀ r ∈ loads, s.walk (s.agentOf s.cur) .scalarLoad s.myHolds r.2.1 r.1 0 (8 * r.1) = .ok h → s.TrapsWith r.2.2 9 r.2.1)
        ∧ (((s.allocateAll h.allocs).eccPieces ps).piecesPoisoned ps = true →
          ∀ r ∈ atomics, s.walk (s.agentOf s.cur) .scalarAtomic s.myHolds r.2.1 r.1 0 (8 * r.1) = .ok h → s.TrapsWith r.2.2 9 r.2.1))
    ∧ ∀ r ∈ loads ++ stores ++ atomics, (objNum r.2.1 = 0 → s.OwnTrap 8 → s.Traps r.2.2 8 r.2.1)
        ∧ (isWindow r.2.1 = true → objOff r.2.1 % r.1 ≠ 0 → s.OwnTrap 5 → s.Traps r.2.2 5 r.2.1)

/-! ## Control transfer -/

/-- R177, R178: branches and jumps, outside a farm or to a target other than 0. R30: in a farm a transfer of control to address
0 ends membership: vfarm becomes 0 and the strand IDLE, with its lane groups handed back, and no byte of memory changes. R31: a
strip it holds is retired when it has been worked to its end, and is returned with the elements from vbase up otherwise; stated
of a farm whose arrival is still to come, which stays in its context. -/
def Obligations.BranchesAndJumps : Prop :=
  (∀ (s : State) (d a b : GReg) (imm : BitVec 15) (far : BitVec 25), s.Settled →
     let x := s.me.getG a
     let y := s.me.getG b
     let near := s.me.pc + 4 * imm.signExtend 64
     let goes (t : Word) (z : Strand) : Strand := { z.unhold with pc := t, instret := z.instret + 1, st := .run }
     let stays (t : Word) : Prop := s.me.inFarm = false ∨ t ≠ 0
     let rows : List (Instr × Bool) := [(.beq a b imm, x = y), (.bne a b imm, x ≠ y), (.blt a b imm, x.toInt < y.toInt),
       (.bge a b imm, y.toInt ≤ x.toInt)]
     (∀ r ∈ rows, (r.2 = true → stays near) → s.Becomes r.1 (goes (if r.2 then near else s.me.pc + 4) s.me))
     ∧ (stays (s.me.pc + 4 * far.signExtend 64) →
         s.Becomes (.jal far) (goes (s.me.pc + 4 * far.signExtend 64) (s.me.setG 1 (s.me.pc + 4))))
     ∧ (let t := x + imm.signExtend 64
        (t.toNat % 4 = 0 → stays t → s.Becomes (.jalr d a imm) (goes t (s.me.setG d (s.me.pc + 4))))
        ∧ (t.toNat % 4 ≠ 0 → s.OwnTrap 5 → s.Traps (.jalr d a imm) 5 t)))
  ∧ (∀ (s : State) (d a b : GReg) (imm : BitVec 15) (far : BitVec 25), s.Settled → s.me.inFarm = true →
       let near := s.me.pc + 4 * imm.signExtend 64
       let kept (f : Farm) : Farm :=
         if s.me.strip = false then f
         else if s.me.vbase + s.me.vl = s.me.vsend then { f with out := f.out - 1 }
         else { f with out := f.out - 1, returned := f.returned ++ [(s.me.vbase.toNat, s.me.vsend.toNat)] }
       let leaves (i : Instr) : Prop := ∃ t, exec i s = .next t ∧ t.me.st = .idle ∧ t.me.vfarm = 0 ∧ t.me.strip = false
         ∧ t.me.instret = s.me.instret + 1 ∧ (t.core (coreOf s.cur)).own (s.cur % 2) = 0
         ∧ (∀ n, n ≠ s.cur → t.strand n = s.strand n) ∧ s.MemoryKept t
         ∧ ∀ f, (s.die (dieOf s.cur)).farms.get none s.me.fctx = some f → f.arrived = false → s.me.stripOf = s.me.fctx →
             (t.die (dieOf s.cur)).farms.get none s.me.fctx = some (kept f)
       (near = 0 → (s.me.getG a = s.me.getG b → leaves (.beq a b imm)) ∧ (s.me.getG a ≠ s.me.getG b → leaves (.bne a b imm))
         ∧ ((s.me.getG a).toInt < (s.me.getG b).toInt → leaves (.blt a b imm))
         ∧ ((s.me.getG b).toInt ≤ (s.me.getG a).toInt → leaves (.bge a b imm)))
       ∧ (s.me.pc + 4 * far.signExtend 64 = 0 → leaves (.jal far))
       ∧ (s.me.getG a + imm.signExtend 64 = 0 → leaves (.jalr d a imm))
       ∧ (s.me.supervisor = true → s.me.tpc = 0 → leaves .tret) ∧ (s.me.supervisor = true → s.me.getG a = 0 → leaves (.sret a)))

/-! ## Control registers -/

/-- R23, R25, R179 in supervisor mode, and in user mode for vtype, vspace and the tcfg registers, which user mode writes as well;
for a register whose reserved fields read 0: every access returns the old value in gd; crw, crs and crc then leave the written
fields set as the operation says and the others as they were, and no other control register differs but instret, which counts
the instruction. R180: vl holds at most 65,536, vcap acts as at most 64, and in lpart LPREQ takes the value while each 1 that crw
or crs writes to QUAR returns its lane group (R20). R235: a tcfg that changes zeroes its tile and clears its poison. -/
def Obligations.ControlRegisters : Prop :=
  ∀ (s : State) (d a : GReg) (r : BitVec 12), s.Settled →
    (s.me.supervisor = true ∨ r.toNat = 1 ∨ r.toNat = 4 ∨ 0x30 ≤ r.toNat ∧ r.toNat ≤ 0x37) → crAssigned r.toNat = true →
    s.Writes (.crr d r) d (s.crRead r.toNat)
    ∧ (let x := s.me.getG a
       let old := s.crRead r.toNat
       let rows : List (Instr × Word × Word) := [(.crw d a r, x, x), (.crs d a r, old ||| x, x), (.crc d a r, old &&& ~~~ x, 0)]
       let becomes (i : Instr) (new : Word) : Prop := ∃ t, exec i s = .next t ∧ s.me.WritesG t.me d old ∧ t.me.pc = s.me.pc + 4
         ∧ s.MemoryKept t ∧ t.crRead r.toNat = new ∧ (∀ k, k ≠ r.toNat → k ≠ 0x061 → t.crRead k = s.crRead k)
         ∧ ∀ n, n ≠ s.cur → t.strand n = s.strand n
       ∀ p ∈ rows,
         (∀ m, crMask r.toNat = some m → old &&& ~~~ (m ||| crKept r.toNat) = 0 →
           becomes p.1 ((old &&& ~~~ m) ||| (p.2.1 &&& m)))
         ∧ (r.toNat = 0x000 → becomes p.1 (BitVec.ofNat 64 (Nat.min p.2.1.toNat 65536)))
         ∧ (r.toNat = 0x009 → becomes p.1 (BitVec.ofNat 64 (Nat.min (wbits p.2.1 0 7) 64)))
         ∧ (r.toNat = 0x006 → becomes p.1 (BitVec.ofNat 64 (wbits p.2.1 0 8 + wbits old 8 16 * 2 ^ 8
             + wbits (old &&& ~~~ p.2.2) 24 8 * 2 ^ 24)))
         ∧ ∀ i, i < 8 → r.toNat = 0x30 + i → s.me.tcfg.get 0 i ≠ p.2.1 &&& 0xF01FFFF → ∃ t, exec p.1 s = .next t
             ∧ (∀ b, b < 16384 → t.me.t.get 0 (16384 * i + b) = 0) ∧ (∀ j, j < 256 → t.me.tp.get false (256 * i + j) = false))

/-- R16, R23: an unassigned number is illegal in either mode; in user mode a register without user access traps as privileged,
and so does a write where only supervisor mode may write a field. R16: in user mode every privileged instruction traps with
cause 0x03 and has none of its effect. -/
def Obligations.Privileges : Prop :=
  (∀ (s : State) (d a : GReg) (r : BitVec 12), s.Settled →
     let all : List Instr := [.crr d r, .crw d a r, .crs d a r, .crc d a r]
     let writes : List Instr := [.crw d a r, .crs d a r, .crc d a r]
     let n := r.toNat
     (crAssigned n = false → s.OwnTrap 1 → ∀ i ∈ all, s.Traps i 1 0)
     ∧ (s.me.supervisor = false → 0x040 ≤ n ∧ n ≤ 0x047 ∨ n = 0x050 ∨ n = 0x051 → s.OwnTrap 3 → ∀ i ∈ all, s.Traps i 3 0)
     ∧ (s.me.supervisor = false → n ∈ [0x000, 0x002, 0x003, 0x006, 0x007, 0x008, 0x009, 0x011, 0x060, 0x061] ∨ 0x020 ≤ n ∧ n ≤ 0x027 →
         s.OwnTrap 3 → (∀ i ∈ writes, s.Traps i 3 0) ∧ s.Writes (.crr d r) d (s.crRead n))
     ∧ (n = 0x005 ∨ n = 0x010 → ∀ i ∈ all, s.Writes i d (s.crRead n)))
  ∧ (∀ (s : State) (d a b : GReg), s.Settled → s.me.supervisor = false → s.OwnTrap 3 →
       ∀ i ∈ ([.sret a, .tret, .spark d a, .sstart d a b, .preq d a] : List Instr), s.Traps i 3 0)

/-! ## Traps, returns and events -/

/-- R185, R186, R328: svc retires and traps behind itself with cause 0x0C and tval ga; brk traps with cause 0x0D where it
stands. R329: a trap in supervisor mode with TM set is a double trap: a damage record of killed work is counted, no trap
register changes, and the strand enters IDLE; stated of brk. R187, R330: sret enters user mode with TM 0 at ga; tret goes to
tpc with the mode and TM that sstat saved; a misaligned target traps with cause 0x05. -/
def Obligations.CallsAndReturns : Prop :=
  (∀ (s : State) (a : GReg), s.Settled →
     (s.OwnTrap 0x0C → ∃ t, exec (.svc a) s = .next t ∧ s.OnlyStrand s.cur t ∧ s.MemoryKept t
       ∧ ({ s.me with instret := s.me.instret + 1 } : Strand).Entered t.me 0x0C (s.me.getG a) (s.me.pc + 4))
     ∧ (s.OwnTrap 0x0D → s.Traps .brk 0x0D 0))
  ∧ (∀ (s : State), s.Settled → s.me.supervisor = true → s.me.tm = true → s.me.inFarm = false →
       ∃ t, exec .brk s = .next t ∧ (t.die (dieOf s.cur)).dmseq = (s.die (dieOf s.cur)).dmseq + 1
         ∧ t.me = { s.me.unhold with st := .idle, preq := false, pend := none, svcRec := none, strip := false }
         ∧ (t.core (coreOf s.cur)).own (s.cur % 2) = 0 ∧ ∀ n, n ≠ s.cur → t.strand n = s.strand n)
  ∧ (∀ (s : State) (a : GReg), s.Settled → s.me.supervisor = true →
       let x := s.me
       let t := x.getG a
       (t.toNat % 4 = 0 → (x.inFarm = false ∨ t ≠ 0) → ∃ u, exec (.sret a) s = .next u ∧ s.OnlyStrand s.cur u ∧ s.MemoryKept u
         ∧ u.me = { x.unhold with sstat := u.me.sstat, pc := t, instret := x.instret + 1, st := .run }
         ∧ wbits u.me.sstat 0 1 = 0 ∧ wbits u.me.sstat 1 1 = wbits x.sstat 1 1 ∧ wbits u.me.sstat 2 1 = 0
         ∧ wbits u.me.sstat 3 61 = wbits x.sstat 3 61)
       ∧ (t.toNat % 4 ≠ 0 → s.OwnTrap 5 → s.Traps (.sret a) 5 t)
       ∧ (x.tpc.toNat % 4 = 0 → (x.inFarm = false ∨ x.tpc ≠ 0) → ∃ u, exec .tret s = .next u ∧ s.OnlyStrand s.cur u ∧ s.MemoryKept u
         ∧ u.me = { x.unhold with sstat := u.me.sstat, pc := x.tpc, instret := x.instret + 1, st := .run }
         ∧ wbits u.me.sstat 0 1 = wbits x.sstat 1 1 ∧ wbits u.me.sstat 1 1 = wbits x.sstat 1 1
         ∧ wbits u.me.sstat 2 1 = wbits x.sstat 3 1 ∧ wbits u.me.sstat 3 61 = wbits x.sstat 3 61)
       ∧ (x.tpc.toNat % 4 ≠ 0 → s.OwnTrap 5 → s.Traps .tret 5 x.tpc))

/-- R102, R188, R189, R260: a fence goes on; wake raises the counts its mask names, holding at 255; doze consumes one raise, or
returns 2 for a request that is not masked, or waits in WAIT and returns 0 when its limit has passed. -/
def Obligations.EventsOfStrands : Prop :=
  ∀ (s : State) (d a : GReg) (p q : BitVec 4) (sc : Scope), s.Settled →
    let x := s.me
    let m := x.getG a
    let other := if s.cur % 2 = 0 then s.cur + 1 else s.cur - 1
    let raised (n : Nat) (y : Strand) : Nat :=
      if m.toNat = 0 ∨ m.getLsbD (n % 2) = true then Nat.min (y.wakes + 1) 255 else y.wakes
    s.Becomes (.fence p sc q) x.retire
    ∧ (m.toNat < 4 → ∃ t, exec (.wake a) s = .next t ∧ s.MemoryKept t
        ∧ (∀ n, n ≠ s.cur → n ≠ other → t.strand n = s.strand n)
        ∧ t.me = { x.retire with wakes := raised s.cur x }
        ∧ t.strand other = { s.strand other with wakes := raised other (s.strand other) })
    ∧ (4 ≤ m.toNat → s.OwnTrap 6 → s.Traps (.wake a) 6 m)
    ∧ (x.preq = true → x.tm = false → s.Writes (.doze d a) d 2)
    ∧ ((x.preq = false ∨ x.tm = true) → 0 < x.wakes →
        s.Becomes (.doze d a) (({ x with wakes := x.wakes - 1 } : Strand).setG d 1).retire)
    ∧ ((x.preq = false ∨ x.tm = true) → x.wakes = 0 →
        (x.held = true → m ≠ 0 → x.heldAt + m.toNat ≤ s.now → s.Writes (.doze d a) d 0)
        ∧ (x.held = false → s.Becomes (.doze d a) { x with st := .wait, held := true, heldAt := s.now }))

/-- R274, R335: what spark, sstart and preq do to their target in supervisor mode, and the value each returns. -/
def Obligations.StrandControl : Prop :=
  ∀ (s : State) (d a b : GReg), s.Settled → s.me.supervisor = true →
    let w := s.me.getG a
    let n := 64 * dieOf s.cur + w.toNat % 64
    let x := s.strand n
    let pc := s.me.getG b
    (64 ≤ w.toNat → s.OwnTrap 6 → ∀ i ∈ ([.spark d a, .sstart d a b, .preq d a] : List Instr), s.Traps i 6 w)
    ∧ (w.toNat < 64 →
      (x.st = .idle → n ≠ s.cur → x.inFarm = false → pc.toNat % 4 = 0 → ∃ t, exec (.sstart d a b) s = .next t
          ∧ t.strand n = { x.unhold with st := .run, pc := pc, sstat := 7 }
          ∧ s.me.WritesG t.me d 0 ∧ s.me.Advances t.me ∧ s.MemoryKept t ∧ ∀ k, k ≠ n → k ≠ s.cur → t.strand k = s.strand k)
      ∧ (x.st ≠ .idle ∨ x.inFarm = true → pc.toNat % 4 = 0 → s.Writes (.sstart d a b) d 1)
      ∧ (x.st = .idle ∨ x.st = .svcwait → n ≠ s.cur → ∃ t, exec (.spark d a) s = .next t
          ∧ (t.strand n).st = .idle ∧ (t.strand n).vfarm = (if x.inFarm then 0 else x.vfarm) ∧ (t.core (coreOf n)).own (n % 2) = 0
          ∧ s.me.WritesG t.me d 0 ∧ s.me.Advances t.me ∧ s.MemoryKept t ∧ ∀ k, k ≠ n → k ≠ s.cur → t.strand k = s.strand k)
      ∧ (x.st ≠ .idle → x.st ≠ .svcwait → n ≠ s.cur → s.Writes (.spark d a) d 1)
      ∧ (n = s.cur → ∃ t, exec (.spark d a) s = .next t ∧ t.me.st = .idle ∧ t.me.instret = s.me.instret + 1
          ∧ s.me.WritesG t.me d 0 ∧ s.MemoryKept t ∧ ∀ k, k ≠ s.cur → t.strand k = s.strand k)
      ∧ (n ≠ s.cur → ∃ t, exec (.preq d a) s = .next t ∧ (t.strand n).preq = decide (x.st ≠ .idle)
          ∧ s.me.WritesG t.me d (if x.preq then 1 else 0) ∧ s.me.Advances t.me ∧ s.MemoryKept t
          ∧ ∀ k, k ≠ n → k ≠ s.cur → t.strand k = s.strand k))

/-! ## Vector configuration -/

/-- R26, R194, R195 outside a farm: the lane hand-over, the grant as the smallest of the request, VLMAX, the lane share and the
power cap, and BIND as the highest code among the bounds equal to it, of which code 1 is none outside a farm (log 26, the model's
reading); vsetlf takes the formats of gb first. A change of lane groups clears the strand's vector and mask registers. R26, R27: a
pre-emption request that is not masked traps with cause 0x0B before anything is granted, and a reserved data format with cause
0x04; neither changes vl. R26, R31 in a farm: an unfinished strip goes on behind the elements worked, and its rest bounds the
grant. A finished strip is retired (R413); then a returned strip is taken, or else the next untaken indices, or the farm is
exhausted; with cap 0 no strip is taken; a core that quarantine cleared from the farm's mask gets none (R21; that its vsetl then
finds the farm exhausted is log 61), and every other member takes strips, declared in the mask or not; and a context that holds no farm grants 0 (R414). All stated where the strand's lane groups do not change.
Log 58: a strip held belongs to the farm it was taken from. -/
def Obligations.SetLength : Prop :=
  (∀ (s : State) (d a b : GReg) (imm : BitVec 15), s.Settled → (s.me.preq = false ∨ s.me.tm = true) → s.me.inFarm = false →
     let rows : List (Instr × Nat × Word) := [(.vsetl d a, (s.me.getG a).toNat, s.me.vtype), (.vsetlc d imm, imm.toNat, s.me.vtype),
       (.vsetlf d a b, (s.me.getG a).toNat, s.me.getG b)]
     ∀ r ∈ rows,
       let i := s.cur % 2
       let c := s.core (coreOf s.cur)
       let f := r.2.2.toNat % 16
       let held : BitVec 8 := BitVec.ofNat 8 (((List.range 8).filter fun g => (c.lpreq.getLsbD g == (i == 1)) && !c.quar.getLsbD g
         && ((c.own i).getLsbD g || !(c.own (1 - i)).getLsbD g)).map (2 ^ ·)).sum
       let vm := 262144 / fmtBits f
       let share := vm * popcount8 held / 8
       let pcap := Nat.min c.vcap.toNat 64 * 4096 / fmtBits f
       let grant := Nat.min (Nat.min r.2.1 vm) (Nat.min share pcap)
       f ≠ 0xE → f ≠ 0xF → ∃ t, exec r.1 s = .next t
         ∧ t.me.vl.toNat = grant ∧ (t.me.getG d).toNat = (if d = 0 then 0 else grant) ∧ (∀ g, g ≠ d → t.me.getG g = s.me.getG g)
         ∧ t.me.vstart = 0 ∧ t.me.vtype = BitVec.ofNat 64 (wbits r.2.2 0 18)
         ∧ t.me.vgrant = (if pcap = grant then 4 else if share = grant then 3 else if vm = grant then 2 else 0)
         ∧ (t.core (coreOf s.cur)).own i = held
         ∧ (held = c.own i → t.me.v = s.me.v ∧ t.me.vp = s.me.vp ∧ t.me.k = s.me.k)
         ∧ (held ≠ c.own i → t.me.v = [] ∧ t.me.vp = [] ∧ t.me.k = [])
         ∧ t.me.pc = s.me.pc + 4 ∧ t.me.instret = s.me.instret + 1 ∧ s.Local s.cur t)
  ∧ (∀ (s : State) (d a b : GReg) (imm : BitVec 15), s.Settled →
       let all : List Instr := [.vsetl d a, .vsetlc d imm, .vsetlf d a b]
       (s.me.preq = true → s.me.tm = false → s.OwnTrap 0x0B → ∀ i ∈ all, s.Traps i 0x0B 0)
       ∧ ((s.me.preq = false ∨ s.me.tm = true) → s.OwnTrap 4 →
           (s.me.vtype.toNat % 16 = 0xE ∨ s.me.vtype.toNat % 16 = 0xF → s.Traps (.vsetl d a) 4 0 ∧ s.Traps (.vsetlc d imm) 4 0)
           ∧ ((s.me.getG b).toNat % 16 = 0xE ∨ (s.me.getG b).toNat % 16 = 0xF → s.Traps (.vsetlf d a b) 4 0)))
  ∧ (∀ (s : State) (d a : GReg), s.Settled → (s.me.preq = false ∨ s.me.tm = true) → s.me.inFarm = true →
       s.me.df ≠ 0xE → s.me.df ≠ 0xF → s.me.vtype.toNat < 2 ^ 18 →
       (s.core (coreOf s.cur)).heldAfter (s.cur % 2) = (s.core (coreOf s.cur)).own (s.cur % 2) →
         let x := s.me
         let share := s.share s.cur x.df
         let pcap := Nat.min (s.core (coreOf s.cur)).vcap.toNat 64 * 4096 / fmtBits x.df
         let cap := Nat.min (Nat.min (x.getG a).toNat (vlmax x.df)) (Nat.min share pcap)
         let rest := x.vsend.toNat - (x.vbase.toNat + x.vl.toNat)
         let farm (t : State) := (t.die (dieOf s.cur)).farms.get none x.fctx
         let grants (n : Nat) (p : State → Prop) : Prop := ∃ t, exec (.vsetl d a) s = .next t ∧ t.me.vl.toNat = n ∧ t.me.vstart = 0
           ∧ (t.me.getG d).toNat = (if d = 0 then 0 else n) ∧ t.me.pc = x.pc + 4 ∧ s.Local s.cur t ∧ p t
         let exhausted (t : State) : Prop := t.me.vbase = x.vsend ∧ t.me.vsend = x.vsend ∧ t.me.vgrant = 5
         (farm s = none → grants 0 fun t => exhausted t ∧ farm t = none ∧ t.me.strip = x.strip)
         ∧ ∀ f, farm s = some f →
           (x.vbase.toNat + x.vl.toNat < x.vsend.toNat → grants (Nat.min cap rest) fun t =>
             t.me.vbase.toNat = x.vbase.toNat + x.vl.toNat ∧ t.me.vsend = x.vsend ∧ farm t = some f)
           ∧ (x.vsend.toNat ≤ x.vbase.toNat + x.vl.toNat → (x.strip = true → x.stripOf = x.fctx) →
               let g := if x.strip = true then { f with out := f.out - 1 } else f
               let takes (h : Farm) (m n : Nat) : Prop := grants (Nat.min cap (n - m)) fun t => farm t = some h
                 ∧ t.me.strip = true ∧ t.me.stripOf = x.fctx ∧ t.me.vbase = BitVec.ofNat 64 m ∧ t.me.vsend = BitVec.ofNat 64 n
               let mine := !f.cleared.getLsbD (coreOf s.cur % 32)
               (cap = 0 → grants 0 fun t => farm t = some g ∧ t.me.strip = false ∧ t.me.vbase = x.vsend
                 ∧ t.me.vgrant = if pcap = 0 then 4 else if share = 0 then 3 else 1)
               ∧ (0 < cap → mine = true → ∀ m n l, f.returned = (m, n) :: l → takes { g with returned := l, out := g.out + 1 } m n)
               ∧ (0 < cap → mine = true → f.returned = [] → f.next < f.total →
                   let e := f.next + Nat.min (if f.hint = 0 then cap else f.hint) (f.total - f.next)
                   takes { g with next := e, out := g.out + 1 } f.next e)
               ∧ (0 < cap → mine = false ∨ f.returned = [] ∧ f.total ≤ f.next → grants 0 fun t => exhausted t ∧ farm t = some g
                   ∧ t.me.strip = false)))

/-! ## Vector loads and stores -/

/-- R198, every mode: where dispatch's checks pass and no element waits or stops at a free pre-emption, each element that passed
holds the bytes at its place, and no other element, register or byte changes; poison of a line marks the group it is loaded into
(R96). R203: where an element's check or pins fail behind the first, vl is trimmed to its index and no trap is taken; R89: where
the first active element's fails, vstart is its index and its failure traps; stated of a failure that calls for no fault record.
R191: with vstart at or above vl the instruction retires with vstart 0. Log 28 is the lowest failing element. -/
def Obligations.VectorLoads : Prop :=
  ∀ (s : State) (v x : VReg) (a b : GReg) (k : KReg) (dt : Bool), s.Settled →
    let rows : List (VMode × Instr) := [(.unit false, .vld v a k dt false), (.unit true, .vldo v a k dt false),
      (.strided b, .vlds v a b k dt), (.indexed x false, .vldx v a x k dt), (.indexed x true, .vldxo v a x k dt),
      (.coord b, .vldc v a b k dt)]
    ∀ r ∈ rows, s.vmemChecks r.1 = none →
      (s.me.vl.toNat ≤ s.me.vstart.toNat → s.Becomes r.2 ({ s.me with vstart := 0 } : Strand).retire)
      ∧ ∀ l, s.me.vstart.toNat < s.me.vl.toNat → s.places r.1 a k false = .ok l →
        let w := fmtBits s.me.df
        let c := scanElems (s.checkElem (accVec false r.1.ordered) (if w < 8 then 1 else w / 8) w) [] l
        let all := c.1.flatMap Passed.pieces
        let loaded (n : Word) : Prop :=
          c.1.map Passed.idx = (l.map Prod.fst).take c.1.length
          ∧ s.VectorResult r.2 v s.me.df (fun j => match c.1.find? fun e => e.idx == j with
              | some e => s.readPieces e.pieces
              | none => s.me.elem v s.me.df j)
            (fun g => ∃ e ∈ c.1, (s.eccAll c.1).piecesPoisoned e.pieces = true ∧ g = 64 * v.val + egOf s.me.df e.idx) n
            fun t => t = { s with strands := t.strands, dies := t.dies } ∧ (∀ m, m ≠ s.cur → t.strand m = s.strand m)
              ∧ s.MemoryKept t
        (s.piecesWait all (some s.cur) = false → s.preemptDue s.cur = false →
          (c.2 = none → loaded s.me.vl)
          ∧ ∀ j, c.1 ≠ [] → ((∃ f u, c.2 = some (.fail j f u)) ∨ c.2 = some (.pins j)) → loaded (BitVec.ofNat 64 j))
        ∧ ∀ j f u, c.1 = [] → c.2 = some (.fail j f u) → f.recorded = false → s.OwnTrap f.cause →
            ∃ t, exec r.2 s = .next t ∧ ({ s.me with vstart := BitVec.ofNat 64 j } : Strand).Entered t.me f.cause u s.me.pc
              ∧ s.OnlyStrand s.cur t ∧ s.MemoryKept t

/-- R198, R199, every mode: where dispatch's checks pass and no element waits or stops at a free pre-emption, the store retires;
an element that passed and whose places no other element reaches is in memory, every byte that neither an element nor the fill of
a ZERO sub-tile reaches reads as before, and a line is poisoned by an element from a poisoned group and by no other. R203, R89,
R191: trims, the trap at the first active element and retirement with vstart at or above vl, as for loads. -/
def Obligations.VectorStores : Prop :=
  ∀ (s : State) (v x : VReg) (a b : GReg) (k : KReg) (dt : Bool), s.Settled → s.Healthy →
    let rows : List (VMode × Instr) := [(.unit false, .vst v a k dt false), (.unit true, .vsto v a k dt false),
      (.strided b, .vsts v a b k dt), (.indexed x false, .vstx v a x k dt), (.indexed x true, .vstxo v a x k dt),
      (.coord b, .vstc v a b k dt)]
    ∀ r ∈ rows, s.vmemChecks r.1 = none →
      (s.me.vl.toNat ≤ s.me.vstart.toNat → s.Becomes r.2 ({ s.me with vstart := 0 } : Strand).retire)
      ∧ ∀ l, s.me.vstart.toNat < s.me.vl.toNat → s.places r.1 a k true = .ok l →
        let w := fmtBits s.me.df
        let c := scanElems (s.checkElem (accVec true r.1.ordered) (if w < 8 then 1 else w / 8) w) [] l
        let all := c.1.flatMap Passed.pieces
        let bad (line : Nat) : Prop := ∃ e ∈ c.1, s.me.elemPoison v s.me.df e.idx = true
          ∧ ∃ p ∈ e.pieces, ∃ q ∈ p.place.addrs, q / 64 = line
        let stored (n : Word) : Prop := ∃ t, exec r.2 s = .next t ∧ c.1.map Passed.idx = (l.map Prod.fst).take c.1.length
          ∧ (∀ m, (∀ q ∈ all, q.reaches m = false) → (∀ e ∈ c.1, ∀ al ∈ e.allocs, al.keeps m) → t.readByte m = s.readByte m)
          ∧ (∀ e ∈ c.1, ∀ q m, 8 ≤ w → e.pieces = bytePieces q (w / 8) → m < w / 8 →
              (q + m < scratchBase → s.region (q + m) ≠ none) →
              (∀ e' ∈ c.1, e'.idx ≠ e.idx → ∀ p ∈ e'.pieces, p.reaches (q + m) = false) →
              t.readByte (q + m) = BitVec.ofNat 8 (s.me.elem v s.me.df e.idx / 2 ^ (8 * m)))
          ∧ (∀ line, bad line → t.poison.get false line = true)
          ∧ (∀ line, t.poison.get false line = true → s.poison.get false line = true ∨ bad line)
          ∧ t.me.v = s.me.v ∧ t.me.vp = s.me.vp ∧ t.me.k = s.me.k ∧ t.me.e = s.me.e ∧ (∀ g, t.me.getG g = s.me.getG g)
          ∧ ({ s.me with vl := n } : Strand).VectorAdvances t.me ∧ ∀ m, m ≠ s.cur → t.strand m = s.strand m
        (s.piecesWait all (some s.cur) = false → s.preemptDue s.cur = false →
          (c.2 = none → stored s.me.vl)
          ∧ ∀ j, c.1 ≠ [] → ((∃ f u, c.2 = some (.fail j f u)) ∨ c.2 = some (.pins j)) → stored (BitVec.ofNat 64 j))
        ∧ ∀ j f u, c.1 = [] → c.2 = some (.fail j f u) → f.recorded = false → s.OwnTrap f.cause →
            ∃ t, exec r.2 s = .next t ∧ ({ s.me with vstart := BitVec.ofNat 64 j } : Strand).Entered t.me f.cause u s.me.pc
              ∧ s.OnlyStrand s.cur t ∧ s.MemoryKept t

/-- R205: scale bytes move between a scale register and memory, byte j at ga + j times the stride, from byte vstart up; stated of
scratchpad addresses, and where no pre-emption is free to stop it. A byte beyond the scratchpad trims vl to BL times its number
(R203), or, where it is the first, traps with cause 0x06 (R89); with vstart at or above the count the instruction retires
(R191). -/
def Obligations.ScaleMoves : Prop :=
  ∀ (s : State) (e : EReg) (a b : GReg), s.Settled → s.me.space = 1 → s.me.scaleCount ≤ 4096 →
    let at_ (step : Word) (j : Nat) := (s.me.getG a + BitVec.ofNat 64 j * step).toNat
    let place (step : Word) (j : Nat) := scratchAddr (coreOf s.cur) (at_ step j)
    let loads : List (Instr × Word) := [(.vlde e a, 1), (.vldes e a b, s.me.getG b)]
    let stores : List (Instr × Word) := [(.vste e a, 1), (.vstes e a b, s.me.getG b)]
    (s.me.scaleCount ≤ s.me.vstart.toNat → ∀ r ∈ loads ++ stores, s.Becomes r.1 ({ s.me with vstart := 0 } : Strand).retire)
    ∧ (s.me.vstart.toNat < s.me.scaleCount → s.OwnTrap 6 → ∀ r ∈ loads ++ stores, 2097152 ≤ at_ r.2 s.me.vstart.toNat →
        s.Traps r.1 6 (s.me.getG a + s.me.vstart * r.2))
    ∧ ∀ (m : Nat) (n : Word), s.me.vstart.toNat < m → s.preemptDue s.cur = false →
      let moved (j : Nat) : Prop := s.me.vstart.toNat ≤ j ∧ j < m
      let ends (step : Word) : Prop := (m = s.me.scaleCount ∧ n = s.me.vl)
        ∨ (m < s.me.scaleCount ∧ 2097152 ≤ at_ step m ∧ n = BitVec.ofNat 64 (s.me.bl * m))
      let fine (step : Word) : Prop := ∀ j, moved j → at_ step j < 2097152
      let apart (step : Word) : Prop := ∀ i j, moved i → moved j → at_ step i = at_ step j → i = j
      (∀ r ∈ loads, fine r.2 → ends r.2 → (∀ j, moved j → s.poisoned (place r.2 j) = false) →
          ∃ t, exec r.1 s = .next t ∧ (∀ j, moved j → t.me.e.get 0 (4096 * e.val + j) = s.readByte (place r.2 j))
            ∧ (∀ q, (∀ j, moved j → q ≠ 4096 * e.val + j) → t.me.e.get 0 q = s.me.e.get 0 q)
            ∧ t.me.v = s.me.v ∧ t.me.k = s.me.k ∧ (∀ g, t.me.getG g = s.me.getG g)
            ∧ ({ s.me with vl := n } : Strand).VectorAdvances t.me ∧ s.Local s.cur t)
      ∧ ∀ r ∈ stores, fine r.2 → ends r.2 → apart r.2 →
          ∃ t, exec r.1 s = .next t ∧ (∀ j, moved j → t.readByte (place r.2 j) = s.me.e.get 0 (4096 * e.val + j))
            ∧ (∀ q, (∀ j, moved j → q ≠ place r.2 j) → t.readByte q = s.readByte q)
            ∧ t.me.e = s.me.e ∧ t.me.v = s.me.v ∧ (∀ g, t.me.getG g = s.me.getG g)
            ∧ ({ s.me with vl := n } : Strand).VectorAdvances t.me ∧ ∀ q, q ≠ s.cur → t.strand q = s.strand q

/-- R206, R207: a vector atomic on scratchpad words that no two active elements share returns each old value and leaves the new
one; stated of 32-bit integers, and where no pre-emption is free to stop it. An active element out of the scratchpad trims vl to
its index (R203), or, where it is the first, traps with cause 0x06 and vstart its index (R89); with vstart at or above vl the
instruction retires (R191). -/
def Obligations.VectorAtomics : Prop :=
  ∀ (s : State) (v x : VReg) (a : GReg) (k : KReg) (dt : Bool), s.Settled → s.me.Clean → s.me.space = 1 → s.me.df = 2 → s.me.bf = 2 →
    s.tooLong [2] = false →
    let addr (i : Nat) := s.me.getG a + BitVec.ofInt 64 (intValue 2 (s.me.elem x 2 i) * 4)
    let place (i : Nat) := scratchAddr (coreOf s.cur) (addr i).toNat
    let old (i : Nat) := s.readNum (place i) 4
    let op (i : Nat) := s.me.elem v 2 i
    let rows : List (Instr × (Nat → Nat)) :=
      [(.vatadd v a x k dt, fun i => (old i + op i) % 2 ^ 32), (.vatswap v a x k dt, op),
       (.vatand v a x k dt, fun i => old i &&& op i), (.vator v a x k dt, fun i => old i ||| op i),
       (.vatmin v a x k dt, fun i => if intValue 2 (op i) < intValue 2 (old i) then op i else old i),
       (.vatmax v a x k dt, fun i => if intValue 2 (old i) < intValue 2 (op i) then op i else old i)]
    (s.me.vl.toNat ≤ s.me.vstart.toNat → ∀ r ∈ rows, s.Becomes r.1 ({ s.me with vstart := 0 } : Strand).retire)
    ∧ (∀ i, s.me.Active k i → (∀ j, j < i → ¬ s.me.Active k j) → (addr i).toNat % 4 = 0 → 2097152 ≤ (addr i).toNat → s.OwnTrap 6 →
        ∀ r ∈ rows, ∃ t, exec r.1 s = .next t ∧ ({ s.me with vstart := BitVec.ofNat 64 i } : Strand).Entered t.me 6 (addr i) s.me.pc
          ∧ s.OnlyStrand s.cur t ∧ s.MemoryKept t)
    ∧ ∀ m, s.me.vstart.toNat < s.me.vl.toNat → s.preemptDue s.cur = false →
      let acts (i : Nat) : Prop := s.me.Active k i ∧ i < m
      (m = s.me.vl.toNat ∨ (∃ i, acts i) ∧ s.me.Active k m ∧ (addr m).toNat % 4 = 0 ∧ 2097152 ≤ (addr m).toNat) →
      (∀ i, acts i → (addr i).toNat % 4 = 0 ∧ (addr i).toNat + 4 ≤ 2097152 ∧ s.poisoned (place i) = false) →
      (∀ i j, acts i → acts j → addr i = addr j → i = j) →
      ∀ r ∈ rows, ∃ t, exec r.1 s = .next t
        ∧ (∀ i, i < vlmax 2 → (acts i → t.me.elem v 2 i = old i) ∧ (¬ acts i → t.me.elem v 2 i = s.me.elem v 2 i))
        ∧ (∀ i, acts i → t.readNum (place i) 4 = r.2 i)
        ∧ (∀ n, (∀ i, acts i → n < place i ∨ place i + 4 ≤ n) → t.readByte n = s.readByte n)
        ∧ (∀ g, t.me.getG g = s.me.getG g) ∧ t.me.k = s.me.k
        ∧ ({ s.me with vl := BitVec.ofNat 64 m } : Strand).VectorAdvances t.me ∧ ∀ n, n ≠ s.cur → t.strand n = s.strand n

/-! ## Vector arithmetic -/

/-- R217: the integer-value family: every active element gets the exact result, wrapped, or clamped under SAT or always. -/
def Obligations.VectorIntegers : Prop :=
  ∀ (s : State) (v a : VReg) (b : VSrc) (k : KReg) (dt : Bool), s.Settled →
    let x := s.me
    x.intFormats = true → s.VectorReady (fmts2 x b true) →
    let p (i : Nat) := intValue x.af (x.elem a x.af i)
    let q (i : Nat) := intValue x.bf (x.operand2 b x.bf false i)
    let pu (i : Nat) : Int := x.elem a x.af i
    let qu (i : Nat) : Int := x.operand2 b x.bf false i
    let d (i : Nat) := intValue x.df (x.elem v x.df i)
    let w := fmtBits x.df
    let byZero (n : Int) : Int := if n < 0 then intMin x.df else intMax x.df
    let rows : List (Instr × Bool × (Nat → Int)) :=
      [(.vadd v a b k dt, x.sat, fun i => p i + q i), (.vsub v a b k dt, x.sat, fun i => p i - q i),
       (.vmul v a b k dt, x.sat, fun i => p i * q i), (.vmulhs v a b k dt, false, fun i => p i * q i / 2 ^ w),
       (.vmulhu v a b k dt, false, fun i => pu i * qu i / 2 ^ w),
       (.vmuladd v a b k dt, x.sat, fun i => d i + p i * q i), (.vmulsub v a b k dt, x.sat, fun i => d i - p i * q i),
       (.vmin v a b k dt, x.sat, fun i => if q i < p i then q i else p i),
       (.vmax v a b k dt, x.sat, fun i => if p i < q i then q i else p i),
       (.vminu v a b k dt, x.sat, fun i => if qu i < pu i then qu i else pu i),
       (.vmaxu v a b k dt, x.sat, fun i => if pu i < qu i then qu i else pu i),
       (.vaddsat v a b k dt, true, fun i => p i + q i), (.vsubsat v a b k dt, true, fun i => p i - q i),
       (.vquot v a b k dt, x.sat, fun i => if q i = 0 then byZero (p i) else (p i).tdiv (q i)),
       (.vquotu v a b k dt, x.sat, fun i => if qu i = 0 then intMax x.df else (pu i).tdiv (qu i)),
       (.vmod v a b k dt, x.sat, fun i => if q i = 0 then p i else p i - q i * (p i).tdiv (q i)),
       (.vmodu v a b k dt, x.sat, fun i => if qu i = 0 then pu i else pu i - qu i * (pu i).tdiv (qu i))]
    ∀ r ∈ rows, s.VectorWrites r.1 v x.df (x.lanes k v fun i =>
      ((if r.2.1 then clampInt x.df (r.2.2 i) else r.2.2 i) % 2 ^ w).toNat)

/-- R218: bitwise instructions and shifts on the bits of active elements; a shift takes the low log2(w) bits of its amount. -/
def Obligations.VectorBits : Prop :=
  ∀ (s : State) (v a : VReg) (b : VSrc) (k : KReg) (dt : Bool), s.Settled →
    let x := s.me
    s.VectorReady (fmts2 x b true) →
    let w := fmtBits x.df
    let p (i : Nat) := x.elem a x.af i
    let q (i : Nat) := x.operand2 b x.bf false i
    let n (i : Nat) := x.operand2 b x.bf true i % w
    let bitRows : List (Instr × (Nat → Nat)) :=
      [(.vand v a b k dt, fun i => p i &&& q i), (.vor v a b k dt, fun i => p i ||| q i), (.vxor v a b k dt, fun i => p i ^^^ q i),
       (.vandn v a b k dt, fun i => p i &&& (2 ^ w - 1 - q i))]
    let shiftRows : List (Instr × (Nat → Nat)) :=
      [(.vshl v a b k dt, fun i => p i * 2 ^ n i), (.vshr v a b k dt, fun i => p i / 2 ^ n i),
       (.vsar v a b k dt, fun i => (twos w (p i) / 2 ^ n i % 2 ^ w).toNat),
       (.vrol v a b k dt, fun i => p i * 2 ^ n i % 2 ^ w + p i / 2 ^ (w - n i))]
    (x.bitFormats = true → ∀ r ∈ bitRows, s.VectorWrites r.1 v x.df (x.lanes k v r.2))
    ∧ (x.shiftFormats = true → ∀ r ∈ shiftRows, s.VectorWrites r.1 v x.df (x.lanes k v r.2))

/-- R219, R220, R221: floating-point results of active elements, each rounded once to DF, and sign injection. -/
def Obligations.VectorFloats : Prop :=
  ∀ (s : State) (v a : VReg) (b : VSrc) (k : KReg) (dt : Bool), s.Settled →
    let x := s.me
    let p (i : Nat) := decodeFloat x.af (x.elem a x.af i)
    let q (i : Nat) := decodeFloat x.bf (x.operand2 b x.bf false i)
    let d (i : Nat) := decodeFloat x.df (x.elem v x.df i)
    let n := fmtBits x.df - 1
    let pc (i : Nat) := x.elem a x.af i
    let qc (i : Nat) := x.operand2 b x.bf false i
    let two : List (Instr × (Nat → ExactNum)) :=
      [(.vfadd v a b k dt, fun i => ExactNum.add x.rm (p i) (q i)), (.vfsub v a b k dt, fun i => ExactNum.add x.rm (p i) (q i).minus),
       (.vfmul v a b k dt, fun i => ExactNum.mul (p i) (q i)), (.vfdiv v a b k dt, fun i => ExactNum.div (p i) (q i)),
       (.vfmuladd v a b k dt, fun i => ExactNum.fma x.rm (p i) (q i) (d i)), (.vfmulsub v a b k dt, fun i => ExactNum.fms x.rm (p i) (q i) (d i)),
       (.vfmin v a b k dt, fun i => ExactNum.pick true (p i) (q i)), (.vfmax v a b k dt, fun i => ExactNum.pick false (p i) (q i))]
    let one : List (Instr × (Nat → ExactNum)) :=
      [(.vfsqrt v a k dt, fun i => ExactNum.sqrt (p i)), (.vfrec v a k dt, fun i => ExactNum.recip (p i)),
       (.vfrsq v a k dt, fun i => ExactNum.rsqrt (p i)), (.vfexp v a k dt, fun i => ExactNum.exp2 (p i)), (.vflog v a k dt, fun i => ExactNum.log2 (p i))]
    let signs : List (Instr × (Nat → Bool)) :=
      [(.vfsetsign v a b k dt, fun i => bit (qc i) n), (.vfnegsign v a b k dt, fun i => !bit (qc i) n),
       (.vfxorsign v a b k dt, fun i => bit (pc i) n != bit (qc i) n)]
    (x.floatFormats = true → s.VectorReady (fmts2 x b true) → ∀ r ∈ two,
      s.VectorWrites r.1 v x.df (x.lanes k v fun i => encodeFloat x.df (.rm x.rm) x.sat (r.2 i)))
    ∧ (x.float1Formats = true → s.VectorReady [x.af, x.df] → ∀ r ∈ one,
      s.VectorWrites r.1 v x.df (x.lanes k v fun i => encodeFloat x.df (.rm x.rm) x.sat (r.2 i)))
    ∧ (x.signFormats = true → s.VectorReady (fmts2 x b true) → ∀ r ∈ signs,
      s.VectorWrites r.1 v x.df (x.lanes k v fun i => pc i % 2 ^ n + (r.2 i).toNat * 2 ^ n))

/-- R222: compares write one bit for each active element to the mask kd, and no other bit. -/
def Obligations.VectorCompares : Prop :=
  ∀ (s : State) (kd : KReg) (a : VReg) (b : VSrc) (k : KReg) (dt : Bool), s.Settled →
    let x := s.me
    s.VectorReady (fmts2 x b false) →
    let p (i : Nat) := intValue x.af (x.elem a x.af i)
    let q (i : Nat) := intValue x.bf (x.operand2 b x.bf false i)
    let pu (i : Nat) := x.elem a x.af i
    let qu (i : Nat) := x.operand2 b x.bf false i
    let fp (i : Nat) := decodeFloat x.af (pu i)
    let fq (i : Nat) := decodeFloat x.bf (qu i)
    let ints : List (Instr × (Nat → Bool)) :=
      [(.vceq kd a b k dt, fun i => p i = q i), (.vcne kd a b k dt, fun i => p i ≠ q i), (.vclt kd a b k dt, fun i => p i < q i),
       (.vcle kd a b k dt, fun i => p i ≤ q i), (.vcltu kd a b k dt, fun i => pu i < qu i), (.vcleu kd a b k dt, fun i => pu i ≤ qu i)]
    let floats : List (Instr × (Nat → Bool)) :=
      [(.vfceq kd a b k dt, fun i => (fp i).eq (fq i)), (.vfcne kd a b k dt, fun i => !(fp i).eq (fq i)),
       (.vfclt kd a b k dt, fun i => (fp i).lt (fq i)), (.vfcle kd a b k dt, fun i => (fp i).lt (fq i) || (fp i).eq (fq i)),
       (.vfcun kd a b k dt, fun i => (fp i).isNan || (fq i).isNan)]
    (x.intCompare = true → ∀ r ∈ ints, s.MaskWrites r.1 kd (x.bits k kd r.2))
    ∧ (x.floatCompare = true → ∀ r ∈ floats, s.MaskWrites r.1 kd (x.bits k kd r.2))

/-- R223 to R225: selection, moves, conversion and the narrow formats; under SR a narrow result is rounded stochastically (R58). -/
def Obligations.VectorMoves : Prop :=
  ∀ (s : State) (v a : VReg) (b : VSrc) (e : EReg) (k : KReg) (dt : Bool), s.Settled →
    let x := s.me
    let gen := advanceX (s.core (coreOf s.cur)).x
    let some_ := decide ((x.actives k) ≠ [])
    let c (i : Nat) := x.elem a x.af i
    let how (narrow : Bool) (i : Nat) : How := if x.sr && narrow && some_ then .stoch (randomOf gen i) else .rm x.rm
    (x.moveFormats = true → s.VectorReady [x.df] →
      s.VectorWrites (.vsel v a b k dt) v x.df (fun i => if x.vstart.toNat ≤ i ∧ i < x.vl.toNat then
          (if x.getK k i then x.operand2 b x.df false i else x.elem a x.df i) else x.elem v x.df i)
      ∧ s.VectorWrites (.vmove v b k dt) v x.df (x.lanes k v (x.operand2 b x.df false)))
    ∧ (x.convertFormats = true → s.VectorReady [x.af, x.df] →
      s.VectorWrites (.vcvt v a k dt) v x.df (x.lanes k v fun i =>
        if x.af = x.df then c i else convert x.af x.df (how (x.df == 4 || x.df == 5) i) x.rm x.sat (c i)))
    ∧ (x.quantFormats = true → x.scalesFit = true → s.VectorReady [x.af, x.df] →
      s.VectorWrites (.vquant v a e k dt) v x.df (x.lanes k v fun i =>
        quantise (x.scaleOf e i / 64) (x.scaleOf e i % 64) (how true i) (decodeFloat x.af (c i))))
    ∧ (x.dequantFormats = true → x.scalesFit = true → s.VectorReady [x.af, x.df] →
      s.VectorWrites (.vdequant v a e k dt) v x.df (x.lanes k v fun i =>
        encodeFloat x.df (.rm x.rm) x.sat (dequantise (x.scaleOf e i / 64) (x.scaleOf e i % 64) (c i))))

/-- R226, R227: vpack writes the scale byte of every block below vl and the codes of the active elements under it; vbdot adds the
dot product of every block to element 0. -/
def Obligations.BlockFormats : Prop :=
  ∀ (s : State) (v a b : VReg) (ty : BitVec 2) (e : EReg) (k : KReg) (dt : Bool), s.Settled → s.me.vstart = 0 →
    let x := s.me
    let is := x.actives k
    let scale := x.packScale a is ty.toNat
    let st := x.sr && decide (is ≠ [])
    let gen := advanceX (s.core (coreOf s.cur)).x
    (x.quantFormats = true → x.scalesFit = true → s.VectorReady [x.af, x.df] →
      ∃ t, exec (.vpack v a ty e k dt) s = .next t
        ∧ (∀ j, j < ceilDiv x.vl.toNat x.bl → t.me.e.get 0 (4096 * e.val + j) = BitVec.ofNat 8 (scale j))
        ∧ (∀ n, (n < 4096 * e.val ∨ 4096 * e.val + ceilDiv x.vl.toNat x.bl ≤ n) → t.me.e.get 0 n = x.e.get 0 n)
        ∧ (∀ i, i < vlmax 9 → t.me.elem v 9 i = x.lanes k v (fun i =>
            quantise ty.toNat (scale (i / x.bl) % 64) (if st then .stoch (randomOf gen i) else .rm x.rm)
              (decodeFloat x.af (x.elem a x.af i))) i % 16)
        ∧ s.me.VectorAdvances t.me ∧ s.Local s.cur t)
    ∧ (dotPair x.af x.bf = true → s.VectorReady [x.af, x.bf] → is ≠ [] →
      (isInt x.af = true → x.df = 2 → s.VectorWrites (.vbdot v a b k dt) v 2 (x.first v
        (intDot x.sat (x.elem v 2 0) (is.map fun i => (intValue x.af (x.elem a x.af i), intValue x.bf (x.elem b x.bf i))))))
      ∧ (isInt x.af = false → x.df = 8 → x.scalesFit = true → s.VectorWrites (.vbdot v a b k dt) v 8 (x.first v
        ((List.range (ceilDiv x.vl.toNat x.bl)).foldl (x.dotBlock a b is) (x.elem v 8 0)))))

/-- R208, R209, R210: permutation within registers. -/
def Obligations.Permutations : Prop :=
  ∀ (s : State) (v a : VReg) (b : VSrc) (k : KReg) (dt : Bool), s.Settled →
    let x := s.me
    let o := x.offset2 b
    let sel := x.selected k
    x.moveFormats = true → s.VectorReady [x.df] →
    s.VectorWrites (.vlift v a b k dt) v x.df (x.lanes k v fun i => if o ≤ i then x.elem a x.df (i - o) else x.elem v x.df i)
    ∧ s.VectorWrites (.vdrop v a b k dt) v x.df (x.lanes k v fun i => if i + o < x.vl.toNat then x.elem a x.df (i + o) else 0)
    ∧ ((∀ r, b ≠ .vv r) → s.VectorWrites (.vpick v a b k dt) v x.df (x.lanes k v fun _ => if o < x.vl.toNat then x.elem a x.df o else 0))
    ∧ (∀ r, b = .vv r → isInt x.bf = true → s.VectorReady [x.df, x.bf] → s.VectorWrites (.vpick v a b k dt) v x.df (x.lanes k v fun i =>
        let j := (BitVec.ofInt 64 (intValue x.bf (x.elem r x.bf i))).toNat
        if j < x.vl.toNat then x.elem a x.df j else 0))
    ∧ (isInt x.df = true → s.VectorWrites (.vindex v k dt) v x.df (x.lanes k v fun i => i))
    ∧ (x.vstart = 0 →
        s.VectorWrites (.vsqueeze v a k dt) v x.df (fun j => match sel[j]? with
          | some i => x.elem a x.df i
          | none => x.elem v x.df j)
        ∧ s.VectorWrites (.vspread v a k dt) v x.df (fun i => if i < x.vl.toNat ∧ x.getK k i = true
            then x.elem a x.df ((List.range i).countP fun j => x.getK k j) else x.elem v x.df i))

/-- R210 to R212: conflict detection, mask instructions and mask scans. -/
def Obligations.MaskInstructions : Prop :=
  ∀ (s : State) (d : GReg) (v a : VReg) (kd ka kb k : KReg) (dt : Bool), s.Settled →
    let x := s.me
    let last (i : Nat) := ((List.range i).filter fun j => x.getK k j && x.elem a x.bf j == x.elem a x.bf i).getLast?
    let each (f : Bool → Bool → Bool) (i : Nat) : Bool :=
      if x.vstart.toNat ≤ i ∧ i < x.vl.toNat then f (x.getK ka i) (x.getK kb i) else x.getK kd i
    (x.vstart = 0 → isInt x.bf = true → s.VectorReady [x.df, x.bf] → x.df ∈ [2, 3, 0xC, 0xD] →
      s.VectorWrites (.vconf v a k dt) v x.df (x.lanes k v fun i => (last i).getD (2 ^ fmtBits x.df - 1)))
    ∧ (x.vstart = 0 → isInt x.bf = true → s.VectorReady [x.bf] → s.MaskWrites (.vconfm kd a k dt) kd (x.bits k kd fun i => (last i).isNone))
    ∧ (x.moveFormats = true → s.VectorReady [x.df] →
      s.MaskWrites (.kand kd ka kb) kd (each fun p q => p && q) ∧ s.MaskWrites (.kor kd ka kb) kd (each fun p q => p || q)
      ∧ s.MaskWrites (.kxor kd ka kb) kd (each fun p q => p != q) ∧ s.MaskWrites (.kandn kd ka kb) kd (each fun p q => p && !q))
    ∧ (x.moveFormats = true → x.vstart = 0 → s.tooLong [x.df] = false →
      s.Writes (.kpop d ka) d (BitVec.ofNat 64 ((List.range x.vl.toNat).countP fun i => x.getK ka i))
      ∧ s.Writes (.kfirst d ka) d (match (List.range x.vl.toNat).find? fun i => x.getK ka i with
        | some i => BitVec.ofNat 64 i
        | none => BitVec.allOnes 64))

/-- R69, R70, R228: reductions leave the result in element 0 of vd and every other element as it was. Which operand of an addition
comes first in R50's order of NaNs, so which of two NaNs counts in vfrsum and vfrosum, is log 62, the model's reading. -/
def Obligations.Reductions : Prop :=
  ∀ (s : State) (v a : VReg) (k : KReg) (dt : Bool), s.Settled → s.me.vstart = 0 → s.me.actives k ≠ [] →
    let x := s.me
    let is := x.actives k
    s.VectorReady [x.af] →
    let si := is.map fun i => intValue x.af (x.elem a x.af i)
    let ui : List Int := is.map fun i => (x.elem a x.af i : Int)
    let cs := is.map fun i => x.elem a x.af i
    let d0 := intValue x.df (x.elem v x.df 0)
    let u0 : Int := x.elem v x.df 0
    let f0 := decodeFloat x.df (x.elem v x.df 0)
    let tree (f : ExactNum → ExactNum → ExactNum) := treeOf f 16 ((List.range x.vl.toNat).map fun i =>
      if x.getK k i then some (decodeFloat x.af (x.elem a x.af i)) else none)
    let rnd (n : ExactNum) := encodeFloat x.df (.rm x.rm) x.sat n
    let ints : List (Instr × Int) :=
      [(.vrsum v a k dt, si.foldl (· + ·) d0), (.vrmin v a k dt, si.foldl (fun p q => if q < p then q else p) d0),
       (.vrmax v a k dt, si.foldl (fun p q => if p < q then q else p) d0),
       (.vrminu v a k dt, ui.foldl (fun p q => if q < p then q else p) u0),
       (.vrmaxu v a k dt, ui.foldl (fun p q => if p < q then q else p) u0)]
    let bitRows : List (Instr × Nat) :=
      [(.vrand v a k dt, cs.foldl (· &&& ·) (x.elem v x.df 0)), (.vror v a k dt, cs.foldl (· ||| ·) (x.elem v x.df 0)),
       (.vrxor v a k dt, cs.foldl (· ^^^ ·) (x.elem v x.df 0))]
    (isInt x.af = true → isInt x.df = true →
      (∀ r ∈ ints, s.VectorWrites r.1 v x.df (x.first v (putInt x.df x.sat r.2)))
      ∧ (fmtBits x.af = fmtBits x.df → ∀ r ∈ bitRows, s.VectorWrites r.1 v x.df (x.first v r.2)))
    ∧ (x.float1Formats = true →
      (∀ n, tree (fun p q => decodeFloat x.df (rnd (ExactNum.add x.rm p q))) = some n →
        s.VectorWrites (.vfrsum v a k dt) v x.df (x.first v (rnd (ExactNum.add x.rm f0 n))))
      ∧ s.VectorWrites (.vfrosum v a k dt) v x.df (x.first v
          (cs.foldl (fun acc c => rnd (ExactNum.add x.rm (decodeFloat x.df acc) (decodeFloat x.af c))) (x.elem v x.df 0)))
      ∧ (∀ n, tree (ExactNum.pick true) = some n → s.VectorWrites (.vfrmin v a k dt) v x.df (x.first v (rnd (ExactNum.pick true f0 n))))
      ∧ (∀ n, tree (ExactNum.pick false) = some n → s.VectorWrites (.vfrmax v a k dt) v x.df (x.first v (rnd (ExactNum.pick false f0 n)))))

/-- R162, R229, R230: a computing instruction that needs a poisoned element is squashed: it traps with cause 0x09 and tval the
lowest such index, marks the groups it would have written, writes no element, and a damage record is counted; stated of vadd.
R384: an instruction that reads a general register with an uncorrectable error does the same with tval 0, and the register is
then zero; stated of add. R231, R232: under the recheck the candidate Y mod m of the active elements is compared; no mismatch, or
one that the re-execution does not repeat, lets the instruction retire, MISM counting it and Y advancing; a second one marks the
destination, quarantines the lane group (R20, R21) and takes the machine check, cause 0x13; stated of vadd. Which candidates the
lanes get wrong is the environment's (log 67). -/
def Obligations.PoisonConsumed : Prop :=
  (∀ (s : State) (v a : VReg) (g : GReg) (k : KReg) (dt : Bool) (i : Nat), s.Settled → s.me.intFormats = true →
     s.tooLong [s.me.af, s.me.df] = false → s.me.Active k i → s.me.elemPoison a s.me.af i = true →
     (∀ j, j < i → s.me.Active k j → s.me.elemPoison a s.me.af j = false) → s.OwnTrap 9 →
     (s.die (dieOf s.cur)).dmLog = none →
       ∃ t, exec (.vadd v a (.vs g) k dt) s = .next t ∧ t.me.v = s.me.v ∧ t.me.tcause = 9 ∧ t.me.tval = BitVec.ofNat 64 i
         ∧ t.me.tpc = s.me.pc ∧ t.me.instret = s.me.instret ∧ (∀ j, s.me.Active k j → t.me.elemPoison v s.me.df j = true)
         ∧ (t.die (dieOf s.cur)).dmseq = (s.die (dieOf s.cur)).dmseq + 1 ∧ s.MemoryKept t
         ∧ (∀ r, t.me.getG r = s.me.getG r) ∧ ∀ n, n ≠ s.cur → t.strand n = s.strand n)
  ∧ (∀ (s : State) (d a b : GReg), s.Settled → s.me.held = false → a ≠ 0 → RegName.g a.val ∈ s.me.badRegs → s.OwnTrap 9 →
       (s.die (dieOf s.cur)).dmLog = none →
       ∃ t, execWord (BitVec.ofNat 32 (encA 0x01 d a b 0x000)) s = .next t ∧ t.me.tcause = 9 ∧ t.me.tval = 0 ∧ t.me.tpc = s.me.pc
         ∧ t.me.instret = s.me.instret ∧ t.me.getG a = 0 ∧ (∀ r, r ≠ a → t.me.getG r = s.me.getG r) ∧ RegName.g a.val ∉ t.me.badRegs
         ∧ (t.die (dieOf s.cur)).dmseq = (s.die (dieOf s.cur)).dmseq + 1
         ∧ (t.die (dieOf s.cur)).memerrU = satAdd (s.die (dieOf s.cur)).memerrU 1
         ∧ s.MemoryKept t ∧ ∀ n, n ≠ s.cur → t.strand n = s.strand n)
  ∧ ∀ (s : State) (v a : VReg) (g : GReg) (k : KReg) (dt : Bool), s.Settled → s.me.intFormats = true →
      s.tooLong [s.me.af, s.me.df] = false → s.me.Clean → s.me.actives k ≠ [] → (s.core (coreOf s.cur)).recheck = true →
      let x := s.me
      let c := s.core (coreOf s.cur)
      let n := x.mismatches (c.y.toNat % (x.actives k).length)
      let p (i : Nat) := intValue x.af (x.elem a x.af i) + intValue x.bf (x.operand2 (.vs g) x.bf false i)
      let q := x.upsetGroup % 8
      let lane : BitVec 8 := BitVec.ofNat 8 (2 ^ q)
      let mism (t : State) : Prop := (t.die (dieOf s.cur)).mism = satAdd (s.die (dieOf s.cur)).mism n
      (n ≤ 1 → ∃ t, exec (.vadd v a (.vs g) k dt) s = .next t ∧ mism t
        ∧ (t.core (coreOf s.cur)).y = (if c.y.getLsbD 0 then (c.y >>> 1) ^^^ 0x80200003 else c.y >>> 1)
        ∧ (∀ j, j < vlmax x.df → t.me.elem v x.df j = x.lanes k v (fun i =>
            ((if x.sat then clampInt x.df (p i) else p i) % 2 ^ fmtBits x.df).toNat) j % 2 ^ fmtBits x.df)
        ∧ x.VectorAdvances t.me ∧ s.Local s.cur t)
      ∧ (n = 2 → s.OwnTrap 0x13 → (s.die (dieOf s.cur)).dmLog = none → ∃ t, exec (.vadd v a (.vs g) k dt) s = .next t ∧ mism t
        ∧ t.me.tcause = 0x13 ∧ t.me.tpc = x.pc ∧ t.me.vstart = x.vstart ∧ t.me.instret = x.instret
        ∧ (∀ j, x.Active k j → t.me.elemPoison v x.df j = true)
        ∧ (t.core (coreOf s.cur)).quar = c.quar ||| lane ∧ (t.core (coreOf s.cur)).own (s.cur % 2) = c.own (s.cur % 2) &&& ~~~ lane
        ∧ (t.core (coreOf s.cur)).y = c.y
        ∧ (t.die (dieOf s.cur)).quars = satAdd (s.die (dieOf s.cur)).quars 1
        ∧ (t.die (dieOf s.cur)).dmseq = (s.die (dieOf s.cur)).dmseq + 1
        ∧ (x.inFarm = true → ∀ f, (s.die (dieOf s.cur)).farms.get none x.fctx = some f →
            (t.die (dieOf s.cur)).farms.get none x.fctx
              = some { f with
                  mask := f.mask &&& ~~~ (BitVec.ofNat 32 (2 ^ (coreOf s.cur % 32)))
                  cleared := f.cleared ||| BitVec.ofNat 32 (2 ^ (coreOf s.cur % 32)) })
        ∧ (∀ r, t.me.getG r = x.getG r) ∧ s.MemoryKept t ∧ ∀ m, m ≠ s.cur → t.strand m = s.strand m)

/-! ## Tiles and the matrix engine -/

/-- R236, R237, every mode: where the configuration and every element's check pass, nothing waits and no pre-emption is free to stop
it between rows (R241), a tile load puts the bytes of each place into its element and marks a row that line poison reaches, and a tile store changes no byte outside its places and
the fills of ZERO sub-tiles, a poisoned row poisoning its lines (R199). Where an element fails, the rows below its own perform,
vstart is its row and its failure traps; stated of a failure that calls for no fault record. R238: a tile and a vector register
exchange R x C elements with the poison of their sources, and vl and vtype play no part; that vstart plays none either, and stays,
is log 29, the model's reading. -/
def Obligations.TileTransfers : Prop :=
  (∀ (s : State) (u : TReg) (a b : GReg) (l : List (Nat × Where)), s.Settled → tileValid (s.me.tile u.val) = true →
     let c := s.me.tile u.val
     let w := fmtBits (tileFmt c)
     let loads : List (TMode × Instr) := [(.unit, .tld u a), (.strided b, .tlds u a b), (.coord b, .tldc u a b)]
     let stores : List (TMode × Instr) := [(.unit, .tst u a), (.strided b, .tsts u a b), (.coord b, .tstc u a b)]
     let legal (m : TMode) : Prop := (m = .strided b → 8 ≤ w) ∧ (m = .coord b → (s.me.getG b).toNat ≠ 0 ∧ (s.me.getG b).toNat < 4294967296)
     let cols := tileCols c
     let size := tileRows c * cols
     let below (j : Nat) (l : List Passed) := l.filter fun e => e.idx / cols < j / cols
     let failing (f : Fail) (v : Word) (j : Nat) (x y : Strand) : Prop :=
       ({ x with vstart := BitVec.ofNat 64 (j / cols) } : Strand).Entered y f.cause v x.pc
     (∀ r ∈ loads, legal r.1 → s.tilePlaces r.1 u a false = .ok l → s.preemptDue s.cur = false →
       let e := scanElems (s.checkTile false w) [] l
       let loaded (done : List Passed) (q : State → Prop) : Prop :=
         s.piecesWait (done.flatMap Passed.pieces) (some s.cur) = false → ∃ t, exec r.2 s = .next t
           ∧ (∀ j, j < size → t.me.tileElem u j = match done.find? fun p => p.idx == j with
               | some p => s.readPieces p.pieces % 2 ^ w
               | none => s.me.tileElem u j)
           ∧ (let bad (row : Nat) : Prop := ∃ p ∈ done, (s.eccAll done).piecesPoisoned p.pieces = true ∧ p.idx / cols = row
              ∀ row, row < tileRows c → (bad row → t.me.rowPoisoned u row = true)
                ∧ (t.me.rowPoisoned u row = true → s.me.rowPoisoned u row = true ∨ bad row))
           ∧ t.me.v = s.me.v ∧ t.me.k = s.me.k ∧ t.me.e = s.me.e ∧ (∀ g, t.me.getG g = s.me.getG g)
           ∧ t = { s with strands := t.strands, dies := t.dies } ∧ (∀ m, m ≠ s.cur → t.strand m = s.strand m)
           ∧ s.MemoryKept t ∧ q t
       (e.2 = none → loaded e.1 fun t => s.me.VectorAdvances t.me)
       ∧ ∀ j f v, e.2 = some (.fail j f v) → f.recorded = false → s.OwnTrap f.cause →
           loaded (below j e.1) fun t => failing f v j { s.me with t := t.me.t, tp := t.me.tp } t.me)
     ∧ (s.Healthy → ∀ r ∈ stores, legal r.1 → s.tilePlaces r.1 u a true = .ok l → s.preemptDue s.cur = false →
       let e := scanElems (s.checkTile true w) [] l
       let stored (done : List Passed) (q : State → Prop) : Prop :=
         s.piecesWait (done.flatMap Passed.pieces) (some s.cur) = false → ∃ t, exec r.2 s = .next t
           ∧ (∀ n, (∀ z ∈ done.flatMap Passed.pieces, z.reaches n = false) → (∀ p ∈ done, ∀ al ∈ p.allocs, al.keeps n) →
               t.readByte n = s.readByte n)
           ∧ (∀ p ∈ done, ∀ z n, 8 ≤ w → p.pieces = bytePieces z (w / 8) → n < w / 8 →
               (z + n < scratchBase → s.region (z + n) ≠ none) →
               (∀ p' ∈ done, p'.idx ≠ p.idx → ∀ y ∈ p'.pieces, y.reaches (z + n) = false) →
               t.readByte (z + n) = BitVec.ofNat 8 (s.me.tileElem u p.idx / 2 ^ (8 * n)))
           ∧ (∀ p ∈ done, s.me.rowPoisoned u (p.idx / cols) = true → ∀ z ∈ p.pieces, ∀ n ∈ z.place.addrs,
               t.poison.get false (n / 64) = true)
           ∧ t.me.t = s.me.t ∧ t.me.v = s.me.v ∧ (∀ g, t.me.getG g = s.me.getG g) ∧ (∀ m, m ≠ s.cur → t.strand m = s.strand m) ∧ q t
       (e.2 = none → stored e.1 fun t => s.me.VectorAdvances t.me)
       ∧ ∀ j f v, e.2 = some (.fail j f v) → f.recorded = false → s.OwnTrap f.cause →
           (s.core (coreOf s.cur)).svcmode.getLsbD 0 = false → stored (below j e.1) fun t => failing f v j s.me t.me))
  ∧ (∀ (s : State) (u : TReg) (v : VReg), s.Settled →
       let c := s.me.tile u.val
       let f := tileFmt c
       let n := tileRows c * tileCols c
       tileValid c = true → n ≤ s.share s.cur f →
         (∃ t, exec (.tmv u v) s = .next t ∧ (∀ j, j < n → t.me.tileElem u j = s.me.elem v f j) ∧ t.me.v = s.me.v
           ∧ (∀ row, row < tileRows c → (t.me.rowPoisoned u row = true ↔ ∃ j, j < n ∧ j / tileCols c = row ∧ s.me.elemPoison v f j = true))
           ∧ (∀ g, t.me.getG g = s.me.getG g) ∧ t.me.vstart = s.me.vstart ∧ t.me.pc = s.me.pc + 4 ∧ s.Local s.cur t)
         ∧ (∃ t, exec (.vmvt v u) s = .next t ∧ (∀ j, j < n → t.me.elem v f j = s.me.tileElem u j)
           ∧ (∀ j, n ≤ j → j < vlmax f → t.me.elem v f j = s.me.elem v f j)
           ∧ (∀ j, j < n → s.me.rowPoisoned u (j / tileCols c) = true → t.me.elemPoison v f j = true)
           ∧ (∀ g, t.me.vp.get false g = true → s.me.vp.get false g = true
               ∨ ∃ j, j < n ∧ s.me.rowPoisoned u (j / tileCols c) = true ∧ g = 64 * v.val + egOf f j)
           ∧ (∀ v', v' ≠ v → ∀ f' j, j < vlmax f' → t.me.elem v' f' j = s.me.elem v' f' j) ∧ t.me.t = s.me.t
           ∧ (∀ g, t.me.getG g = s.me.getG g) ∧ t.me.vstart = s.me.vstart ∧ t.me.pc = s.me.pc + 4 ∧ s.Local s.cur t))

/-- R239, R240: where R239's conditions hold and no pre-emption is free to stop it between rows (R241), a matrix instruction writes
output (r, n) at element r x N + n, from row vstart up; mmac and mmacb start from vd, mmulb and mmacb take the scales of ea and
eb. -/
def Obligations.MatrixProducts : Prop :=
  ∀ (s : State) (v a : VReg) (u : TReg) (ea eb : EReg), s.Settled → s.me.Clean → s.preemptDue s.cur = false →
    (∀ c, s.me.mismatches c ≤ 1) →
    let x := s.me
    let c := x.tile u.val
    let rows := x.vl.toNat / tileRows c
    let cols := tileCols c
    let forms : List (Instr × Bool × Option (EReg × EReg)) :=
      [(.mmul v a u, false, none), (.mmac v a u, true, none), (.mmulb v a u ea eb, false, some (ea, eb)),
       (.mmacb v a u ea eb, true, some (ea, eb))]
    ∀ r ∈ forms, s.matrixLegal u r.2.2.isSome = true → x.vstart.toNat < rows → 0 < cols →
      s.VectorWrites r.1 v x.df (fun j => if j < rows * cols ∧ x.vstart.toNat ≤ j / cols
        then x.matrixOut v a u r.2.2 r.2.1 (j / cols) (j % cols) else x.elem v x.df j)

/-! ## Engine commands -/

/-- R243, R248 to R250 for the copy engine: with its fields in range, its descriptor readable and BAR and CREC passing, a command
enters its core's queue, and the strand goes on; with 64 commands queued it waits with the descriptor it has read and the pins it
has taken; the first field out of range traps with cause 0x06, tval its address. That a vsave's register bytes are read at its
issue, as a vxcore's are, is log 35, the model's reading of R249; no vrest of the strand that writes them is unfinished then. -/
def Obligations.CopyCommands : Prop :=
  ∀ (s u : State) (a : GReg) (sc : Scope) (acq rel : Bool) (ws : List Word), s.Settled →
    let da := s.me.getG a
    let n (i : Nat) := (wordAt ws i).toNat
    let w (i : Nat) := wordAt ws i
    let q := s.groups s.cur
    let r : VReg := Fin.ofNat 64 (n 0)
    let image (i : Nat) : Prop := n i % 64 = 0 ∧ isWindow (w i) = false
    let rows : List (Instr × CmdKind × Prop × List Prop × List Byte) :=
      [(.ocopy a sc acq rel, .ocopy, True,
        [True, True, 1 ≤ n 2 ∧ n 2 ≤ 2 ^ 40, True, True, n 5 < 2, w 6 = 0, w 7 = 0], []),
       (.ogather a sc acq rel, .ogather, True,
        [True, True, 1 ≤ n 2 ∧ n 2 ≤ 2 ^ 20, True, True, n 5 % 4 = 0, 1 ≤ n 6 ∧ n 6 ≤ 65536, n 7 < 2], []),
       (.vsave a sc acq rel, .vsave, s.restoring s.cur = false ∧ s.selectedBad ws = none,
        [w 0 = 0, image 1, w 2 = 0, True, True, True, n 6 < 2 ^ 32, w 7 = 0], s.me.image q (n 5) (n 6)),
       (.vrest a sc acq rel, .vrest, s.restorePending s.cur (s.selected ws) = false, [image 0, w 1 = 0, w 2 = 0, True, True, True, n 6 < 2 ^ 32, w 7 = 0], []),
       (.vxcore a sc acq rel, .vxcore, s.me.Clean ∧ s.restorePending s.cur [.v r.val] = false,
        [n 0 < 64, isWindow (w 1) = true, 1 ≤ n 2 ∧ n 2 + n 5 ≤ 4096 * q, True, True, True, w 6 = 0, w 7 = 0],
        (List.range (n 2)).map fun i => BitVec.ofNat 8 (s.me.elem r 0xA (n 5 + i)))]
    s.Described da ws u → ∀ p ∈ rows, p.2.2.1 →
      (AllHold p.2.2.2.1 → u.TailPasses ws →
        let k := s.core (coreOf s.cur)
        (k.copyQ.length < 64 → ∃ t c, exec p.1 s = .next t ∧ s.Retires t ∧ s.MemoryKept t
          ∧ t = { u with strands := t.strands, cores := t.cores } ∧ (∀ m, m ≠ coreOf s.cur → t.core m = s.core m)
          ∧ t.core (coreOf s.cur) = { k with copyQ := k.copyQ ++ [c], copyNext := k.copyNext + 1 }
          ∧ c.Issued s.cur p.2.1 sc acq rel ws da ∧ c.id = k.copyNext ∧ c.finished = false ∧ c.data = p.2.2.2.2)
        ∧ (64 ≤ k.copyQ.length → ∃ t, exec p.1 s = .next t ∧ s.Queues t ws ∧ s.MemoryKept t ∧ t = { u with strands := t.strands }))
      ∧ ∀ j, FirstFails p.2.2.2.1 j → u.OwnTrap 6 → s.TrapsWith p.1 6 (da + BitVec.ofNat 64 (8 * j))

/-- R243, R255, R256 for the layout engine: as CopyCommands, with its die's queue of 256. -/
def Obligations.LayoutCommands : Prop :=
  ∀ (s u : State) (a : GReg) (sc : Scope) (acq rel : Bool) (ws : List Word), s.Settled →
    let da := s.me.getG a
    let n (i : Nat) := (wordAt ws i).toNat
    let w (i : Nat) := wordAt ws i
    let df := wbits (w 5) 0 4
    let af := wbits (w 5) 4 4
    let conv : Prop := wbits (w 5) 8 4 = 0 ∧ wbits (w 5) 21 43 = 0
    let block (f : Nat) : Prop := f = 9 ∨ f = 0xE
    let bound := decodeFloat 8 (wbits (w 7) 0 32)
    let count := wbits (w 6) 32 29
    let tiles : List Prop := [True, True, True, True, True, w 5 = 0, 1 ≤ n 6 ∧ n 6 ≤ 2 ^ 32, w 7 = 0]
    let rows : List (Instr × CmdKind × List Prop) :=
      [(.lturn a sc acq rel, .lturn, [True, True, True, True, True, w 5 = 0, w 6 = 0, w 7 = 0]),
       (.ltile a sc acq rel, .ltile, tiles), (.ltrans a sc acq rel, .ltrans, tiles),
       (.lconv a sc acq rel, .lconv,
        [True, True, True, True, True, conv, block af ∨ block df ∨ w 6 = 0, wbits (w 7) 0 32 = 0]),
       (.lconvo a sc acq rel, .lconvo,
        [True, True, True, True, True, conv ∧ df = 9, True, bound.isNan = false ∧ bound.neg = false ∧ bound.isZero = false]),
       (.lscale a sc acq rel, .lscale, [True, True, True, True, True, conv, w 6 = 0, w 7 = 0]),
       (.lrepl a sc acq rel, .lrepl, [True, True, 1 ≤ n 2 ∧ n 2 ≤ 2 ^ 24, True, True, w 5 = 0,
        wbits (w 6) 28 4 = 0 ∧ wbits (w 6) 61 3 = 0 ∧ 1 ≤ count ∧ count ≤ 2 ^ 28, w 7 = 0])]
    s.Described da ws u → ∀ p ∈ rows,
      (AllHold p.2.2 → u.TailPasses ws →
        let d := u.die (dieOf s.cur)
        (d.layoutQ.length < 256 → ∃ t c, exec p.1 s = .next t ∧ s.Retires t ∧ s.MemoryKept t
          ∧ t = { u with strands := t.strands, dies := t.dies } ∧ (∀ m, m ≠ dieOf s.cur → t.die m = u.die m)
          ∧ t.die (dieOf s.cur) = { d with layoutQ := d.layoutQ ++ [c], cmdNext := d.cmdNext + 1 }
          ∧ c.Issued s.cur p.2.1 sc acq rel ws da ∧ c.id = d.cmdNext ∧ c.finished = false)
        ∧ (256 ≤ d.layoutQ.length → ∃ t, exec p.1 s = .next t ∧ s.Queues t ws ∧ s.MemoryKept t ∧ t = { u with strands := t.strands }))
      ∧ ∀ j, FirstFails p.2.2 j → u.OwnTrap 6 → s.TrapsWith p.1 6 (da + BitVec.ofNat 64 (8 * j))

/-- R251 to R254: sopen takes the lowest closed stream and returns it, or 0x8000000000000001 with none closed and
0x8000000000000002 for a ring another open stream's overlaps; sadv takes gb from COUNT and returns what is left, or traps
with cause 0x06 for more than COUNT; sclose of an inbound, failed or drained stream frees it and returns the bytes moved, once the
rows of what its command writes at its end let it (R107, R140); a
stream number that is not open traps with cause 0x08. R202, R251: a stream-trimmed access whose stream holds nothing and has
not failed waits, and one of a failed stream traps with cause 0x0F. -/
def Obligations.Streams : Prop :=
  (∀ (s u : State) (d a b : GReg) (sc : Scope) (acq rel : Bool) (ws : List Word), s.Settled →
     let c := coreOf s.cur
     let st (x : State) (n : Nat) := (x.core c).streams.get Stream.closed n
     let w := s.me.getG a
     let n := w.toNat
     let m := (s.me.getG b).toNat
     (n < 8 → (st s n).isOpen = true →
       (m ≤ (st s n).count → ∃ t, exec (.sadv d a b) s = .next t
         ∧ s.me.WritesG t.me d (BitVec.ofNat 64 ((st s n).count - m)) ∧ s.me.Advances t.me ∧ s.Local s.cur t
         ∧ st t n = { st s n with count := (st s n).count - m, passed := (st s n).passed + m } ∧ ∀ k, k ≠ n → st t k = st s k)
       ∧ ((st s n).count < m → s.OwnTrap 6 → s.Traps (.sadv d a b) 6 (s.me.getG b))
       ∧ ((st s n).outbound = false ∨ (st s n).fail = true ∨ (st s n).passed ≤ (st s n).moved →
         (∀ y, s.streamCmd s.myEngine (st s n) = some y → y.finished = false → (s.endChks y).any s.chkWaits = false) →
         ∃ t, exec (.sclose d a) s = .next t ∧ s.me.WritesG t.me d (BitVec.ofNat 64 (st s n).moved) ∧ s.me.Advances t.me
           ∧ st t n = Stream.closed ∧ (∀ k, k ≠ n → st t k = st s k) ∧ ∀ k, k ≠ s.cur → t.strand k = s.strand k)
       ∧ ((st s n).outbound = true → (st s n).fail = false → (st s n).moved < (st s n).passed →
         s.Becomes (.sclose d a) { s.me with held := true, heldAt := if s.me.held then s.me.heldAt else s.now }))
     ∧ (8 ≤ n ∨ (st s n).isOpen = false → s.OwnTrap 8 → s.Traps (.sadv d a b) 8 w ∧ s.Traps (.sclose d a) 8 w)
     ∧ (s.Described w ws u → AllHold ((sopenOk ws).map (· = true)) → u.TailPasses ws →
       let base := (wordAt ws 5).toNat
       let len := (wordAt ws 6).toNat
       let meets (k : Nat) : Prop := (st s k).isOpen = true ∧ base < (st s k).base + (st s k).len ∧ (st s k).base < base + len
       let ends (v : Word) (t : State) : Prop := exec (.sopen d a sc acq rel) s = .next t ∧ s.me.WritesG t.me d v
         ∧ s.me.Advances t.me ∧ s.MemoryKept t ∧ ∀ k, k ≠ s.cur → t.strand k = s.strand k
       ((∀ k, k < 8 → (st s k).isOpen = true) → ∃ t, ends 0x8000000000000001 t ∧ (t.core c).streams = (s.core c).streams)
       ∧ ((∃ k, k < 8 ∧ (st s k).isOpen = false) → (∃ k, k < 8 ∧ meets k) →
           ∃ t, ends 0x8000000000000002 t ∧ (t.core c).streams = (s.core c).streams)
       ∧ ∀ k, k < 8 → (st s k).isOpen = false → (∀ j, j < k → (st s j).isOpen = true) → (∀ j, j < 8 → ¬ meets j) →
           (s.core c).copyQ.length < 64 → ∃ t x, ends (BitVec.ofNat 64 k) t ∧ (t.core c).copyQ = (s.core c).copyQ ++ [x]
             ∧ x.Issued s.cur .stream sc acq rel ws w ∧ (st t k).isOpen = true ∧ (st t k).fail = false
             ∧ (st t k).outbound = (wordAt ws 7).getLsbD 0 ∧ (st t k).count = (if (wordAt ws 7).getLsbD 0 then len else 0)
             ∧ (st t k).base = base ∧ (st t k).len = len ∧ (st t k).moved = 0 ∧ (st t k).passed = 0
             ∧ ∀ j, j ≠ k → st t j = st s j))
  ∧ (∀ (s : State) (v : VReg) (a : GReg) (k : KReg) (dt : Bool) (n : Nat), s.Settled → s.me.space = 1 →
       s.me.vstart.toNat < s.me.vl.toNat → s.tooLong [s.me.df] = false → s.me.df ≠ 0xE → s.me.df ≠ 0xF →
       let first := s.me.getG a + BitVec.ofNat 64 (s.me.vstart.toNat * fmtBits s.me.df / 8)
       let st := (s.core (coreOf s.cur)).streams.get Stream.closed n
       (s.core (coreOf s.cur)).streamAt first.toNat = some n → st.count * 8 / fmtBits s.me.df = 0 →
       ∀ i ∈ (if st.outbound then [.vst v a k dt true, .vsto v a k dt true] else [.vld v a k dt true, .vldo v a k dt true] : List Instr),
         (st.fail = false → ∃ t, exec i s = .next t ∧ t.me = { s.me with held := true, heldAt := if s.me.held then s.me.heldAt else s.now }
           ∧ s.OnlyStrand s.cur t ∧ s.MemoryKept t)
         ∧ (st.fail = true → s.OwnTrap 0x0F → s.Traps i 0x0F (BitVec.ofNat 64 n)))

/-! ## Barriers -/

/-- R104, R257 to R259 on a barrier word that passes its check: binit, barrive and bfail leave the fields the rules name and the
others as they were, btest and bwait return the status, a bwait that must wait counts itself in WAITERS and one that is
released counts itself out, and a bwait of a failed word that names g0 traps with cause 0x0F. That btest never traps for a failure,
g0 named or not, is log 32, and that no line poison of the word is checked is log 30: both the model's reading. R311: a barrier word
of a ZERO sub-tile with a reserved location is filled first, and no byte changes that neither the fill nor the instruction writes;
without a fill and without an error in its row (R140), btest and a released bwait change nothing but their strand. R258: bfail checks its cause first; gb of 0 or above 255 traps with cause 0x06, tval gb.
R89, R257: a barrier word whose check fails without a call for a fault record traps with that cause, tval ga. -/
def Obligations.BarrierInstructions : Prop :=
  (∀ (s : State) (d a b : GReg) (sc : Scope) (acq rel : Bool) (h : Hit) (ps : List Piece) (q : Nat), s.Settled → s.Healthy →
     let o := s.me.getG a
     let v := (s.me.getG b).toNat
     let x := parseBar ((s.allocateAll h.allocs).readNum q 64)
     let status : Word := if x.failed then BitVec.ofNat 64 (0x100 + x.cause) else if x.expect ≤ x.arrived then 1 else 0
     let still : Prop := h.allocs = [] ∧ s.eccPieces ps = s
     let changes (i : Instr) (y : Strand) (n : Bar) : Prop := ∃ t, exec i s = .next t ∧ t.me = y
       ∧ (∀ k, k ≠ s.cur → t.strand k = s.strand k) ∧ parseBar (t.readNum q 64) = n
       ∧ ∀ k, (∀ p ∈ ps, p.reaches k = false) → (∀ al ∈ h.allocs, al.keeps k) → t.readByte k = s.readByte k
     let rows : List (Instr × Bool × Prop × Bar) :=
       [(.binit a b sc rel, rel, True, ⟨v % 2 ^ 32, 0, false, 0, x.waiters, 0⟩),
        (.barrive a sc, true, True, { x with arrived := (x.arrived + 1) % 2 ^ 32 }),
        (.bfail a b sc, true, 1 ≤ v ∧ v ≤ 255, { x with failed := true, cause := if x.failed then x.cause else v })]
     s.walkBarrier (s.agentOf s.cur) s.myHolds o = .ok h → h.reach = .bytes ps → BytesAt q 64 ps →
       s.piecesWait ps (some s.cur) = false → (∀ i, i < 64 → q + i < scratchBase → s.region (q + i) ≠ none) →
       (∀ p ∈ rows, (p.2.1 = true → scopeWide sc = true → s.me.posted = 0) → p.2.2.1 → changes p.1 s.me.retire p.2.2.2)
       ∧ changes (.btest d a sc acq) (s.me.setG d status).retire x
       ∧ (still → s.Writes (.btest d a sc acq) d status)
       ∧ (status ≠ 0 → (x.failed = false ∨ d ≠ 0) →
           (s.me.st ≠ .wait → changes (.bwait d a sc) (s.me.setG d status).retire x
             ∧ (still → s.Writes (.bwait d a sc) d status))
           ∧ (s.me.st = .wait → 0 < x.waiters →
               changes (.bwait d a sc) (s.me.setG d status).retire { x with waiters := x.waiters - 1 }))
       ∧ (x.failed = true → d = 0 → s.me.st ≠ .wait → still → s.OwnTrap 0x0F → s.Traps (.bwait d a sc) 0x0F o)
       ∧ (status = 0 → s.me.preq = false → s.me.st ≠ .wait →
           changes (.bwait d a sc) { s.me with st := .wait, held := true, heldAt := if s.me.held then s.me.heldAt else s.now }
             { x with waiters := (x.waiters + 1) % 2 ^ 32 }))
  ∧ (∀ (s : State) (d a b : GReg) (sc : Scope) (acq rel : Bool) (f : Fail), s.Settled →
       let v := s.me.getG b
       (v = 0 ∨ 255 < v.toNat → s.OwnTrap 6 → s.Traps (.bfail a b sc) 6 v)
       ∧ (s.walkBarrier (s.agentOf s.cur) s.myHolds (s.me.getG a) = .fail f → f.recorded = false → s.OwnTrap f.cause →
           s.me.posted = 0 →
           (∀ i ∈ ([.binit a b sc rel, .barrive a sc, .bwait d a sc, .btest d a sc acq] : List Instr), s.Traps i f.cause (s.me.getG a))
           ∧ (1 ≤ v.toNat → v.toNat ≤ 255 → s.Traps (.bfail a b sc) f.cause (s.me.getG a))))

/-! ## Posted commands, locks, collectives and farms -/

/-- R33, R243, R261, R272, R273: mside, alaunch and sprefix post: they add 1 to posted.COUNT and hand their command over, a launch
with the low halves of elements 0 to 15 of its register as constants, zeros for a strand without lane groups (R124); with COUNT at
256 they wait, and an alaunch with 1,024 launches queued on its die; that those are the launches not yet accepted is log 40, the
model's reading. A store prefix checks its lines as stores; then every byte of them holds zero and no other byte has changed but
those a fill writes (R311), and lines of a window lose their poison; that the zeros are in memory when the instruction ends, and
that tval is ga for a gb out of its range, is log 39, the model's reading. -/
def Obligations.PostedCommands : Prop :=
  ∀ (s u : State) (a b : GReg) (sc : Scope) (acq rel : Bool) (ws : List Word), s.Settled →
    let da := s.me.getG a
    let w (i : Nat) := wordAt ws i
    let n (i : Nat) := (wordAt ws i).toNat
    let op := wbits (w 5) 0 2
    let size := if op = 2 then 4 else 8
    let k := dieOf s.cur
    let more : Strand := ({ s.me with posted := s.me.posted + 1 } : Strand).retire
    let queues (i : Instr) : Prop := ∃ t, exec i s = .next t ∧ s.Queues t ws ∧ s.MemoryKept t ∧ t = { u with strands := t.strands }
    (s.Described da ws u → op ≠ 3 → (op = 0 ∨ n 0 % size = 0) → n 1 % size = 0 → n 2 % size = 0 → wbits (w 5) 2 6 = 0 →
        wbits (w 5) 9 55 = 0 → w 7 = 0 → u.TailPasses ws →
      (s.me.posted < 256 → ∃ t c, exec (.mside a sc acq rel) s = .next t ∧ t.me = more ∧ (∀ m, m ≠ s.cur → t.strand m = s.strand m)
        ∧ s.MemoryKept t ∧ t = { u with strands := t.strands, dies := t.dies } ∧ (∀ m, m ≠ k → t.die m = u.die m)
        ∧ t.die k = { u.die k with sideQ := (u.die k).sideQ ++ [c], cmdNext := (u.die k).cmdNext + 1 } ∧ c.id = (u.die k).cmdNext
        ∧ c.Issued s.cur (if op = 0 then .fill else if op = 1 then .addI64 else .addF32) sc acq rel ws da)
      ∧ (256 ≤ s.me.posted → queues (.mside a sc acq rel)))
    ∧ (s.Described da ws u → AllHold ((launchOk ws).map (· = true)) →
        (s.me.issued ≠ [] ∨ ∃ h, u.walk (u.agentOf u.cur) { Acc.barrier with array := true } u.myHolds (w 6) 64 0 512 = .ok h) →
      (1024 ≤ (u.die k).queuedLaunches → queues (.alaunch a sc acq rel))
      ∧ ((u.die k).queuedLaunches < 1024 → s.me.Clean →
        let reg : VReg := Fin.ofNat 64 (wbits (w 1) 22 6)
        u.restorePending u.cur [.v reg.val] = false →
        (s.me.posted < 256 → ∃ t l, exec (.alaunch a sc acq rel) s = .next t ∧ t.me = more
          ∧ (∀ m, m ≠ s.cur → t.strand m = s.strand m) ∧ s.MemoryKept t ∧ t = { u with strands := t.strands, dies := t.dies }
          ∧ t.die k = { u.die k with launches := (u.die k).launches ++ [l], launchNext := (u.die k).launchNext + 1 }
          ∧ l.id = (u.die k).launchNext ∧ l.sid = s.cur ∧ l.desc = ws ∧ l.daddr = da ∧ l.scope = sc ∧ l.acq = acq ∧ l.rel = rel
          ∧ l.accepted = false ∧ l.runs = [] ∧ l.q.length = 16
          ∧ ∀ j, j < 16 → l.q.getD j 0 = if s.groups s.cur = 0 then 0 else BitVec.ofNat 32 (s.me.elem reg 0xD j))
        ∧ (256 ≤ s.me.posted → queues (.alaunch a sc acq rel))))
    ∧ (∀ hs, let len := (s.me.getG b).toNat
       let ps := hs.flatMap Hit.pieces
       da.toNat % 64 = 0 → len % 64 = 0 → 64 ≤ len → len ≤ 16777216 → s.prefixHits da (len / 64) = .ok hs →
         s.piecesWait ps (some s.cur) = false →
      (s.me.posted < 256 → s.Healthy → (∀ p ∈ ps, ∀ i, p.reaches i = true → i < scratchBase → s.region i ≠ none) →
        ∃ t, exec (.sprefix a b) s = .next t ∧ t.me = more ∧ (∀ m, m ≠ s.cur → t.strand m = s.strand m)
          ∧ (∀ p ∈ ps, t.readPiece p = 0)
          ∧ ∀ i, (∀ h ∈ hs, (∀ p ∈ h.pieces ++ h.mirrors, p.reaches i = false) ∧ ∀ al ∈ h.allocs, al.keeps i) →
              t.readByte i = s.readByte i)
      ∧ (256 ≤ s.me.posted → ∃ t, exec (.sprefix a b) s = .next t ∧ s.Stalls t ∧ s.MemoryKept t ∧ t = { s with strands := t.strands }))
    ∧ (let len := (s.me.getG b).toNat
       let z := s.windowAt da
       s.InWindow da 64 → len % 64 = 0 → 64 ≤ len → len ≤ 16777216 → objOff da + len ≤ 2097152 → s.me.posted < 256 →
         ∃ t, exec (.sprefix a b) s = .next t ∧ t.me = more ∧ (∀ m, m ≠ s.cur → t.strand m = s.strand m)
           ∧ (∀ i, i < len → t.readByte (z + i) = 0 ∧ t.poison.get false ((z + i) / 64) = false) ∧ s.MemoryKeptBut z len t)
    ∧ (da.toNat % 64 ≠ 0 ∨ (s.me.getG b).toNat % 64 ≠ 0 ∨ (s.me.getG b).toNat < 64 ∨ 16777216 < (s.me.getG b).toNat →
        s.OwnTrap 5 → s.Traps (.sprefix a b) 5 da)

/-- R108, R139, R262, R263: alock of sub-tiles that pass their checks and whose rows nobody else holds takes an entry, its
generation advanced, and returns its handle; while another holds one of the rows it keeps the entry and waits, and with no entry
free it waits in WAIT. A check that fails without a call for a fault record traps, tval ga, or for a sub-tile its first address.
aunlock frees the entry its handle names, and a handle that names none the strand holds traps with cause 0x10; afence goes on
once no launch of the strand is left on its die. -/
def Obligations.ArrayLocks : Prop :=
  ∀ (s : State) (d a b : GReg) (r : Rec) (k : Nat) (rows : List (Nat × Nat)) (i : Nat) (g : BitVec 32), s.Settled →
    let o := s.me.getG a
    let n := (s.me.getG b).toNat
    let st := wbits o 8 3
    let e := ((s.die st).alock (wbits o 0 8))
    let names : Prop := wbits o 11 5 = 0 ∧ wbits o 48 16 = 0 ∧ e.holder = some s.cur ∧ e.gen.toNat = wbits o 16 32
    let waiting : Strand := { s.me with held := true, heldAt := if s.me.held then s.me.heldAt else s.now }
    let takes (t : State) (rs : List (Nat × Nat)) : Prop := s.MemoryKept t ∧ (∀ m, m ≠ s.cur → t.strand m = s.strand m)
      ∧ ((t.die k).alock i).holder = some s.cur ∧ ((t.die k).alock i).rows = rs ∧ ((t.die k).alock i).gen = g
      ∧ ∀ j, j ≠ i → (t.die k).alock j = (s.die k).alock j
    (1 ≤ n → n ≤ 16 → s.lockRec o = .ok r →
      (s.lockSubs r (objNum o) (r.subOf o) n none = .ok (k, rows) →
        (s.alockEntry k = some (i, g) → (∀ p ∈ rows, s.rowHeld k p = false) →
          ∃ t, exec (.alock d a b) s = .next t ∧ s.me.WritesG t.me d (BitVec.ofNat 64 (i + k * 256 + g.toNat * 65536))
            ∧ s.me.Advances t.me ∧ takes t rows ∧ ∀ m, m ≠ k → t.die m = s.die m)
        ∧ (s.alockEntry k = some (i, g) → (∃ p ∈ rows, s.rowHeld k p = true) →
          ∃ t, exec (.alock d a b) s = .next t ∧ t.me = waiting ∧ takes t [])
        ∧ (s.alockEntry k = none → ∃ t, exec (.alock d a b) s = .next t ∧ s.Stalls t ∧ s.MemoryKept t))
      ∧ ∀ f tv, s.lockSubs r (objNum o) (r.subOf o) n none = .error (.ok (f, tv)) → f.recorded = false → s.OwnTrap f.cause →
          s.Traps (.alock d a b) f.cause tv)
    ∧ (∀ f, 1 ≤ n → n ≤ 16 → s.lockRec o = .fail f → f.recorded = false → s.OwnTrap f.cause → s.Traps (.alock d a b) f.cause o)
    ∧ (s.alockEntry k = some (i, g) → s.me.held = false → g = ((s.die k).alock i).gen + 1 ∧ s.alockFree k i = true)
    ∧ (n = 0 ∨ 16 < n → s.OwnTrap 6 → s.Traps (.alock d a b) 6 (s.me.getG b))
    ∧ (names → ∃ t, exec (.aunlock a) s = .next t ∧ s.Retires t ∧ s.MemoryKept t ∧ (∀ m, m ≠ st → t.die m = s.die m)
        ∧ ((t.die st).alock (wbits o 0 8)).holder = none ∧ ((t.die st).alock (wbits o 0 8)).gen = e.gen
        ∧ ∀ j, j ≠ wbits o 0 8 → (t.die st).alock j = (s.die st).alock j)
    ∧ (¬ names → s.OwnTrap 0x10 → s.Traps (.aunlock a) 0x10 o)
    ∧ ((∀ l ∈ (s.die (dieOf s.cur)).launches, l.sid ≠ s.cur) → s.Becomes .afence s.me.retire)
    ∧ ((∃ l ∈ (s.die (dieOf s.cur)).launches, l.sid = s.cur) → s.Becomes .afence waiting)

/-- R243, R264, R267, R268, R394: coll on a roster that holds this device enters its die's queue of 256 and counts on its roster;
what has come for it before is its own then (log 71); with 256 in flight it waits; the first word out of range traps with cause
0x06, and an unknown roster with cause 0x08 at its own word, which comes before words 6 and 7 (log 71). cpoll returns the chunks
written and whether any member was excluded, or 2^32 with no such collective in flight. farm declares a farm in the first free
context and returns it, and waits in WAIT with none free, or while a farm of its die that issued before it waits. R277: contexts
that arbitration keeps for packets it has chosen are not free to it (log 54). -/
def Obligations.CollectivesAndFarms : Prop :=
  ∀ (s u : State) (d a : GReg) (sc : Scope) (acq rel : Bool) (ws : List Word), s.Settled →
    let da := s.me.getG a
    let w (i : Nat) := wordAt ws i
    let k := dieOf s.cur
    let mine (c : Coll) : Bool := c.sid == s.cur && wordAt c.desc 4 == da
    let digest := wbits (w 5) 0 48
    let here (p : Prop) : Prop := s.me.issued ≠ [] ∨ p
    (∀ slot r, s.Described da ws u → u.collRoster digest = some (slot, r) →
      (AllHold ((collOk ws (some r.members.length)).map (· = true)) →
        here ((∃ h, u.walkBarrier (u.agentOf u.cur) u.myHolds (w 3) = .ok h)
          ∧ ∃ h, u.walk (u.agentOf u.cur) .engWrite u.myHolds (w 4) 64 0 (8 * (parseColl ws).recordBytes r.members.length) = .ok h) →
        (256 ≤ (u.die k).colls.length → ∃ t, exec (.coll a sc acq rel) s = .next t ∧ s.Queues t ws ∧ s.MemoryKept t)
        ∧ ((u.die k).colls.length < 256 →
          ∃ t c, exec (.coll a sc acq rel) s = .next t ∧ s.Retires t ∧ s.MemoryKept t ∧ (∀ m, m ≠ k → t.die m = u.die m)
            ∧ (t.die k).colls = (u.die k).colls ++ [c] ∧ c.sid = s.cur ∧ c.desc = ws ∧ c.daddr = da ∧ c.members = r.members
            ∧ c.nth = r.total ∧ c.chunk = 0 ∧ c.since = s.now ∧ c.lost = [] ∧ c.excluded = [] ∧ c.wrote = 0 ∧ c.cause = 0
            ∧ ((∀ e ∈ (u.die k).early, e.w.digest = r.digest → e.w.nth ≠ r.total) → c.got = [])
            ∧ (t.die k).rosters.get none slot = some { r with issued := r.issued + 1, total := r.total + 1 }))
      ∧ ∀ j, FirstFails ((collOk ws (some r.members.length)).map (· = true)) j → u.OwnTrap 6 →
          s.TrapsWith (.coll a sc acq rel) 6 (da + BitVec.ofNat 64 (8 * j)))
    ∧ (s.Described da ws u → u.collRoster digest = none →
        (AllHold (((collOk ws none).take 6).map (· = true)) → u.OwnTrap 8 → s.TrapsWith (.coll a sc acq rel) 8 (da + 40))
        ∧ ∀ j, j < 6 → FirstFails ((collOk ws none).map (· = true)) j → u.OwnTrap 6 →
            s.TrapsWith (.coll a sc acq rel) 6 (da + BitVec.ofNat 64 (8 * j)))
    ∧ ((∀ c ∈ (s.die k).colls, mine c = false) → s.Writes (.cpoll d a sc acq) d 0x100000000)
    ∧ (∀ c, ((s.die k).colls.filter mine).getLast? = some c →
        s.Writes (.cpoll d a sc acq) d (BitVec.ofNat 64 (c.chunk + if c.excluded = [] then 0 else 2 ^ 33)))
    ∧ (s.Described da ws u → (w 0).toNat % 4 = 0 → wbits (w 1) 48 16 = 0 → wbits (w 2) 32 32 ≠ 0 → (w 5).toNat < 5 → w 6 = 0 →
        w 7 = 0 → here (∃ h, u.walkBarrier (u.agentOf u.cur) u.myHolds (w 4) = .ok h) →
        (rel = true → scopeWide sc = true → s.me.posted = 0) →
      let short : Prop := 64 ≤ (u.die k).farmsUsed + (u.die k).farmsChosen
      let since := if s.me.held then s.me.heldAt else s.now
      let earlier : Prop := ∃ p ∈ u.strands, dieOf p.1 = k ∧ p.1 ≠ s.cur ∧ p.2.farmWait = true ∧ p.2.held = true ∧ p.2.heldAt < since
      (∀ f, (u.die k).freeCtx = some f → ¬ short → (∀ p ∈ u.strands, dieOf p.1 = k → p.1 ≠ s.cur → p.2.farmWait = false) →
        ∃ t x, exec (.farm d a sc rel) s = .next t ∧ s.me.WritesG t.me d (BitVec.ofNat 64 f)
        ∧ s.me.Advances t.me ∧ s.MemoryKept t ∧ (∀ m, m ≠ s.cur → t.strand m = s.strand m) ∧ (∀ m, m ≠ k → t.die m = u.die m)
        ∧ (t.die k).farm f = some x ∧ x.entry = w 0 ∧ x.total = wbits (w 1) 0 48 ∧ x.hint = wbits (w 2) 0 32
        ∧ x.mask = BitVec.ofNat 32 (wbits (w 2) 32 32) ∧ x.arg = w 3 ∧ x.bar = w 4 ∧ x.next = 0 ∧ x.returned = [] ∧ x.out = 0
        ∧ x.agent.asid = wbits s.me.asid 0 12 ∧ x.agent.tb = s.me.ortb ∧ ∀ j, j ≠ f → (t.die k).farm j = (u.die k).farm j)
      ∧ ((u.die k).freeCtx = none ∨ short ∨ earlier → ∃ t ps, exec (.farm d a sc rel) s = .next t ∧ s.MemoryKept t
          ∧ t.me = { s.me with farmWait := true, st := .wait, held := true, heldAt := since, issued := ws, pins := ps }
          ∧ ∀ m, m ≠ s.cur → t.strand m = s.strand m))

/-- R269 to R271, R308: oinv in supervisor mode drops what translation caches hold of the record and the entries it names, once
no pin is left on them, and returns 0; cwb writes dirty L1 copies of its range back, cinv drops every cached copy, icinv drops
instruction lines of the cores in its scope, and no byte that a load reads changes; fbar goes on. Which entries' copies go where
memory's record is invalid is log 18, the model's reading of step 4. -/
def Obligations.CacheInstructions : Prop :=
  ∀ (s : State) (d a b : GReg) (sc : Scope) (ra : Nat), s.Settled →
    let o := s.me.getG a
    let v := s.me.getG b
    let n := v.toNat
    let es := s.namedEnts (parseRec (toWords 8 (s.readBytes ra 64))) v
    let keeps (i : Instr) (t : State) : Prop := exec i s = .next t ∧ s.Retires t ∧ s.MemoryKept t
    let inRange : Prop := (isWindow o = true ∧ objOff o + n ≤ 2097152)
      ∨ (isWindow o = false ∧ ∃ r, s.walkRec (s.agentOf s.cur) o false s.myHolds = .ok r ∧ objOff o + n ≤ r.size
          ∧ objOff o + n ≤ ceilDiv (r.count * r.bits) 8 ∧ (bit r.perm 0 = true ∨ bit r.perm 1 = true)
          ∧ (r.kind < 2 ∨ s.me.supervisor = true))
    (s.me.supervisor = false → s.OwnTrap 3 → s.Traps (.oinv d a b) 3 0)
    ∧ (s.me.supervisor = true → isWindow o = true ∨ recAddr s.me.ortb (objNum o) = none → s.Writes (.oinv d a b) d 0)
    ∧ (s.me.supervisor = true → isWindow o = false → recAddr s.me.ortb (objNum o) = some ra → s.anyPinned es = false →
        ∃ t, exec (.oinv d a b) s = .next t ∧ s.me.WritesG t.me d 0 ∧ s.me.Advances t.me ∧ s.MemoryKept t
          ∧ (∀ i, i < 64 → t.recOld.get [] (ra + i) = []) ∧ (∀ e ∈ es, ∀ i, i < 16 → t.recOld.get [] (e + i) = [])
          ∧ (∀ e ∈ s.droppedEnts ra v, ∀ i, i < 16 → t.recOld.get [] (e + i) = [])
          ∧ (∀ m ∈ t.marks, m.owner ≠ some s.cur) ∧ ∀ k, k ≠ s.cur → t.strand k = s.strand k)
    ∧ (s.me.supervisor = true → isWindow o = false → recAddr s.me.ortb (objNum o) = some ra → s.anyPinned es = true →
        ∃ t, exec (.oinv d a b) s = .next t ∧ t.me.held = true ∧ t.me.pc = s.me.pc
          ∧ ∀ e ∈ ra :: es, ∃ m ∈ t.marks, m.addr = e ∧ m.owner = some s.cur)
    ∧ (1 ≤ n → n ≤ 2 ^ 40 → inRange →
        (∃ t, keeps (.cwb a b) t ∧ t = { s with strands := t.strands, l2 := t.l2 }
          ∧ ∀ x, t.l2.get none x = if s.coversRange o n (x / 64) then none else s.l2.get none x)
        ∧ ∃ t, keeps (.cinv a b) t ∧ t = { s with strands := t.strands, l2 := t.l2, arr := t.arr, cores := t.cores }
          ∧ (∀ x, s.coversRange o n (x / 64) = true → t.l2.get none x = none ∧ t.arr.get none x = none)
          ∧ ∀ c, c < 256 → ∀ p ∈ (t.core c).icache, s.coversRange o n p.1 = false)
    ∧ (1 ≤ n → n ≤ 2 ^ 40 → ∃ t, keeps (.icinv a b sc) t ∧ t = { s with strands := t.strands, cores := t.cores }
        ∧ (∀ c, c ∈ s.icinvCores sc → ∀ p ∈ (t.core c).icache, s.coversRange o n p.1 = false)
        ∧ ∀ c, c ∉ s.icinvCores sc → t.core c = s.core c)
    ∧ (n = 0 ∨ 2 ^ 40 < n → s.OwnTrap 6 → ∀ i ∈ ([.cwb a b, .cinv a b, .icinv a b sc] : List Instr), s.Traps i 6 v)
    ∧ s.Becomes .fbar s.me.retire

/-! ## Waits, traps and returns as agents' steps -/

/-- R33, R90, R107, R140, R202, R243, R310: the end of a walk's, a pin's, a row's or a stream's wait, of a wait for posted commands
or for an engine's queue lets the waiting strand go on; R189, R254, R259, R268: a doze, sclose, bwait or farm that waits goes on
as its rule says. That a wait's end gives the strand the next turn, in which what is left of its instruction runs again, is logs 1
and 24, the model's choice. -/
def Obligations.WaitEnds : Prop :=
  ∀ (s u : State) (n : StrandId), s.Settled →
    let x := s.strand n.val
    let v : State := { s with cur := n.val }
    let d := x.waitD
    let next : State := { s with agenda := .strand n.val :: s.agenda }
    let ends (i : Instr) (y : Strand) : Prop := ∃ t, exec i s = .next t ∧ t.strand n.val = y ∧ s.MemoryKept t
      ∧ ∀ m, m ≠ n.val → t.strand m = s.strand m
    let quiet : Prop := x.preq = false ∨ x.tm = true
    (x.held = true →
      (∀ i ∈ ([.walkWaitEnd n, .pinWaitEnd n, .horizontalAccess n, .streamWaitEnd n] : List Instr), exec i s = .next next)
      ∧ (x.st = .wait → x.posted < 256 → exec (.postedSlotFree n) s = .next next)
      ∧ (x.st = .wait → exec (.engineQueueSlotFree n) s = .next next))
    ∧ (x.st = .wait → x.waitsIn 0x22 2 = true →
      (x.preq = true → x.tm = false → ends (.dozeWake n) (x.setG d 2).retire)
      ∧ (quiet → 0 < x.wakes → ends (.dozeWake n) (({ x with wakes := x.wakes - 1 } : Strand).setG d 1).retire)
      ∧ (quiet → x.wakes = 0 → x.getG x.waitA ≠ 0 → x.heldAt + (x.getG x.waitA).toNat ≤ s.now →
          ends (.dozeTimeout n) (x.setG d 0).retire))
    ∧ (x.waitsIn 0x70 6 = true →
      let i := (x.getG x.waitA).toNat
      let st := (s.core (coreOf n.val)).streams.get Stream.closed i
      i < 8 → st.isOpen = true → st.fail = true ∨ st.passed ≤ st.moved →
        (∀ y, v.streamCmd v.myEngine st = some y → y.finished = false → (v.endChks y).any v.chkWaits = false) →
        ∃ t, exec (.scloseDrained n) s = .next t ∧ t.strand n.val = (x.setG d (BitVec.ofNat 64 st.moved)).retire
          ∧ (t.core (coreOf n.val)).streams.get Stream.closed i = Stream.closed)
    ∧ (∀ h ps q, x.inBwait = true → s.Healthy → v.walkBarrier (v.agentOf n.val) v.myHolds (x.getG x.waitA) = .ok h →
        h.reach = .bytes ps → BytesAt q 64 ps → v.piecesWait ps (some n.val) = false →
        let b := parseBar ((v.allocateAll h.allocs).readNum q 64)
        b.failed = true ∨ b.expect ≤ b.arrived → b.failed = false ∨ d ≠ 0 →
          ∃ t, exec (.bwaitRelease n) s = .next t ∧ (∀ m, m ≠ n.val → t.strand m = s.strand m)
            ∧ t.strand n.val = (x.setG d (if b.failed then BitVec.ofNat 64 (0x100 + b.cause) else 1)).retire)
    ∧ (∀ ws f, x.st = .wait → x.waitsIn 0x75 0 = true → x.posted = 0 → v.Described (x.getG x.waitA) ws u →
        AllHold ((farmOk ws).map (· = true)) →
        (x.issued ≠ [] ∨ ∃ h, u.walkBarrier (u.agentOf n.val) u.myHolds (wordAt ws 4) = .ok h) →
        (u.die (dieOf n.val)).freeCtx = some f → (u.die (dieOf n.val)).farmsUsed + (u.die (dieOf n.val)).farmsChosen < 64 →
        (∀ p ∈ u.strands, dieOf p.1 = dieOf n.val → p.1 ≠ n.val → p.2.farmWait = false) →
          ∃ t, exec (.farmContextWaitEnd n) s = .next t ∧ t.strand n.val = (x.setG d (BitVec.ofNat 64 f)).retire
            ∧ ((t.die (dieOf n.val)).farm f).isSome = true ∧ ∀ m, m ≠ n.val → t.strand m = s.strand m)

/-- R19, R249, R328, R331 to R334: a decided trap is entered, or forwarded as a service record and one more wake of the service
strand; a service record's ACT resumes the strand in user mode at RPC, reflects its trap into its own handler, or parks it; an
RPC not 4-byte aligned traps with cause 0x05, tval RPC. R335 to R342: a request is set for a strand that is not IDLE (the queue
agent's too: log 52, the model's reading); PSET_WRITE sets one for each 1 it writes. A request that has stood for PTMO takes a
farm strand out of its farm to IDLE, and another strand into its handler with cause 0x0B, HP 1 and its save image's address, the
image written there as R339 lays it out, a bwait's WAITERS counted down (R259) and a service record withdrawn (R342); R326: a
trap decided before is entered first, and the strand stops in its handler. -/
def Obligations.TrapsAndPreemption : Prop :=
  (∀ (s : State) (n : StrandId), s.Settled →
     let x := s.strand n.val
     let c := coreOf n.val
     let k := s.core c
     let enters (y : Strand) (p : Trap) : Prop := y.pc = x.tvec &&& 0xFFFFFFFFFFFFFFFC ∧ y.tcause = BitVec.ofNat 64 p.cause
       ∧ y.tval = p.tval ∧ y.tpc = p.tpc ∧ y.tinst = p.tinst.setWidth 64 ∧ y.st = .run ∧ y.pend = none ∧ y.svcRec = none
       ∧ y.supervisor = true ∧ y.tm = true ∧ wbits y.sstat 1 1 = wbits x.sstat 0 1 ∧ wbits y.sstat 3 1 = wbits x.sstat 2 1 ∧ y.g = x.g
     (∀ p, x.pend = some p → s.saving n.val = false → ∃ t, exec (.trapEntry n) s = .next t ∧ s.OnlyStrand n.val t ∧ s.MemoryKept t
       ∧ enters (t.strand n.val) p)
     ∧ (∀ p a, x.pend = some p → p.own = false → s.forwards n.val p.cause = true → s.svcSlot c = some a →
         let hdr := scratchAddr c k.svcHeader
         let other := 2 * c + (if k.svcmode.getLsbD 1 then 1 else 0)
         let word (t : State) (j : Nat) := t.readNum (a + 8 * j) 8
         ∃ t, exec (.serviceForward n) s = .next t
           ∧ t.strand n.val = { x.unhold with st := .svcwait, pend := none, svcRec := some a }
           ∧ t.strand other = (s.strand other).raise ∧ (t.core c).svcSeq = k.svcSeq + 1
           ∧ word t 0 = (p.cause + 256 * (n.val % 2) + k.svcSeq.toNat * 2 ^ 32) % 2 ^ 64 ∧ word t 1 = p.tval.toNat ∧ word t 2 = p.tpc.toNat
           ∧ word t 3 = p.tinst.toNat ∧ word t 4 = p.tpc.toNat ∧ word t 5 = (x.getG 4).toNat ∧ word t 6 = (x.getG 5).toNat
           ∧ word t 7 = 0 ∧ t.readNum (hdr + 8) 8 = (s.readNum (hdr + 8) 8 + 1) % 2 ^ 64
           ∧ ∀ b, (b < a ∨ a + 64 ≤ b) → (b < hdr + 8 ∨ hdr + 16 ≤ b) → t.readByte b = s.readByte b)
     ∧ (∀ r, x.st = .svcwait → x.svcRec = some r → (s.recWord r 0).getLsbD 9 = false →
       (wbits (s.recWord r 7) 0 3 = 1 → wbits (s.recWord r 4) 0 2 = 0 → x.inFarm = false ∨ s.recWord r 4 ≠ 0 →
         ∃ t, exec (.serviceResume n) s = .next t ∧ s.OnlyStrand n.val t ∧ s.MemoryKept t
           ∧ (t.strand n.val).pc = s.recWord r 4 ∧ (t.strand n.val).st = .run ∧ (t.strand n.val).supervisor = false
           ∧ ∀ g, (t.strand n.val).getG g = if (s.recWord r 7).getLsbD 3 = true ∧ g = 4 then s.recWord r 5
               else if (s.recWord r 7).getLsbD 3 = true ∧ g = 5 then s.recWord r 6 else x.getG g)
       ∧ (wbits (s.recWord r 7) 0 3 = 1 → wbits (s.recWord r 4) 0 2 ≠ 0 → s.saving n.val = false →
         ∃ t, exec (.serviceResume n) s = .next t ∧ s.OnlyStrand n.val t ∧ s.MemoryKept t
           ∧ enters (t.strand n.val) ⟨5, s.recWord r 4, s.recWord r 2, (s.recWord r 3).setWidth 32, false, true⟩)
       ∧ (wbits (s.recWord r 7) 0 3 = 2 → s.saving n.val = false → ∃ t, exec (.serviceReflect n) s = .next t
           ∧ s.OnlyStrand n.val t ∧ s.MemoryKept t
           ∧ enters (t.strand n.val) ⟨(s.recWord r 0).toNat % 256, s.recWord r 1, s.recWord r 2, (s.recWord r 3).setWidth 32, false, true⟩)
       ∧ (wbits (s.recWord r 7) 0 3 = 3 → ∃ t, exec (.servicePark n) s = .next t ∧ (t.strand n.val).st = .idle
           ∧ ((t.core c).own (n.val % 2)) = 0 ∧ s.MemoryKept t ∧ ∀ m, m ≠ n.val → t.strand m = s.strand m)))
  ∧ (∀ (s : State) (n : StrandId) (d : Die) (w : Word), s.Settled →
       let x := s.strand n.val
       (∃ t, exec (.queueAgentPreemptionRequest n) s = .next t ∧ s.OnlyStrand n.val t ∧ s.MemoryKept t
         ∧ (t.strand n.val).preq = decide (x.st ≠ .idle))
       ∧ (∃ t, exec (.psetWrite d w) s = .next t ∧ s.MemoryKept t ∧ ∀ i, i < 64 →
           (t.strand (64 * d.val + i)).preq =
             if w.getLsbD i then decide ((s.strand (64 * d.val + i)).st ≠ .idle) else (s.strand (64 * d.val + i)).preq)
       ∧ (s.preemptDue n.val = true → x.st ≠ .idle → s.waiterBlocked n.val = false →
         let vec := x.tvec &&& 0xFFFFFFFFFFFFFFFC
         let stops (t : State) (tpc : Word) (tval : Nat) (tinst : Word) : Prop :=
           exec (.hardPreemption n) s = .next t ∧ (∀ m, m ≠ n.val → t.strand m = s.strand m)
           ∧ (t.strand n.val).tcause = 0x0B ∧ (t.strand n.val).tval = BitVec.ofNat 64 tval ∧ (t.strand n.val).tpc = tpc
           ∧ (t.strand n.val).tinst = tinst ∧ (t.strand n.val).pc = vec ∧ wbits (t.strand n.val).sstat 7 1 = 1
           ∧ (t.strand n.val).supervisor = true ∧ (t.strand n.val).tm = true ∧ (t.strand n.val).preq = false
         let own : Prop := x.inFarm = false ∧ s.saving n.val = false
         let stopped : Word := if x.held || x.st == .svcwait then x.iw.setWidth 64 else 0
         (x.inFarm = true → x.pend = none → x.inBwait = false → s.saving n.val = false →
           ∃ t, exec (.hardPreemption n) s = .next t ∧ (t.strand n.val).st = .idle ∧ (t.strand n.val).vfarm = 0
             ∧ (t.strand n.val).preq = false ∧ s.MemoryKept t ∧ ∀ m, m ≠ n.val → t.strand m = s.strand m)
         ∧ (own → x.pend = none → s.saveAddr n.val = 0 →
           (x.svcRec = none → x.inBwait = false → ∃ t, stops t x.pc 0 stopped ∧ s.MemoryKept t)
           ∧ (∀ r, x.svcRec = some r → x.inBwait = false → ∃ t, stops t x.pc 0 stopped
               ∧ t.readByte (r + 1) = s.readByte (r + 1) ||| 2 ∧ s.MemoryKeptBut (r + 1) 1 t)
           ∧ (∀ h ps q, x.svcRec = none → x.inBwait = true → s.Healthy → (∀ m ∈ s.marks, m.owner ≠ some n.val) →
               s.walkBarrier (s.agentOf n.val) [] (x.getG x.waitA) = .ok h → h.reach = .bytes ps → BytesAt q 64 ps → h.allocs = [] →
               (∀ i, i < 64 → q + i < scratchBase → s.region (q + i) ≠ none) →
               let b := parseBar (s.readNum q 64)
               0 < b.waiters → ∃ t, stops t x.pc 0 (x.iw.setWidth 64) ∧ parseBar (t.readNum q 64) = { b with waiters := b.waiters - 1 }
                 ∧ ∀ i, (∀ p ∈ ps, p.reaches i = false) → t.readByte i = s.readByte i))
         ∧ (own → (∀ p, x.pend = some p → x.inBwait = false → s.saveAddr n.val = 0 →
             ∃ t, stops t vec 0 0 ∧ wbits (t.strand n.val).sstat 1 1 = 1 ∧ wbits (t.strand n.val).sstat 3 1 = 1 ∧ s.MemoryKept t))
         ∧ (own → x.pend = none → x.svcRec = none → x.inBwait = false → s.saveAddr n.val ≠ 0 → s.Healthy →
           (∀ a ∈ s.saveRows n.val, s.rowWaits a none = false) →
           let pa := s.saveAddr n.val
           let h := s.groups n.val
           let size := 4160 + 270336 * h + 196608
           (∀ i, i < size → s.region (pa + i) ≠ none) →
           ∃ t, stops t x.pc pa stopped ∧ s.MemoryKeptBut pa size t
             ∧ (let word (o : Nat) : Nat := t.readNum (pa + o) 8
                (∀ r : GReg, word (8 * r.val) = (x.getG r).toNat) ∧ word 256 = x.pc.toNat
                ∧ (∀ p ∈ ([(264, x.sstat), (272, x.tcause), (280, x.tval), (288, x.tpc), (296, x.tinst), (304, x.tvec), (312, x.vl),
                    (320, x.vtype), (328, x.vstart), (336, x.vbase), (344, x.vsend), (352, x.vspace), (360, x.vgrant),
                    (368, x.vfarm), (376, x.asid), (384, x.ortb), (456, x.instret)] : List (Nat × Word)), word p.1 = p.2.toNat)
                ∧ (∀ i, i < 8 → word (392 + 8 * i) = (x.tcfg.get 0 i).toNat)
                ∧ word 464 = (if x.st = .wait then 1 else if x.st = .svcwait then 2 else 0) + 256
                ∧ (∀ i, 472 ≤ i → i < 4096 → t.readByte (pa + i) = 0)
                ∧ word 4096 = h ∧ word 4104 = 2 ^ 64 - 1 ∧ word 4112 = 2 ^ 32 - 1)
             ∧ (∀ r i, r < 64 → i < 4096 * h → t.readByte (pa + 4160 + 4096 * h * r + i) = x.v.get 0 (32768 * r + i))
             ∧ (∀ i, i < 64 + 270336 * h + 196608 →
                 t.readByte (pa + 4096 + i) = (x.image h (2 ^ 64 - 1) (2 ^ 32 - 1)).getD i 0)
             ∧ ∀ l, l < 65 → t.poison.get false (pa / 64 + l) = false)))

/-! ## Farms and queues -/

/-- R29 to R32, R279, R413: a farm start gives the strand the entry, ARG in g4, T in g5, zero in every other general register, user
mode, ACTIVE and the context, where it is the first the dispatcher reaches that its farm may start and no boot has failed (R406); that it goes on behind the
strand it started last, from the last one around to the first, is log 59, the model's reading. The completion arrival of a farm
whose strips are all retired counts at its barrier, and frees a context that no strand names. -/
def Obligations.FarmEvents : Prop :=
  ∀ (s : State) (d : Die) (f : FarmCtx) (n : StrandId) (x : Farm), s.Settled → (s.die d.val).farm f.val = some x →
    (let could (i : Nat) : Prop := s.eligible x (64 * d.val + i) = true ∧ s.oldestFor d.val x (64 * d.val + i) = true
     let place (i : Nat) : Nat := (i + 64 - x.scan) % 64
     s.boot ≠ .failed → dieOf n.val = d.val → x.hasStrip = true → x.scan ≤ 64 → could (n.val % 64) →
     (∀ i, i < 64 → could i → place (n.val % 64) ≤ place i) →
      ∃ t, exec (.farmStart d f n) s = .next t ∧ s.MemoryKept t ∧ (∀ m, m ≠ n.val → t.strand m = s.strand m)
        ∧ (∀ r, (t.strand n.val).getG r = if r = 4 then x.arg else if r = 5 then BitVec.ofNat 64 x.total else 0)
        ∧ (t.strand n.val).st = .run ∧ (t.strand n.val).pc = x.entry ∧ (t.strand n.val).inFarm = true
        ∧ (t.strand n.val).fctx = f.val ∧ (t.strand n.val).sstat = 0 ∧ (t.strand n.val).vl = 0 ∧ (t.strand n.val).strip = false
        ∧ (t.strand n.val).ortb = x.agent.tb ∧ (t.strand n.val).tvec = (s.strand n.val).tvec
        ∧ (t.strand n.val).instret = (s.strand n.val).instret ∧ (t.strand n.val).wakes = (s.strand n.val).wakes)
    ∧ (let holds := x.pins.map (·.entry)
       x.arrived = false → x.total ≤ x.next → x.returned = [] → x.out = 0 →
       (x.bar ≠ 0 → s.chkWaits (s.walkBarrier x.agent holds x.bar) = false) →
      ∃ t, exec (.farmCompletionArrival d f) s = .next t ∧ (∀ m, t.strand m = s.strand m)
        ∧ (s.members d.val f.val = 0 → (t.die d.val).farm f.val = none)
        ∧ (s.members d.val f.val ≠ 0 → ∃ y, (t.die d.val).farm f.val = some y ∧ y.arrived = true ∧ y.pins = [])
        ∧ s.BarrierGets t x.agent holds x.bar (Bar.arrival 0))

/-- R107, R112, R275 to R277, R348 to R350: a tail snoop reads TAIL; QCTL's operations enable from a valid context, refuse an
invalid one with cause 0x02, disable, and clear an error; arbitration chooses the first queue of R277's order; a released WAITBAR
lets its packet go; a packet of KIND 0x02 arrives at BAR and a farm packet declares its farm in the first free context, each with
HEAD one further, and an invalid packet or a failed WAITBAR fails at BAR instead; a packet, a BAR, a context or a tail line that
cannot be read stops the queue with the cause of that. A chosen packet's context stays kept for it, a context is read once, at
enable, its ERR bit ignored, clearing an error restarts the packet's age, and TAIL is read while ERR is set: log 54, the model's
reading. -/
def Obligations.QueueEvents : Prop :=
  ∀ (s : State) (d : Die) (q : QueueId), s.Settled →
    let k := d.val
    let a := s.contextAddr k q.val
    let w (i : Nat) := wordAt (toWords 8 (s.readBytes a 64)) i
    let queue (t : State) := (t.die k).queue q.val
    let rest (t : State) : Prop := (∀ m, t.strand m = s.strand m) ∧ ∀ j, j ≠ q.val → (t.die k).queue j = (s.die k).queue j
    let stopped (t : State) (x : Queue) (c : Nat) : Prop :=
      queue t = some { x with err := true, errc := c, waited := false, chosen := false } ∧ rest t
        ∧ (t.die k).msix = (s.die k).msix + 1 ∧ t.out = .msix k :: s.out
        ∧ (s.Healthy → s.MemoryKeptBut (a + 24) 8 t
          ∧ ((∀ i, i < 8 → s.region (a + 24 + i) ≠ none) →
              c < 256 → t.readNum (a + 24) 8 = c + 256 + x.head.toNat % 2 ^ 32 * 2 ^ 32))
    (let ta := wbits (w 1) 6 42 * 64
     let ha := wbits (w 2) 6 42 * 64
     let s1 := s.eccRead a 64
     let s2 := (s1.eccRead ta 8).eccRead ha 8
     s.piecesWait (s.enablePlaces k q.val) none = false → s1.physFail a 64 = none →
      ((w 0).getLsbD 63 = true → 4 ≤ wbits (w 0) 0 6 → wbits (w 0) 0 6 ≤ 20 →
          wbits (w 1) 48 16 = 0 → wbits (w 1) 0 6 = 0 → wbits (w 2) 48 16 = 0 → wbits (w 2) 0 6 = 0 → wbits (w 3) 9 23 = 0 →
          w 4 = 0 → w 5 = 0 → w 6 = 0 → w 7 = 0 → s2.physFail ta 8 = none → s2.physFail ha 8 = none →
        ∃ t x, exec (.queueEnable d q) s = .next t ∧ queue t = some x ∧ rest t ∧ s.MemoryKept t ∧ x.enabled = true ∧ x.err = false
          ∧ x.prio = wbits (w 0) 60 3 ∧ x.asid = wbits (w 0) 48 12 ∧ x.ring = wbits (w 0) 6 42 * 64 ∧ x.log2n = wbits (w 0) 0 6
          ∧ x.taila = ta ∧ x.heada = ha ∧ x.tail.toNat = s.readNum ta 8 ∧ x.head.toNat = s.readNum ha 8
          ∧ x.waited = false ∧ x.chosen = false)
      ∧ ((w 0).getLsbD 63 = false ∨ wbits (w 0) 0 6 < 4 ∨ 20 < wbits (w 0) 0 6 ∨ w 4 ≠ 0 →
          s1.piecesWait (bytePieces (a + 24) 8) none = false →
        ∃ t x, exec (.queueEnable d q) s = .next t ∧ x.enabled = false ∧ x.head = 0 ∧ stopped t x 2))
    ∧ ∀ x, queue s = some x →
      (∃ t, exec (.queueDisable d q) s = .next t ∧ queue t = some { x with enabled := false, chosen := false } ∧ rest t
        ∧ s.MemoryKept t)
      ∧ (∃ t, exec (.queueClearError d q) s = .next t ∧ queue t = some { x with err := false, errc := 0, readyAt := s.now } ∧ rest t
        ∧ s.MemoryKept t)
      ∧ (let s1 := s.eccRead x.taila 8
         x.enabled = true → s.piecesWait (bytePieces x.taila 8) none = false →
          (s1.physFail x.taila 8 = none → ∃ t, exec (.queueTailSnoop d q) s = .next t ∧ rest t ∧ s.MemoryKept t
            ∧ queue t = some { x with tail := BitVec.ofNat 64 (s.readNum x.taila 8)
                                      readyAt := if x.head.toNat < x.tail.toNat then x.readyAt else s.now })
          ∧ ∀ c, s1.physFail x.taila 8 = some c → x.err = false → s1.piecesWait (bytePieces (a + 24) 8) none = false →
            ∃ t, exec (.queueTailSnoop d q) s = .next t ∧ stopped t x c)
      ∧ (∀ ws, s.waitingFarms k = ws → (s.die k).farmsUsed + (s.die k).farmsChosen < 64 →
          ws.find? (fun p => ws.all fun r => s.before k p r) = some (q.val, x) →
          ∃ t, exec (.farmArbitration d) s = .next t ∧ queue t = some { x with chosen := true } ∧ rest t ∧ s.MemoryKept t)
      ∧ (let u := s.eccRead (x.slot x.head) 64
         let ag := u.packetAgent k x.asid
         let steps : List Instr := [.waitbarRelease d q, .packetArrive d q, .packetFarm d q]
         let advanced (t : State) : Prop :=
          queue t = some { x with head := x.head + 1, readyAt := s.now, waited := false, chosen := false } ∧ rest t
         let headWritten (t : State) : Prop := t.readNum x.heada 8 = (x.head.toNat + 1) % 2 ^ 64
         x.ready = true → s.piecesWait (bytePieces (x.slot x.head) 64) none = false →
          (∀ c, u.headPacket x = .error c → u.piecesWait (bytePieces (a + 24) 8) none = false →
            ∀ i ∈ steps, ∃ t, exec i s = .next t ∧ stopped t x c)
          ∧ ∀ p, u.headPacket x = .ok p →
            (∀ f, u.walkBarrier ag [] p.bar = .fail f → f.recorded = false → u.piecesWait (bytePieces (a + 24) 8) none = false →
              ∀ i ∈ steps, ∃ t, exec i s = .next t ∧ stopped t x f.cause)
            ∧ ∀ h, u.walkBarrier ag [] p.bar = .ok h →
              let done (t : State) (f : Bar → Bar) : Prop := advanced t
                ∧ ∀ ps r, p.bar ≠ 0 → s.Healthy → h.reach = .bytes ps → h.allocs = [] → BytesAt r 64 ps →
                    (∀ i, i < 64 → r + i < scratchBase → s.region (r + i) ≠ none) →
                    (∀ i, i < 8 → s.region (x.heada + i) ≠ none ∧ ∀ v ∈ ps, v.reaches (x.heada + i) = false) →
                  parseBar (t.readNum r 64) = f (parseBar (s.readNum r 64)) ∧ headWritten t
                    ∧ ∀ c, (∀ v ∈ ps, v.reaches c = false) → c < x.heada ∨ x.heada + 8 ≤ c → t.readByte c = s.readByte c
              let free : Prop := u.piecesWait h.pieces none = false ∧ u.physLost x.heada = none
                ∧ u.piecesWait (bytePieces x.heada 8) none = false
              (p.valid = false → free → ∀ i ∈ steps, ∃ t, exec i s = .next t ∧ done t (Bar.failure 2 0))
              ∧ (p.valid = true →
                (∀ h2, p.waitf = true → x.waited = false → u.walkBarrier ag [] p.waitbar = .ok h2 →
                    u.piecesWait h2.pieces none = false →
                  let b := parseBar (u.readPieces h2.pieces)
                  (b.expect ≤ b.arrived → b.failed = false →
                    ∃ t, exec (.waitbarRelease d q) s = .next t ∧ queue t = some { x with waited := true } ∧ rest t ∧ s.MemoryKept t)
                  ∧ (b.failed = true → free → ∃ t, exec (.waitbarRelease d q) s = .next t ∧ done t (Bar.failure 0x0F 0)))
                ∧ (p.waitf = false ∨ x.waited = true → free →
                  (p.kind = 2 → ∃ t, exec (.packetArrive d q) s = .next t ∧ done t (Bar.arrival 0))
                  ∧ ∀ f, p.kind = 1 → x.chosen = true → (u.die k).freeCtx = some f →
                    ∃ t z, exec (.packetFarm d q) s = .next t ∧ advanced t
                      ∧ (s.Healthy → s.MemoryKeptBut x.heada 8 t
                          ∧ ((∀ i, i < 8 → s.region (x.heada + i) ≠ none) → headWritten t))
                      ∧ (t.die k).farm f = some z ∧ z.entry = p.entry ∧ z.total = p.total ∧ z.hint = p.hint ∧ z.arg = p.arg
                      ∧ z.bar = p.bar ∧ z.mask = BitVec.ofNat 32 p.mask ∧ z.next = 0 ∧ z.returned = [] ∧ z.arrived = false
                      ∧ z.agent = ag ∧ z.pins = h.entries.map fun e => ⟨e, x.asid⟩)))

/-! ## Engines' steps -/

/-- R33, R104, R245, R246, R248, R252, R273: a fragment of an ocopy between scratchpad windows moves its bytes, which come to the
command's PROGRESS, and one to the null object stops the command with cause 0x08; a finished command writes its record, arrives or
fails at its barrier word with the bytes written, leaves its queue, and a memory-side one lowers its strand's posted count and
raises its wake count, as a store prefix's end does; a stream's fill and drain move bytes between object and ring. That a store
prefix's end writes no byte of memory rests on log 39, the model's reading: its zeros are written at issue. -/
def Obligations.EngineEvents : Prop :=
  ∀ (s : State) (e : Engine) (i : Nat) (x : Cmd), s.Settled → s.cmd e i = some x →
    let w (j : Nat) := wordAt x.desc j
    let len := (w 2).toNat
    let at_ (o : Word) := windowByte x.agent.die o
    let fits (o : Word) (n : Nat) : Prop := isWindow o = true ∧ objOff o + n ≤ 2097152
    (x.kind = .ocopy → x.finished = false → x.pos = 0 → x.progress = 0 → x.wrote = 0 → x.cause = 0 → x.after = [] →
        x.widening = false → 1 ≤ len → fits (w 0) len → fits (w 1) len → at_ (w 0) + len ≤ at_ (w 1) ∨ at_ (w 1) + len ≤ at_ (w 0) →
      ∃ t y, exec (.engineFragment e i) s = .next t ∧ (∀ j, j < len → t.readByte (at_ (w 1) + j) = s.readByte (at_ (w 0) + j))
        ∧ s.MemoryKeptBut (at_ (w 1)) len t ∧ t.cmd e i = some y ∧ y.progress = len ∧ y.wrote = len ∧ y.finished = true ∧ y.cause = 0
        ∧ ∀ m, t.strand m = s.strand m)
    ∧ (x.kind = .ocopy → x.finished = false → x.pos = 0 → x.cause = 0 → x.after = [] → 1 ≤ len → fits (w 0) len →
        objNum (w 1) = 0 → (w 5).getLsbD 0 = false →
      ∃ t y, exec (.engineFragment e i) s = .next t ∧ s.MemoryKept t ∧ t.cmd e i = some y ∧ y.finished = true ∧ y.cause = 8
        ∧ y.faddr = w 0 ∧ y.progress = x.progress ∧ y.wrote = x.wrote ∧ ∀ m, t.strand m = s.strand m)
    ∧ (x.finished = true → (s.endChks x).any s.chkWaits = false →
      ∃ t, exec (.engineCommandDone e i) s = .next t ∧ t.cmd e i = none
      ∧ (∀ m, m ≠ x.sid → t.strand m = s.strand m)
      ∧ (t.strand x.sid = match e with
          | .mside _ => { (s.strand x.sid).raise with posted := (s.strand x.sid).posted - 1 }
          | _ => s.strand x.sid)
      ∧ (w 4 = 0 → s.BarrierGets t x.agent (x.pins.map (·.entry)) (w 3)
          (if x.cause = 0 then Bar.arrival x.wrote else Bar.failure (x.cause % 256) x.wrote))
      ∧ (w 3 = 0 → fits (w 4) 32 → (w 4).toNat % 32 = 0 →
          let z := at_ (w 4)
          BitVec.ofNat 64 (t.readNum z 8)
              = BitVec.ofNat 64 ((if x.cause = 0 then 1 else 2) + x.cause * 256 + x.flags * 65536)
            ∧ BitVec.ofNat 64 (t.readNum (z + 8) 8) = BitVec.ofNat 64 x.progress
            ∧ BitVec.ofNat 64 (t.readNum (z + 16) 8) = (if x.cause = 0 then 0 else x.faddr) ∧ t.readNum (z + 24) 8 = 0
            ∧ s.MemoryKeptBut z 32 t))
    ∧ (∀ d, e = .mside d → x.kind = .sprefix → ∃ t, exec (.sprefixPerformed d i) s = .next t ∧ t.cmd e i = none ∧ s.MemoryKept t
        ∧ t.strand x.sid = { (s.strand x.sid).raise with posted := (s.strand x.sid).posted - 1 }
        ∧ ∀ m, m ≠ x.sid → t.strand m = s.strand m)
    ∧ ∀ (c : CoreId) (n : Fin 8) (m : Nat), e = .copy c → x.kind = .stream → x.finished = false → x.after = [] →
      let r (u : State) := (u.core c.val).streams.get Stream.closed n.val
      let ring (b : Nat) := scratchAddr c.val ((r s).base + b % (r s).len)
      (r s).isOpen = true → (r s).fail = false → (r s).cmd = i → 0 < (r s).len → (r s).base + (r s).len ≤ 2097152 →
      let moves (v : Instr) (got : Nat) (bytes : State → Prop) : Prop := ∃ t, exec v s = .next t ∧ bytes t
        ∧ (r t).moved = (r s).moved + got ∧ (r t).count = (r s).count + got ∧ (r t).passed = (r s).passed
        ∧ ∀ k, t.strand k = s.strand k
      ((r s).outbound = false → fits (w 0) (r s).total →
          (at_ (w 0) + (r s).total ≤ scratchAddr c.val (r s).base ∨ scratchAddr c.val ((r s).base + (r s).len) ≤ at_ (w 0)) →
        let got := Nat.min m (Nat.min ((r s).total - (r s).moved) ((r s).len - ((r s).moved - (r s).passed)))
        0 < got → moves (.streamInboundFill c n m) got fun t =>
          ∀ j, j < got → t.readByte (ring ((r s).moved + j)) = s.readByte (at_ (w 0) + (r s).moved + j))
      ∧ ((r s).outbound = true → fits (w 1) (r s).total →
          (at_ (w 1) + (r s).total ≤ scratchAddr c.val (r s).base ∨ scratchAddr c.val ((r s).base + (r s).len) ≤ at_ (w 1)) →
        let got := Nat.min m (Nat.min ((r s).total - (r s).moved) ((r s).passed - (r s).moved))
        0 < got → moves (.streamOutboundDrain c n m) got fun t =>
          ∀ j, j < got → t.readByte (at_ (w 1) + (r s).moved + j) = s.readByte (ring ((r s).moved + j)))

/-- R121 to R126, R132 to R136, R138, R141: a launch whose checks pass is accepted with its runs, and one with a bad micro-op
refused; the next run that can start starts with the registers R123 gives, its shadow, and the scrub and the shadow copy before
its first micro-op; a run past 1,000 ns of a step or 16,777,216 micro-ops fails; a launch whose runs are over arrives at its
barrier word with the bytes its ended runs have sent, or fails there with cause 0x0E, leaves the sequencer and lowers its strand's
posted count; a due refresh slot holds a quiet bank for 160 ns, 304 of R5's clocks, and waits for another; a lock waited on for
LKTMO breaks. That acceptance is one turn is log 41, and that a slot begins in the turn in which its bank is quiet log 46: both
the model's reading. -/
def Obligations.ArrayEvents : Prop :=
  ∀ (s : State) (d : Die), s.Settled →
    let k := d.val
    let kept (t : State) : Prop := ∀ m, t.strand m = s.strand m
    let has (t : State) (l r : Nat) (p : Run → Prop) : Prop := ∃ x ∈ (t.die k).launches, x.id = l ∧ ∃ y ∈ x.runs, y.index = r ∧ p y
    (∀ l, (s.die k).launches.find? (fun l => !l.accepted) = some l → s.launchMayRead k l = true →
        let r := s.scanMicro l 0 l.words
        let u := s.eccPieces r.1.flatten
        let prog := r.1.map fun ps => BitVec.ofNat 32 (u.readPieces ps)
        r.2 = none → s.piecesWait r.1.flatten none = false → (∀ ps ∈ r.1, u.piecesPoisoned ps = false) →
        (∀ rs, (∀ w ∈ prog, microOk l.words w.toNat = true) → u.acceptPool k l = none →
            u.acceptRuns k l 0 (wbits (wordAt l.desc 1) 0 12) = .ok rs →
          ∃ t, exec (.launchAcceptance d) s = .next t ∧ kept t ∧ s.MemoryKept t
            ∧ ∃ y ∈ (t.die k).launches, y.id = l.id ∧ y.accepted = true ∧ y.runs = rs ∧ y.mprog = prog ∧ y.failed = l.failed
              ∧ y.pins = (rs.flatMap fun r => r.ops.map (·.pin)) ++ l.pins)
        ∧ ((∃ w ∈ prog, microOk l.words w.toNat = false) →
          ∃ t, exec (.launchAcceptance d) s = .next t ∧ kept t
            ∧ ∃ y ∈ (t.die k).launches, y.id = l.id ∧ y.accepted = true ∧ y.failed = true ∧ y.runs = l.runs))
    ∧ (∀ l r, s.nextRun k = some (l, r) → r.launch = l.id →
      ∃ t, exec (.runStart d l.id r.index) s = .next t ∧ kept t ∧ s.MemoryKept t
        ∧ has t l.id r.index fun y => y.stage = .running ∧ y.pc = 0 ∧ y.l = [] ∧ y.acc = [] ∧ y.stepNs = 0 ∧ y.count = 0
          ∧ y.midStep = false ∧ y.rows.get none 1020 = some rowOnes ∧ y.rows.get none 1021 = some rowOnes
          ∧ (∀ row, 1008 ≤ row → row ≤ 1017 → y.rows.get none row = none)
          ∧ ((r.ops.map RunOp.num).Nodup → ∀ o ∈ r.ops, y.b.get 0 o.num = BitVec.ofNat 16 o.row)
          ∧ y.shadow = (if (s.die k).duplicates l then (s.die k).freeShadow r.mitten else none)
          ∧ y.todo = r.sourceRows.map Chore.scrub ++ (if y.shadow.isSome then r.opRows.map Chore.copy else []))
    ∧ (∀ m l r w, m < 2560 → s.runAt (2560 * k + m) = some (l, r) → r.launch = l.id → r.todo = [] → l.mprog[r.pc]? = some w →
        1000 < r.stepNs + microNs w.toNat →
      ∃ t, exec (.stepOverrun d m) s = .next t ∧ kept t ∧ has t l.id r.index fun y => y.stage = .failed)
    ∧ (∀ m l r, m < 2560 → s.runAt (2560 * k + m) = some (l, r) → r.launch = l.id → r.todo = [] → r.pc < l.mprog.length →
        16777216 ≤ r.count →
      ∃ t, exec (.runOverrun d m) s = .next t ∧ kept t ∧ has t l.id r.index fun y => y.stage = .failed)
    ∧ (∀ l x, (s.die k).launches.find? (fun x => x.id == l) = some x → x.over = true →
        (wordAt x.desc 6 ≠ 0 → s.chkWaits (s.walkBarrier x.agent x.holds (wordAt x.desc 6)) = false) →
      let n := (x.runs.map fun r => if r.stage = .ended then r.sent else 0).sum
      ∃ t, exec (.launchPerformed d l) s = .next t ∧ (∀ y ∈ (t.die k).launches, y.id ≠ l)
        ∧ t.strand x.sid = { (s.strand x.sid).raise with posted := (s.strand x.sid).posted - 1 }
        ∧ (∀ m, m ≠ x.sid → t.strand m = s.strand m)
        ∧ s.BarrierGets t x.agent x.holds (wordAt x.desc 6) (if x.failed then Bar.failure 0x0E n else Bar.arrival n))
    ∧ (∀ b : Fin 64, ((s.die k).bankQuiet b.val = true → ∃ t, exec (.refreshSlot d b) s = .next t ∧ kept t ∧ s.MemoryKept t
          ∧ (t.die k).slotEnd.get 0 b.val = s.now + 304 ∧ b.val ∉ (t.die k).refreshDue)
        ∧ ((s.die k).bankQuiet b.val = false → ∃ t, exec (.refreshSlot d b) s = .next t ∧ kept t ∧ s.MemoryKept t
          ∧ b.val ∈ (t.die k).refreshDue ∧ (t.die k).slotEnd = (s.die k).slotEnd))
    ∧ ∀ m row since, m < 2560 → row < 1008 → (s.die k).lockWait.get none (2560 * row + m) = some since →
        since + (s.die k).lockClocks ≤ s.now → s.rowLocked (rowAddr k m row) none = true →
      ∃ t, exec (.lockTimeout d m row) s = .next t ∧ kept t ∧ s.MemoryKept t
        ∧ (∀ l ∈ (t.die k).launches, ∀ r ∈ l.runs, r.locks m row = true → r.broken = true)
        ∧ (t.die k).alocked m row none = false ∧ (t.die k).lockWait.get none (2560 * row + m) = none

/-- R104, R265, R266, R368, R370, R372, R394, R395: a chunk of an all-reduce whose contributions have all come is summed in
ascending member order, written and entered in the record; an intact block puts its body at its place in its member's contribution
to the collective of its roster and its place in the issue order, on UALink the bytes behind the header of an uncoded block; a
notice stands for a contribution; a passed deadline excludes the members still missing from the chunk and the rest of the
collective; a collective at its end writes its header, arrives or fails at its barrier word and leaves the agent. That blocks are
told apart by their place, and one that comes twice counts once, is log 22; that a notice ahead of the collective, or of its roster,
is kept for it log 71; that in the sum the running sum comes before the contribution in R50's order of NaN operands log 62; and when
a deadline has passed log 49: the model's reading. -/
def Obligations.CollectiveEvents : Prop :=
  ∀ (s : State) (k : Die) (i : Nat) (c : Coll), s.Settled → s.coll k.val i = some c →
    let p := parseColl c.desc
    let n := p.count c.chunk
    let size := fmtBits p.df / 8
    let holds := c.pins.map (·.entry)
    let fits (o : Word) (len : Nat) : Prop := isWindow o = true ∧ objOff o + len ≤ 2097152
    let at_ (o : Word) := windowByte c.agent.die o
    let z := at_ p.dst
    let rec_ := at_ p.crec
    let whole := p.recordBytes c.members.length
    let kept (t : State) : Prop := ∀ m, t.strand m = s.strand m
    let others (y : Coll) (m ch : Nat) : Prop := ∀ m' ch', (m', ch') ≠ (m, ch) → y.have m' ch' = c.have m' ch'
    (p.op = 0 → p.df = 6 ∨ p.df = 8 → c.cause = 0 → c.chunk < p.chunks → c.after = [] → c.sent = true → c.missing = [] →
        c.values ≠ [] → fits p.dst (p.len * size) → fits p.crec whole → z + p.len * size ≤ rec_ ∨ rec_ + whole ≤ z →
      ∃ t y, exec (.collectiveChunk k i) s = .next t ∧ kept t ∧ t.coll k.val i = some y ∧ y.chunk = c.chunk + 1 ∧ y.sent = false
        ∧ y.since = s.now ∧ y.cause = 0 ∧ y.wrote = c.wrote + n * size
        ∧ (∀ j, j < n → t.readNum (z + (c.chunk * p.elems + j) * size) size
            = convertFloat 8 p.df (.rm .rne) false (sumCodes (c.values.map fun v => v.2.getD j 0)) % 256 ^ size)
        ∧ t.readNum (rec_ + 64 + c.chunk * entryBytes c.members.length) 8 = c.values.length % 2 ^ 64)
    ∧ (s.deadlinePassed k.val c = false →
      (∀ (nm : CollName) (x : WirePart) (g : PortGroup) chan bs body e, let q := (s.die g.val).port
          let w : WireId := ⟨nm.digest, nm.nth, x.member, x.chunk, x.index, x.wf⟩
          2 ≤ q.pers → (q.recv.get Chan.reset chan).receive q.pers (q.codes g.val chan) k.val w bs = ([(k.val, w, body)], e) →
          s.matching k.val w = some c → c.expects x.member x.chunk = true →
          (∀ o, c.have x.member x.chunk = some o → o.poison = false) →
          4096 * x.index + body.length ≤ p.wireBytes (p.count x.chunk) →
        ∃ t y o, exec (.wireBlockReceive k nm x g chan bs) s = .next t ∧ kept t ∧ s.MemoryKept t
          ∧ (t.die g.val).port.recv.get Chan.reset chan = e ∧ t.coll k.val i = some y ∧ others y x.member x.chunk
          ∧ y.have x.member x.chunk = some o ∧ o.poison = false ∧ o.parts.get [] x.index = body
          ∧ ∀ j, j ≠ x.index → o.parts.get [] j = ((c.have x.member x.chunk).map fun r => r.parts.get [] j).getD [])
      ∧ ∀ (nm : CollName) m ch, s.matching k.val ⟨nm.digest, nm.nth, m, ch, 0, 0⟩ = some c → c.expects m ch = true →
          c.whole m ch = false →
        ∃ t y, exec (.poisonNotice k nm m ch) s = .next t ∧ kept t ∧ s.MemoryKept t ∧ t.coll k.val i = some y
          ∧ y.have m ch = some ⟨m, ch, [], true⟩ ∧ others y m ch)
    ∧ (∀ (nm : CollName) m ch, s.matching k.val ⟨nm.digest, nm.nth, m, ch, 0, 0⟩ = none →
        (∀ j r, (s.die k.val).rosterOf nm.digest = some (j, r) → r.total ≤ nm.nth) →
      ∃ t, exec (.poisonNotice k nm m ch) s = .next t ∧ kept t ∧ s.MemoryKept t
        ∧ (t.die k.val).early = (s.die k.val).early ++ [⟨⟨nm.digest, nm.nth, m, ch, 0, 0⟩, [], true⟩])
    ∧ (∀ (h : Chan) use w bs, h.ahead = [] → h.wait = [] → 2 ≤ bs.length → ofBytes (bs.take 2) = 0 →
      ∃ e, h.receive 2 use k.val w bs = ([(k.val, w, bs.drop 2)], e) ∧ e.blocks = h.blocks + 1 ∧ e.ahead = [] ∧ e.wait = [])
    ∧ (s.deadlinePassed k.val c = true → c.cause = 0 → c.chunk < p.chunks →
      ∃ t y, exec (.chunkDeadline k i) s = .next t ∧ kept t ∧ s.MemoryKept t ∧ t.coll k.val i = some y
        ∧ (∀ m, m ∈ y.lost ↔ m ∈ c.lost ∨ m ∈ c.missing) ∧ (∀ m ∈ c.missing, (c.chunk, m) ∈ y.excluded) ∧ y.missing = []
        ∧ y.chunk = c.chunk ∧ y.cause = 0)
    ∧ (c.cause ≠ 0 ∨ p.chunks ≤ c.chunk →
        (p.crec ≠ 0 → s.chkWaits (s.walk c.agent .engWrite holds p.crec 1 0 512) = false) →
        (p.bar ≠ 0 → s.chkWaits (s.walkBarrier c.agent holds p.bar) = false) →
      ∃ t, exec (.collectiveComplete k i) s = .next t ∧ kept t ∧ t.coll k.val i = none
      ∧ (fits p.crec 64 → p.bar = 0 → c.cause = 0 → c.excluded = [] →
          t.readNum rec_ 8 % 65536 = 1 ∧ t.readNum (rec_ + 4) 4 = p.chunks % 2 ^ 32
          ∧ t.readNum (rec_ + 16) 8 = c.digest % 2 ^ 64 ∧ s.MemoryKeptBut rec_ 64 t)
      ∧ (fits p.crec 64 → fits p.bar 64 → objOff p.bar % 64 = 0 → c.excluded = [] →
          at_ p.bar + 64 ≤ rec_ ∨ rec_ + 64 ≤ at_ p.bar →
          parseBar (t.readNum (at_ p.bar) 64)
            = (if c.cause = 0 then Bar.arrival c.wrote else Bar.failure (c.cause % 256) c.wrote)
                (parseBar (s.readNum (at_ p.bar) 64))))

/-! ## Translation agents -/

/-- R307, R311 to R318, R380: the first command of a die's queue begins when its descriptor passes and ends with a cause when it
does not; INSTALL, EVICT and MARKP give a sub-tile their state, GEN advanced, RELOC makes it MOVING with the destination beside
it, COUNT counts in the record, FLUSH leaves no cache anything of its asid once that holds no pin; a sub-tile in a state a command
does not take stops it, and with the last one it ends, each with its record or its barrier word; a relocation is copied, swapped to
its destination once no pin and no copy of the host is left, behind which a command with a request failed in flight fails (R364,
R365), or returned to its source after a lost write; all where no row that
a turn reaches waits (R107, R140), and a command's sub-tiles where no move of its die is under way. That a die takes one
command after another, one turn to begin and one sub-tile a turn, and copies in one turn, is log 21; that a dropped write loses the
destination log 47; and that caches hold single bytes of records and entries log 18: the model's reading. -/
def Obligations.TranslationEvents : Prop :=
  ∀ (s : State) (d : Die) (c : TCmd) (rest : List TCmd), s.Settled → s.Healthy → (s.die d.val).tcmds = c :: rest →
    let k := d.val
    let kept (t : State) : Prop := ∀ m, t.strand m = s.strand m
    let all : List Instr := [.install d, .reloc d, .evict d, .markp d, .count d, .flush d]
    let clear (as : List Nat) : Prop := ∀ a ∈ as, s.rowWaits a none = false
    (∀ ws, c.started = false → s.tUnread c.addr = 0 → ws = toWords 8 (s.readBytes c.addr 64) →
      let q := parseTDesc ws
      let tb := s.astabBase k q.asid
      clear (c.addr :: s.astabAddr k q.asid :: (q.record tb).toList) →
      (s.tStart q tb = 0 → ∀ i ∈ all, ∃ t, exec i s = .next t ∧ kept t ∧ s.MemoryKept t
        ∧ (t.die k).tcmds = { c with desc := ws, started := true, tb := tb } :: rest)
      ∧ (s.tStart q tb ≠ 0 → q.useBar = 0 → q.useCrec = 0 → ∀ i ∈ all, ∃ t, exec i s = .next t ∧ kept t ∧ s.MemoryKept t
        ∧ (t.die k).tcmds = rest ∧ (t.die k).norep = true))
    ∧ (c.started = true →
      let q := parseTDesc c.desc
      let ended (t : State) (cause done bytes : Nat) (fa : Word) : Prop := (t.die k).tcmds = rest
        ∧ (q.useBar = 0 → q.useCrec ≠ 0 → (∀ i, i < 32 → s.region (q.useCrec + i) ≠ none) →
            t.readNum q.useCrec 8 = (if cause = 0 then 1 else 2) + cause * 256 ∧ t.readNum (q.useCrec + 8) 8 = done % 2 ^ 64
            ∧ t.readNum (q.useCrec + 16) 8 = fa.toNat ∧ t.readNum (q.useCrec + 24) 8 = 0 ∧ s.MemoryKeptBut q.useCrec 32 t)
        ∧ (q.useCrec = 0 → q.useBar ≠ 0 → (∀ i, i < 64 → s.region (q.useBar + i) ≠ none) →
            parseBar (t.readNum q.useBar 64)
              = (if cause = 0 then Bar.arrival bytes else Bar.failure cause bytes) (parseBar (s.readNum q.useBar 64))
            ∧ s.MemoryKeptBut q.useBar 64 t)
      ∀ ra, q.record c.tb = some ra →
        let r := s.recAt ra
        let ea := r.rta + 16 * (q.j + c.done)
        let e := s.readEnt ea
        let found : Prop := (s.die k).relocs = [] ∧ clear [ra, ea] ∧ s.windowRefused ra = false ∧ s.windowRefused ea = false ∧ s.recValid r = true ∧ r.kind < 2
          ∧ q.j + c.done < r.subCount ∧ s.entValid r e = true
        let able : Prop := found ∧ c.late = none ∧ s.pinned ea = false ∧ c.done + 1 < q.n ∧ ∀ i, i < 16 → s.region (ea + i) ≠ none
        let writes (i : Instr) (st loc : Nat) : Prop := ∃ t, exec i s = .next t ∧ kept t ∧ s.MemoryKeptBut ea 16 t
          ∧ (t.die k).tcmds = { c with done := c.done + 1 } :: rest ∧ (t.readEnt ea).state = st ∧ (t.readEnt ea).loc0 = loc
          ∧ (t.readEnt ea).loc1 = 0 ∧ (t.readEnt ea).gen = (e.gen + 1) % 256
        (q.op = 1 → able → e.state ∈ [0, 1] → q.zf = false → q.tstate ≤ 4 → s.badPlace q r c.done = false →
            ∀ loc, q.place r c.done = some loc → loc < 2 ^ 48 → writes (.install d) q.tstate loc)
        ∧ (q.op = 3 → able → e.state ∈ [1, 2, 3, 4, 6] → q.tstate ≤ 1 → s.badPlace q r c.done = false →
            ∀ loc, q.place r c.done = some loc → loc < 2 ^ 48 → writes (.evict d) q.tstate loc)
        ∧ (q.op = 4 → able → e.state ∈ [1, 2, 3, 4] → writes (.markp d) 6 e.loc0)
        ∧ (∀ dst, q.op = 2 → able → e.state ∈ [2, 3, 4] → r.relst ≠ 1 → q.target r c.done = some dst → dst < 2 ^ 48 →
            (q.tstate = 0 ∨ s.locTier dst = q.tstate) → s.locFits r dst (s.locTier dst) = true → s.locRefused r dst = false →
          ∃ t m, exec (.reloc d) s = .next t ∧ kept t ∧ s.MemoryKeptBut ea 16 t ∧ (t.readEnt ea).state = 5
            ∧ (t.readEnt ea).loc0 = e.loc0 ∧ (t.readEnt ea).loc1 = dst ∧ (t.die k).relocs = (s.die k).relocs ++ [m] ∧ m.entry = ea
            ∧ m.src = e.loc0 ∧ m.dst = dst ∧ m.size = r.subSize ∧ m.swapPending = false ∧ m.destFailed = false
            ∧ (t.die k).tcmds = c :: rest)
        ∧ (∀ i, (q.op, i) ∈ [(1, .install d), (2, .reloc d), (3, .evict d), (4, .markp d)] → found → c.done < q.n → e.state ≠ 5 →
            tAccepts q.op e.state = false → s.piecesWait q.endPieces none = false →
          ∃ t, exec i s = .next t ∧ kept t ∧ ended t 8 c.done c.bytes (r.subFirst q.obj (q.j + c.done)))
        ∧ (q.op = 4 → found → c.late = none → c.done + 1 = q.n → e.state = 6 → s.pinned ea = false → s.piecesWait q.endPieces none = false →
          ∃ t, exec (.markp d) s = .next t ∧ kept t ∧ ended t 0 q.n c.bytes 0)
        ∧ (q.op = 5 → q.useBar = 0 → q.useCrec = 0 → clear [ra] → (∀ i, i < 64 → s.region (ra + i) ≠ none) →
          ∃ t, exec (.count d) s = .next t ∧ kept t ∧ (t.die k).tcmds = rest ∧ s.MemoryKeptBut ra 64 t
            ∧ (if q.which then t.readNum (ra + 4) 2 = Nat.min (s.readNum (ra + 4) 2 + 1) 65535
               else t.readNum (ra + 6) 1 = Nat.min (s.readNum (ra + 6) 1 + 1) 255))
      ) ∧ (c.started = true → (parseTDesc c.desc).op = 6 → (parseTDesc c.desc).useBar = 0 → (parseTDesc c.desc).useCrec = 0 →
        (∀ p ∈ s.allPins, p.asid ≠ (parseTDesc c.desc).asid) →
        ∃ t, exec (.flush d) s = .next t ∧ kept t ∧ s.MemoryKept t ∧ (t.die k).tcmds = rest
          ∧ ∀ b, ∀ v ∈ t.recOld.get [] b, (parseTDesc c.desc).asid ∈ v.2)
    ∧ ∀ id m, (s.die k).reloc id = some m →
      let q := parseTDesc c.desc
      let r := s.recAt m.record
      let free : Prop := clear (r.rowsAt m.src ++ r.rowsAt m.dst)
      let ends (t : State) (loc : Nat) : Prop := kept t ∧ (t.die k).reloc id = none
        ∧ (t.readEnt m.entry).state = s.locTier loc ∧ (t.readEnt m.entry).loc0 = loc ∧ (t.readEnt m.entry).loc1 = 0
      let able : Prop := clear [m.entry] ∧ (∀ i, i < 16 → s.region (m.entry + i) ≠ none) ∧ m.src < 2 ^ 48 ∧ m.dst < 2 ^ 48
      (m.swapPending = false → s.destGone m = false → free → r.layout < 2 →
          m.src + r.subSize ≤ m.dst ∨ m.dst + r.subSize ≤ m.src → (∀ i, i < r.subSize → s.region (m.dst + i) ≠ none) →
        ∃ t, exec (.relocCopyDone d id) s = .next t ∧ kept t ∧ (t.die k).reloc id = some { m with swapPending := true }
          ∧ (∀ i, i < r.subSize → t.readByte (m.dst + i) = s.readByte (m.src + i)) ∧ s.MemoryKeptBut m.dst r.subSize t)
      ∧ (able → c.late = none → c.done + 1 < q.n → m.swapPending = true → s.destGone m = false → s.otherPins m.entry = 0 →
          s.hostHolds r m.src = false → free →
        ∃ t, exec (.relocSwap d id) s = .next t ∧ ends t m.dst
          ∧ (t.die k).tcmds = { c with done := c.done + 1, bytes := c.bytes + if q.op = 2 then m.size else 0 } :: rest
          ∧ (r.layout < 2 → m.src + r.subSize ≤ m.dst ∨ m.dst + r.subSize ≤ m.src →
              m.dst + r.subSize ≤ m.entry ∨ m.entry + 16 ≤ m.dst → (∀ i, i < r.subSize → s.region (m.dst + i) ≠ none) →
              ∀ i, i < r.subSize → t.readByte (m.dst + i) = s.readByte (m.src + i)))
      ∧ (∀ fa, able → c.late = some fa → q.useBar = 0 → q.useCrec = 0 → m.swapPending = true → s.destGone m = false →
          s.otherPins m.entry = 0 → s.hostHolds r m.src = false → free →
        ∃ t, exec (.relocSwap d id) s = .next t ∧ ends t m.dst ∧ (t.die k).tcmds = rest ∧ (t.die k).norep = true)
      ∧ (able → q.useBar = 0 → q.useCrec = 0 → s.destGone m = true →
        ∃ t, exec (.relocDestWriteFail d id) s = .next t ∧ ends t m.src ∧ (t.die k).tcmds = rest)

/-! ## Port groups and the second tier -/

/-- R353 to R366, R369, R370, R372, R378: the port group's state machine. DON starts training in OFF, DOFF leaves TRAIN, MAP, OPEN and
FAULT, both are refused elsewhere with FCAUSE 4; training, mapping, draining, evacuation and unmapping lead on as their rules say,
and timeouts and losses fault; a window shows and leaves behind what its expanders hold under the interleave; what R364 has fail
fails and no more: a drain timeout the refused requests, at their issuers and elements, or the blocks sent and not acknowledged, an abandoned
connection its own blocks, which go out again under new numbers, at most 64 at once; R363's refusals pass a request that was in
flight; an LPDDR-6 channel that fails stays failed, and
the patrol poisons an uncorrectable line. That a port table of more than 4,096 entries faults the group, and that requests in
flight are given from outside, is log 50; that a lost UALink port's blocks count as failed and go out again is log 71: the model's
reading. -/
def Obligations.PortEvents : Prop :=
  ∀ (s : State) (g : PortGroup), s.Settled →
    let p := (s.die g.val).port
    let kept (t : State) : Prop := ∀ m, t.strand m = s.strand m
    let becomes (i : Instr) (q : Port) : Prop := ∃ t, exec i s = .next t ∧ (t.die g.val).port = q ∧ kept t
      ∧ s.MemoryKept t ∧ ∀ d, d ≠ g.val → t.die d = s.die d
    let failing (n : Nat) : Nat := Nat.min (p.failed + n) 4294967295
    (∀ w : Word, let pers := wbits w 4 3
      let good : Prop := p.state = .off ∧ wbits w 0 3 = 2 ∧ 1 ≤ pers ∧ pers ≤ 3
        ∧ (pers ≠ 1 ∨ (p.pcfg.toNat % 4 ≠ 3 ∧ p.pcfg.toNat / 4 % 4 ≠ 3))
      (good → becomes (.don g w) { p with state := .train, tgt := pers, trainSince := s.now, cfgNow := p.pcfg, tabNow := p.ptab
                                          cntNow := p.ptcnt, send := [], recv := [], setups := [] })
      ∧ (¬ good → becomes (.don g w) { p with fcause := 4 }))
    ∧ (p.state = .train ∨ p.state = .map → becomes (.doff g) { p with state := .unmap })
    ∧ (p.state = .isOpen ∨ p.state = .fault →
        let refused := if p.pers = 1 then p.win else p.refused
        ((∀ b ∈ p.flight, b.seq ≠ none) → becomes (.doff g) { p with state := .stop, drainSince := s.now, refused := refused })
        ∧ ∃ t, exec (.doff g) s = .next t ∧ kept t ∧ s.MemoryKept t ∧ (t.die g.val).port.state = .stop
            ∧ (t.die g.val).port.drainSince = s.now ∧ (t.die g.val).port.refused = refused
            ∧ (t.die g.val).port.flight = p.flight.filter fun b => b.seq.isSome)
    ∧ (p.state ∈ [.off, .stop, .evac, .drain, .unmap] → becomes (.doff g) { p with fcause := 4 })
    ∧ (∀ up : BitVec 4, p.state = .train → up ≠ 0 → becomes (.linksTrained g up) { p with up := up, state := .map })
    ∧ (p.state = .train → p.trainSince + 1900000000 ≤ s.now → becomes (.trainTimeout g) { p with state := .fault, fcause := 1 })
    ∧ (p.state = .map → p.tgt = 1 →
        let q := { p with state := .isOpen, pers := 1, failed := 0, win := p.capacity, refused := 0, linkLost := false }
        (p.capacity = 0 → becomes (.mapComplete g) { p with state := .fault, fcause := 5 })
        ∧ (p.capacity ≠ 0 → p.store = [] → p.storePoison = [] → becomes (.mapComplete g) q)
        ∧ (p.capacity ≠ 0 → Sparse.wf memDefault p.store = true → ∃ t, exec (.mapComplete g) s = .next t ∧ kept t
            ∧ { (t.die g.val).port with store := p.store, storePoison := p.storePoison } = q
            ∧ ∀ o, o < p.capacity → p.store.get memDefault (p.expanderKey o) ≠ memDefault →
                t.readByte (windowBase g.val + o) = p.store.get memDefault (p.expanderKey o)))
    ∧ (p.state = .map → p.tgt ≠ 1 →
        let a := wbits p.tabNow 6 42 * 64
        let n := 16 * Nat.min p.cntNow 4096
        let e := s.eccRead a n
        let l := e.readPeers p.tgt a p.cntNow none
        let gets (q : Port) : Prop := ∃ t, exec (.mapComplete g) s = .next t ∧ (t.die g.val).port = q ∧ kept t
          ∧ s.MemoryKept t ∧ ∀ d, d ≠ g.val → t.die d = e.die d
        (∀ x ∈ rowsOf a n, s.rowWaits x none = false) →
        (∀ x, p.cntNow ≤ 4096 → l = some x →
          gets { p with state := .isOpen, pers := p.tgt, failed := 0, win := 0, refused := 0, peers := x, linkLost := false })
        ∧ (4096 < p.cntNow ∨ l = none → gets { p with state := .fault, fcause := 1 }))
    ∧ (∀ i : Fin 4, let up := p.up &&& ~~~ (BitVec.ofNat 4 (2 ^ i.val))
        (p.state = .isOpen → p.pers = 1 → becomes (.linkLost ⟨g, i⟩) { p with state := .fault, fcause := 2, linkLost := true, up := up })
        ∧ (p.state = .isOpen → p.pers ≠ 1 → becomes (.linkLost ⟨g, i⟩) { p with state := .fault, fcause := 2, up := 0 })
        ∧ (p.state = .isOpen → p.pers = 2 →
          (up = 0 → becomes (.ualinkPortLost g i) { p with up := 0, state := .fault, fcause := 2 })
          ∧ (up ≠ 0 → (∀ b ∈ p.flight, b.chan ≠ i.val) → becomes (.ualinkPortLost g i) { p with up := up })
          ∧ (up ≠ 0 → (∃ b ∈ p.flight, b.chan = i.val) → ∃ t, exec (.ualinkPortLost g i) s = .next t ∧ kept t ∧ s.MemoryKept t
              ∧ (t.die g.val).port.up = up ∧ (t.die g.val).port.state = .isOpen
              ∧ (t.die g.val).port.failed = failing (p.flight.countP fun b => b.chan == i.val && b.seq.isSome))))
    ∧ (∀ ch, p.pers = 3 → ∃ t, exec (.connectionAbandoned g ch) s = .next t ∧ kept t ∧ s.MemoryKept t
        ∧ (let q := (t.die g.val).port
           let mine := q.flight.filter fun b => b.chan == ch
           q.recv = p.recv.erase ch ∧ q.setups.get 0 ch = p.setups.get 0 ch + 1 ∧ q.infl = p.infl ∧ q.lateReqs = p.lateReqs ∧ q.state = p.state
           ∧ (q.flight.filter fun b => b.chan != ch) = (p.flight.filter fun b => b.chan != ch)
           ∧ (∀ n, n ≠ ch → q.send.get Chan.reset n = p.send.get Chan.reset n)
           ∧ (p.state = .isOpen → q.failed = failing (p.flight.countP fun b => b.chan == ch && b.seq.isSome)
              ∧ mine.map Block.w = (p.flight.filter fun b => b.chan == ch).map Block.w
              ∧ mine.map Block.seq = (List.range mine.length).map fun i => if i < 64 then some i else none)
           ∧ (p.state ≠ .isOpen → mine = [])))
    ∧ (p.state = .stop ∨ p.state = .drain →
      (p.busy = false → becomes (.drainComplete g) { p with state := if p.pers = 1 then .evac else .unmap })
      ∧ (p.busy = true → becomes (.drainComplete g) { p with state := .drain })
      ∧ (p.busy = true → p.drainSince + usClocks (Nat.max 1 p.pdrain) ≤ s.now →
        (p.pers ≠ 1 → ∃ t, exec (.drainTimeout g) s = .next t ∧ kept t ∧ s.MemoryKept t
          ∧ (t.die g.val).port = { p with failed := failing (p.flight.countP Block.out), flight := [], fcause := 3, state := .unmap })
        ∧ (p.pers = 1 → s.piecesWait (s.latePieces p.lateReqs) none = false → ∃ t, exec (.drainTimeout g) s = .next t
          ∧ (t.die g.val).port = { p with failed := failing p.lateReqs.length, lateReqs := [], fcause := 3, state := .evac }
          ∧ (∀ n a wr, p.lateReqs = [⟨.strand n none, a, wr⟩] → (s.strand n).st = .run ∨ (s.strand n).st = .wait →
              (s.strand n).held = true → s.forwards n 7 = false →
              ((s.strand n).supervisor && (s.strand n).tm) = false → s.saving n = false →
              (s.strand n).Entered (t.strand n) 7 a (s.strand n).pc ∧ ∀ m, m ≠ n → t.strand m = s.strand m)
          ∧ ∀ n i a wr, p.lateReqs = [⟨.strand n (some i), a, wr⟩] → (s.strand n).st = .run ∨ (s.strand n).st = .wait →
              (s.strand n).failAt = none → t.agenda = .strand n :: s.agenda ∧ t.strand n = { s.strand n with failAt := some i }
                ∧ ∀ m, m ≠ n → t.strand m = s.strand m)))
    ∧ (∀ a, inWindow g.val a = true →
        (s.issuer = none → s.windowRefused a = decide (a - windowBase g.val < p.refused))
        ∧ ∀ i, s.issuer = some i → p.passes i = true → s.windowRefused a = false)
    ∧ (p.state = .evac → p.pcount = 0 → p.inFlight = 0 → becomes (.evacComplete g) { p with state := .unmap })
    ∧ (p.state = .unmap →
        let q := { p with state := .off, pers := 0, up := 0, win := 0, peers := [] }
        (p.win = 0 → becomes (.unmapComplete g) q)
        ∧ (p.win ≠ 0 → ∃ t, exec (.unmapComplete g) s = .next t ∧ kept t
            ∧ { (t.die g.val).port with store := p.store, storePoison := p.storePoison } = q
            ∧ (∀ o, o < 1099511627776 → t.readByte (windowBase g.val + o) = memDefault)
            ∧ (p.store = [] → ∀ o, o < 1099511627776 →
                (t.die g.val).port.store.get memDefault (p.expanderKey o) = s.readByte (windowBase g.val + o))
            ∧ ∀ a, inWindow g.val a = false → t.readByte a = s.readByte a))
    ∧ (∀ c : Fin 64, ∃ t, exec (.lpddrChannelFailure c) s = .next t ∧ c.val ∈ t.badChannels ∧ t = { s with badChannels := t.badChannels }
        ∧ ∀ x, x ≠ c.val → (x ∈ t.badChannels ↔ x ∈ s.badChannels))
    ∧ ∀ pa : BitVec 48, pa.toNat / 64 ∈ s.badLines → ∃ t, exec (.lpddrPatrolScrub pa) s = .next t
        ∧ t.poison.get false (pa.toNat / 64) = true ∧ pa.toNat / 64 ∉ t.badLines
        ∧ t = { s with poison := t.poison, badLines := t.badLines }

/-! ## The host, boot and management -/

/-- R110 to R112, R343 to R348: a snoop answers the line's coherent bytes, and bytes the host then stores in its own memory are
there; an HDM read answers a line, a write reaches its bytes and no others and leaves the host no copy; a BAR0 access of 8 aligned
bytes reads or writes a register, another aborts; the link's loss stops every queue and drops the instruction lines of host memory,
and its return is noted; a cluster whose strands are IDLE is gated, its dirty lines written back. That answers gather in
State.out and that the host's accesses and its link's state are events is log 5, the model's choice; that the home L2 keeps the
bytes behind dirty L1 lines, which a snoop and a gated cluster give up, is log 4. -/
def Obligations.HostEvents : Prop :=
  ∀ (s : State), s.Settled → s.Healthy → s.boot ≠ .failed →
    let kept (t : State) : Prop := ∀ m, t.strand m = s.strand m
    (∀ pa : BitVec 48, let a := pa.toNat / 64 * 64
      let answered (t : State) : Prop := kept t ∧ t.out = .snoop a (s.readBytes a 64) (s.poisoned a) :: s.out
        ∧ ∀ i, i < 64 → t.l2.get none (a + i) = none
      ((s.region a).isSome = true → ∃ t, exec (.hostSnoop ⟨pa, none⟩) s = .next t ∧ answered t ∧ s.MemoryKept t)
      ∧ ∀ bs, isHost pa.toNat = true → pa.toNat % 64 + bs.length ≤ 64 →
        ∃ t, exec (.hostSnoop ⟨pa, some bs⟩) s = .next t ∧ answered t ∧ s.MemoryKeptBut pa.toNat bs.length t
          ∧ (∀ i, i < bs.length → some (t.readByte (pa.toNat + i)) = bs[i]?) ∧ ∀ i, i < 64 → t.arr.get none (a + i) = none)
    ∧ (∀ (pa : BitVec 48) bs, let a := pa.toNat
      s.hdmFail a = none → s.rowWaits a none = false →
      (∃ t, exec (.hostHdmAccess pa none) s = .next t ∧ kept t ∧ s.MemoryKept t
        ∧ t.out = .hdm (a / 64 * 64) (s.readBytes (a / 64 * 64) 64) ((s.eccRead (a / 64 * 64) 64).poisoned a) :: s.out)
      ∧ (a % 64 + bs.length ≤ 64 → (∀ i, i < bs.length → s.region (a + i) ≠ none) →
        ∃ t, exec (.hostHdmAccess pa (some bs)) s = .next t ∧ kept t ∧ s.MemoryKeptBut a bs.length t
          ∧ (∀ i, i < bs.length → some (t.readByte (a + i)) = bs[i]?) ∧ t.out = s.out ∧ a / 64 ∉ t.hostCopies))
    ∧ (∀ (pa : BitVec 48) bs c, s.hdmFail pa.toNat = some c →
      exec (.hostHdmAccess pa none) s
          = .next { s with out := .hdm (pa.toNat / 64 * 64) (List.replicate 64 0) true :: s.out }
      ∧ ∃ t, exec (.hostHdmAccess pa (some bs)) s = .next t ∧ kept t ∧ t.out = s.out
        ∧ (t.die (pa.toNat / 4096 % 8)).dmseq = (s.die (pa.toNat / 4096 % 8)).dmseq + 1)
    ∧ (∀ off len w, (len ≠ 8 ∨ off % 8 ≠ 0 ∨ 8388608 ≤ off →
          exec (.hostBar0Access off len w) s = .next { s with out := .abort off :: s.out })
        ∧ (len = 8 → off % 8 = 0 → off < 8388608 →
          exec (.hostBar0Access off len none) s
              = .next { s with out := .bar0 off (s.ctrlRead (off / 1048576) (off % 1048576)) :: s.out }
          ∧ ∀ v : Word, off % 1048576 = 0x30000 → ∃ t, exec (.hostBar0Access off len (some v)) s = .next t ∧ kept t ∧ s.MemoryKept t
              ∧ (t.die (off / 1048576)).qage = v.setWidth 20))
    ∧ (∃ t, exec .hostLinkDown s = .next t ∧ kept t ∧ t.hostUp = false
        ∧ (∀ c l, isHost (64 * l) = true → (t.core c).icache.get [] l = [])
        ∧ ∀ d q x, d < 8 → (s.die d).queue q = some x → x.enabled = true → x.err = false →
          ∃ y, (t.die d).queue q = some y ∧ y.err = true ∧ y.errc = 0x12)
    ∧ exec .hostLinkUp s = .next { s with hostUp := true }
    ∧ ∀ c : CoreId, (s.strand (2 * c.val)).st = .idle → (s.strand (2 * c.val + 1)).st = .idle →
      ∃ t, exec (.clusterPowerGate c) s = .next t ∧ kept t ∧ s.MemoryKept t ∧ (t.core c.val).gated = true ∧ (t.core c.val).icache = []
        ∧ (∀ m, m ≠ c.val → t.core m = s.core m) ∧ ∀ a b, t.l2.get none a = some b → b.2 ≠ c.val

/-- R18, R20, R143, R354, R373 to R375, R386, R391 to R393, R405 to R409: module reset runs the ROM, which verifies an image or leaves every strand IDLE;
firmware starts on strand 0 of core 0 of every die in supervisor mode; writes of lpart, DMBASE, DUPPOOL and a control register, a
roster's installation and retirement; MCTP reads, cap writes, the error answer of every other request, and quotes; R374's act on a
launch message and R375's report. What a reset keeps of the flash and the world outside, the keys and the nonce of a quote are log 6,
the model's choice, and ECDSA and SHA-384 are logs 6 and 13; that answers gather in State.out is log 5; that a ring that cannot be written gives status 3 is
log 71, so the status 1 of the message here has its ring and tail line in reach. -/
def Obligations.BootAndManagement : Prop :=
  ∀ (s : State) (d : Die) (c : CoreId) (w : Word), s.Settled →
    let k := d.val
    let kept (t : State) : Prop := (∀ m, t.strand m = s.strand m) ∧ s.MemoryKept t ∧ ∀ m, m ≠ k → t.die m = s.die m
    (∃ t, exec .moduleReset s = .next t ∧ (∀ n, t.strand n = Strand.reset) ∧ (∀ m, t.core m = Core.reset) ∧ t.now = 0
      ∧ t.slotA = s.slotA ∧ t.slotB = s.slotB ∧ t.configs = s.configs
      ∧ t.member = BitVec.ofNat 32 (((applies s.configs 1).map fun r => ofBytes (recBody r)).getD 0)
      ∧ (t.die 0).pcap = ((applies s.configs 3).map fun r => BitVec.ofNat 12 (ofBytes (recBody r))).getD 3000
      ∧ (∀ m q f, (t.die m).queue q = none ∧ (t.die m).farm f = none ∧ (t.die m).launches = [] ∧ (t.die m).port.state = .off)
      ∧ (s.bootImage = none → t.boot = .failed ∧ t.out = .bootFailed :: s.out ∧ t.measures = (inUse s.configs).map sha384)
      ∧ ∀ x, s.bootImage = some x → t.boot = .verified x.entry
          ∧ t.measures = (x.parts.map fun p => sha384 p.bytes) ++ (inUse s.configs).map sha384)
    ∧ (∀ e, s.boot = .verified e → ∃ t, exec .firmwareStart s = .next t ∧ t.boot = .started ∧ s.MemoryKept t
      ∧ (∀ i, i < 8 → t.strand (64 * i) = { s.strand (64 * i) with st := .run, pc := e, sstat := 7 })
      ∧ ∀ n, (∀ i, i < 8 → n ≠ 64 * i) → t.strand n = s.strand n)
    ∧ (∃ t, exec (.lpartWrite c w) s = .next t ∧ (∀ m, m ≠ c.val → t.core m = s.core m) ∧ s.MemoryKept t
      ∧ (t.core c.val).lpreq = w.setWidth 8 ∧ (∀ i, i < 8 → (t.core c.val).quar.getLsbD i
          = ((s.core c.val).quar.getLsbD i && !w.getLsbD (24 + i))) ∧ (t.core c.val).own0 = (s.core c.val).own0)
    ∧ (∃ t, exec (.dmbaseWrite d w) s = .next t ∧ kept t ∧ (t.die k).dmhead = 0 ∧ (t.die k).dmtail = 0
      ∧ wbits (t.die k).dmbase 0 5 = wbits w 0 5 ∧ wbits (t.die k).dmbase 12 36 = wbits w 12 36
      ∧ (t.die k).dmlost.toNat
          = Nat.min ((s.die k).dmlost.toNat + ((s.die k).dmtail - (s.die k).dmhead).toNat) 4294967295)
    ∧ (∃ t, exec (.duppoolWrite d w) s = .next t ∧ kept t ∧ (t.die k).duppool = w
      ∧ ∀ b, b < 64 → (b ∈ (t.die k).dupHold ↔ (s.die k).shadowBank b = true ∧ w.getLsbD b = false ∧ (s.die k).shadowIn b = true))
    ∧ (∃ t, exec (.controlRegisterWrite d 0x20000 w) s = .next t ∧ kept t ∧ (t.die k).abudget = w.setWidth 10)
    ∧ ((s.die k).tcmds.length < 64 → ∃ t, exec (.controlRegisterWrite d 0x10028 w) s = .next t ∧ kept t
      ∧ (t.die k).tcmds = (s.die k).tcmds ++ [⟨wbits w 6 42 * 64, [], false, 0, 0, 0, none⟩])
    ∧ (∀ ms i, s.rosterBody (wbits w 6 42 * 64) = some ms → (s.die k).rosterOf (rosterDigest ms) = none →
        i < 16 → (s.die k).rosters.get none i = none → (∀ j, j < i → ((s.die k).rosters.get none j).isSome = true) →
      ∃ t, exec (.rosterInstall d w) s = .next t ∧ kept t ∧ (t.die k).crstatus = 1 ∧ (t.die k).crslot = BitVec.ofNat 8 i
        ∧ (t.die k).rosters.get none i = some ⟨rosterDigest ms, ms, false, 0, 0⟩)
    ∧ (∀ i r, (s.die k).rosterOf (wbits w 0 48) = some (i, r) → r.retiring = false →
      ∃ t, exec (.rosterRetire d w) s = .next t ∧ kept t ∧ (t.die k).crstatus = 1
        ∧ (t.die k).rosters.get none i = if r.issued = 0 then none else some { r with retiring := true })
    ∧ (∀ off : BitVec 20, mctpReads off.toNat = true → exec (.mctpReadRegister d off) s
        = .next { s with out := .mctp true (ofWords [s.ctrlRead k off.toNat]) :: s.out })
    ∧ (∀ off : BitVec 20, mctpReads off.toNat = false →
        exec (.mctpReadRegister d off) s = .next { s with out := .mctp false [] :: s.out })
    ∧ (∃ t, exec (.mctpWriteCapw ⟨0, 0x60020, w⟩) s = .next t ∧ (t.die 0).pcap = w.setWidth 12 ∧ t.out = .mctp true [] :: s.out
      ∧ (∀ m, t.strand m = s.strand m) ∧ s.MemoryKept t)
    ∧ (∀ x : MctpWrite, x.die ≠ 0 ∨ x.off ≠ 0x60020 →
        exec (.mctpWriteCapw x) s = .next { s with out := .mctp false [] :: s.out })
    ∧ (∀ nonce, nonce.length = 48 → ∃ n sig, sig = ecdsaSign Config.identityKey n (sha384 (s.quoteBody nonce)) ∧ sig.length = 96
      ∧ exec (.attestationQuote nonce) s = .next { s with out := .mctp true (s.quoteBody nonce ++ sig) :: s.out })
    ∧ ∀ (x : Sender) bytes, bytes.length = 128 → 2 ≤ (s.die x.group.val).port.pers → (s.die x.group.val).port.state = .isOpen →
      let ws := toWords 16 bytes
      let qn := (wordAt ws 8).toNat
      let queue (t : State) := (t.die (qn / 16384)).queue (qn % 16384)
      let num (r : List Byte) (a n : Nat) := ofBytes ((r.drop a).take n)
      let answers (t : State) (status k : Nat) : Prop := exec (.launchMessage x bytes) s = .next t ∧ (∀ m, t.strand m = s.strand m)
        ∧ ∃ r, t.out = .report x.group.val x.chan r :: s.out ∧ r.length = 128 ∧ num r 0 8 = (wordAt ws 9).toNat
          ∧ num r 8 8 = status + k % 2 ^ 48 * 65536 ∧ (∀ m, m < 8 → num r (80 + 4 * m) 4 = (s.die m).free1.toNat)
          ∧ ∀ i, i < 4 → wordAt ws (10 + i) = 0 → num r (16 + 16 * i) 8 = 2 ^ 64 - 1 ∧ num r (24 + 16 * i) 8 = 0
      s.piecesWait (s.messagePlaces ws) none = false →
      (131071 < qn ∨ wordAt ws 14 ≠ 0 ∨ wordAt ws 15 ≠ 0 → ∃ t, answers t 4 0 ∧ s.MemoryKept t)
      ∧ (qn ≤ 131071 → wordAt ws 14 = 0 → wordAt ws 15 = 0 →
        (queue s = none → ∃ t, answers t 3 0 ∧ s.MemoryKept t)
        ∧ ∀ y, queue s = some y →
          (y.enabled = false ∨ y.err = true → ∃ t, answers t 3 0 ∧ s.MemoryKept t ∧ queue t = some y)
          ∧ (y.enabled = true → y.err = false →
            (y.tail.toNat - y.head.toNat = 2 ^ y.log2n → ∃ t, answers t 2 0 ∧ s.MemoryKept t ∧ queue t = some y)
            ∧ (y.tail.toNat - y.head.toNat ≠ 2 ^ y.log2n → s.physLost (y.slot y.tail) = none → s.physLost y.taila = none →
              ∃ t z, answers t 1 y.tail.toNat ∧ queue t = some z
                ∧ z = { y with tail := y.tail + 1, readyAt := z.readyAt }
                ∧ (s.Healthy → (∀ i, i < 64 → s.region (y.slot y.tail + i) ≠ none) → (∀ i, i < 8 → s.region (y.taila + i) ≠ none) →
                    y.slot y.tail + 64 ≤ y.taila ∨ y.taila + 8 ≤ y.slot y.tail →
                  t.readBytes (y.slot y.tail) 64 = bytes.take 64 ∧ t.readNum y.taila 8 = (y.tail.toNat + 1) % 2 ^ 64
                    ∧ ∀ a, (a < y.slot y.tail ∨ y.slot y.tail + 64 ≤ a) → (a < y.taila ∨ y.taila + 8 ≤ a) →
                        t.readByte a = s.readByte a))))

/-! ## Row micro-ops -/

/-- R115, R116, R128 to R131, R133: each micro-op that writes row X leaves its lanes as its rule says, the step going on; no byte
outside a data row X changes, and none at all for another row; rnot writes the dual-contact row it names as well, and rmaj the three
rows of its triple. The rows read are those of the step's view (R106). A duplicated run's shadow does the same in the same row of its own mitten, where each row the run can read has
been written there too. That a partial write of a row not yet written in its step keeps open lanes is log 19, the model's reading. -/
def Obligations.RowsWritten : Prop :=
  ∀ (s : State) (l : Launch) (r : Run) (x y : BitVec 10) (b : BitVec 3) (n m clr : Bool) (tri q : BitVec 4) (dist : BitVec 2)
    (dst src : Nat) (v k0 k1 k2 mask : Nat), s.Settled →
    let k := s.curRun / 2560
    let now := s.stepView k l r
    let d := if dist = 0 then 1 else if dist = 1 then 16 else 1024
    let idx := if y.getLsbD 5 then (r.l.get 0 (y.toNat / 64 % 4)).toNat % 32 else y.toNat % 32
    let three := if tri = 0 then (1008, 1009, 1010) else if tri = 1 then (1011, 1012, 1013) else (1013, 1014, 1015)
    let old (i : Nat) := (now.keptLanes k r dst).testBit i
    let source : Prop := r.rowY y.toNat b.toNat = .ok src ∧ now.lanes k r src = .ok v
    let majority : Prop := now.lanes k r three.1 = .ok k0 ∧ now.lanes k r three.2.1 = .ok k1 ∧ now.lanes k r three.2.2 = .ok k2
    let rows : List (Instr × Nat × Prop × (Nat → Bool)) :=
      [(.rcopy x y b, 36, source, fun i => v.testBit i), (.rnot x y b n, 38, source, fun i => !v.testBit i),
       (.rmaj x b tri, 42, majority, fun i => (k0.testBit i && k1.testBit i) || (k0.testBit i && k2.testBit i)
          || (k1.testBit i && k2.testBit i)),
       (.rset x b n, 36, True, fun _ => n), (.rbcst x y b q, 36, True, fun _ => (l.q.getD q.toNat 0).getLsbD idx),
       (.rmwr x y b m, 44, source ∧ now.lanes k r (1020 + m.toNat) = .ok mask,
        fun i => if mask.testBit i then v.testBit i else old i),
       (.rshl x y b dist, 40, source, fun i => decide (d ≤ i % 16384) && v.testBit (i - d)),
       (.rshr x y b dist, 40, source, fun i => decide (i % 16384 + d < 16384) && v.testBit (i + d)),
       (.raccw x b clr, 40, r.differs = false, fun i =>
          if i % 16384 < 512 then (r.acc.get 0 (16 * (i / 16384) + i % 16384 / 32)).getLsbD (i % 32) else old i)]
    let twins : Prop := ∀ m, r.shadow = some m → m ≠ r.mitten ∧ ∀ row u, now.lanes k r row = .ok u →
      ∃ w, now.lanes k (r.twin m) row = .ok w
    r.rowX x.toNat b.toNat true = .ok dst → twins →
    (∀ p ∈ rows, s.MayRun l r p.2.1 → p.2.2.1 →
      ∃ t, exec p.1 s = .next t ∧ (∀ j, t.strand j = s.strand j)
        ∧ t.HasRun k l r (fun z => r.Steps z p.2.1 ∧ z.pc = r.pc + 1 ∧ (∀ i, i < 262144 → t.laneOf k z dst i = p.2.2.2 i)
          ∧ z.b = r.b ∧ z.l = r.l)
        ∧ (1008 ≤ dst → s.MemoryKept t)
        ∧ (dst < 1008 → (t.die k).rowUnsealed.get false (2560 * dst + r.mitten) = true
            ∧ ∀ a, inRow (r.rowAt k dst) a = false → (∀ m, r.shadow = some m → inRow (rowAddr k m dst) a = false) →
                t.readByte a = s.readByte a))
    ∧ (s.MayRun l r 38 → source → dst ≠ 1016 + n.toNat → ∃ t, exec (.rnot x y b n) s = .next t
        ∧ t.HasRun k l r fun z => (∀ i, i < 262144 → t.laneOf k z (1016 + n.toNat) i = v.testBit i)
          ∧ t.lanes k z (1016 + n.toNat) = .ok (rowNot v))
    ∧ (s.MayRun l r 42 → majority → ∃ t, exec (.rmaj x b tri) s = .next t
        ∧ t.HasRun k l r fun z => ∀ row ∈ [three.1, three.2.1, three.2.2], ∀ i, i < 262144 → t.laneOf k z row i
          = ((k0.testBit i && k1.testBit i) || (k0.testBit i && k2.testBit i) || (k1.testBit i && k2.testBit i)))

/-- R123, R129, R131, R138: accumulators, loop counters, base registers and the pc after the micro-ops that write no row, for a run
with a shadow too; raccb writes the result region once. That a .clr form or raccb compares the duplicates before its other checks is
log 63, the model's reading, and no clause turns on it. -/
def Obligations.RunRegisters : Prop :=
  ∀ (s : State) (l : Launch) (r : Run) (x y : BitVec 10) (b sh : BitVec 3) (hi clr : Bool) (a op : BitVec 2) (bi : BitVec 5)
    (q : BitVec 4) (i j u v : Nat), s.Settled →
    let k := s.curRun / 2560
    let now := s.stepView k l r
    let cnt := r.l.get 0 a.toNat
    let down := if cnt = 0 then cnt else cnt - 1
    let taken (want : Bool) : Nat := if (l.q.getD q.toNat 0).getLsbD bi.toNat == want then x.toNat else r.pc + 1
    let ones (c : Nat) := (List.range 1024).countP fun n => u.testBit (1024 * c + n) && v.testBit (1024 * c + n)
    let add (c : Nat) : BitVec 32 := BitVec.ofNat 32 (ones c * 2 ^ (sh.toNat + if hi then 8 else 0))
    let base (z : Run) (n : Nat) := (z.b.get 0 n).toInt
    let goes (e : Instr) (ns pc : Nat) (p : Run → Prop) : Prop := s.MayRun l r ns →
      (∀ m, r.shadow = some m → ∀ row w, now.lanes k r row = .ok w → ∃ w', now.lanes k (r.twin m) row = .ok w') →
      ∃ t, exec e s = .next t ∧ (∀ n, t.strand n = s.strand n) ∧ s.MemoryKept t
        ∧ t.HasRun k l r fun z => r.Steps z ns ∧ z.pc = pc ∧ z.rows = r.rows ∧ p z
    let counters (z : Run) (w : BitVec 32) : Prop := z.l.get 0 a.toNat = w ∧ (∀ n, n ≠ a.toNat → z.l.get 0 n = r.l.get 0 n)
      ∧ z.b = r.b ∧ z.acc = r.acc
    let bases (z : Run) (w : BitVec 16) : Prop := z.b.get 0 b.toNat = w ∧ (∀ n, n ≠ b.toNat → z.b.get 0 n = r.b.get 0 n)
      ∧ z.l = r.l ∧ z.acc = r.acc
    let same (z : Run) : Prop := z.l = r.l ∧ z.b = r.b
    goes .raclr 2 (r.pc + 1) (fun z => same z ∧ ∀ c, z.acc.get 0 c = 0)
    ∧ goes (.rldl y a) 2 (r.pc + 1) (fun z => counters z (y.setWidth 32))
    ∧ goes (.rldlQ q a) 2 (r.pc + 1) (fun z => counters z (l.q.getD q.toNat 0))
    ∧ goes (.rloop x a) 2 (if down = 0 then r.pc + 1 else x.toNat) (fun z => counters z down)
    ∧ goes (.rbtSet x bi q) 2 (taken true) (fun z => same z ∧ z.acc = r.acc)
    ∧ goes (.rbtClr x bi q) 2 (taken false) (fun z => same z ∧ z.acc = r.acc)
    ∧ goes (.rbset x b op) 2 (r.pc + 1) (fun z => bases z (match r.ops.find? fun o => o.num == op.toNat with
        | some o => BitVec.ofNat 16 (o.row + x.toNat)
        | none => 0))
    ∧ goes (.rbsetK x b) 2 (r.pc + 1) (fun z => bases z (x.setWidth 16))
    ∧ goes (.rbstep x b) 2 (r.pc + 1) (fun z => bases z (r.b.get 0 b.toNat + x.signExtend 16))
    ∧ (r.rowX x.toNat b.toNat false = .ok i → r.rowY y.toNat b.toNat = .ok j → now.lanes k r i = .ok u → now.lanes k r j = .ok v →
        goes (.rpcaAdd hi x y b sh) 72 (r.pc + 1) (fun z => same z ∧ ∀ c, c < 256 → z.acc.get 0 c = r.acc.get 0 c + add c)
        ∧ goes (.rpcaSub hi x y b sh) 72 (r.pc + 1) (fun z => same z ∧ ∀ c, c < 256 → z.acc.get 0 c = r.acc.get 0 c - add c))
    ∧ (let slot := base r b.toNat + y.toNat
       let off := r.index * l.stride + 1024 * slot.toNat
       let z := windowByte k (l.region + BitVec.ofNat 64 off)
       0 ≤ slot → off + 1024 ≤ l.regionLen → isWindow l.region = true → objOff l.region + l.regionLen ≤ 2097152 →
          r.differs = false → s.MayRun l r 40 →
        ∃ t, exec (.raccb y b clr) s = .next t ∧ (∀ n, t.strand n = s.strand n) ∧ s.MemoryKeptBut z 1024 t
          ∧ (∀ c, c < 256 → t.readNum (z + 4 * c) 4 = (r.acc.get 0 c).toNat)
          ∧ t.HasRun k l r fun w => r.Steps w 40 ∧ w.pc = r.pc + 1 ∧ w.sent = r.sent + 1024
            ∧ ∀ c, w.acc.get 0 c = if clr then 0 else r.acc.get 0 c)

/-- R129, R133, R135 to R138, R142: rseal and rcheck leave their data rows sealed, in the shadow too; rwait ends the step, whose
compute and dual-contact rows become invalid; rend ends the run, or leaves the rows it wrote to be compared with the shadow's and
those unsealed to be sealed; the sequencer's steps behind it seal them and end the run, and those before the first micro-op fail a
run whose source row stands poisoned; a row that differs from the shadow's fails it; rraise fails the run. That rows which are no
data rows are left alone is log 42, and in what order a step's rows go log 70: the model's reading. -/
def Obligations.RunBoundaries : Prop :=
  ∀ (s : State) (l : Launch) (r : Run) (x : BitVec 10) (b : BitVec 3) (cnt : BitVec 4) (code : BitVec 8) (rows : List Nat), s.Settled →
    let k := s.curRun / 2560
    let now := s.stepView k l r
    let key (row : Nat) := 2560 * row + r.mitten
    let unsealed (row : Nat) : Prop := (s.die k).rowUnsealed.get false (key row) = true
    let strands (t : State) : Prop := ∀ n, t.strand n = s.strand n
    let kept (t : State) : Prop := strands t ∧ s.MemoryKept t
    let sealed (t : State) (l : List Nat) : Prop := ∀ row ∈ l, row < 1008 → (t.die k).rowUnsealed.get false (key row) = false
    let time := 36 * (cnt.toNat + 1)
    (r.rowRange x.toNat b.toNat (cnt.toNat + 1) true = .ok rows → s.MayRun l r time →
      ∃ t, exec (.rseal x b cnt) s = .next t ∧ kept t ∧ sealed t rows
        ∧ (∀ row ∈ rows, row < 1008 → row ∈ r.whole → unsealed row → (t.die k).rowPoison.get false (key row) = false)
        ∧ t.HasRun k l r fun z => r.Steps z time ∧ z.pc = r.pc + 1)
    ∧ (r.rowRange x.toNat b.toNat (cnt.toNat + 1) false = .ok rows → s.MayRun l r time → (s.die k).rowErrs = [] →
        (∀ m, r.shadow = some m → m < 2560 ∧ m ≠ r.mitten) → (∀ m, m = r.mitten ∨ r.shadow = some m → ∀ row ∈ rows, row < 1008 →
          (s.die k).rowUnsealed.get false (2560 * row + m) = false → (s.die k).rowPoison.get false (2560 * row + m) = false) →
      ∃ t, exec (.rcheck x b cnt) s = .next t ∧ kept t ∧ sealed t rows ∧ t.HasRun k l r fun z => r.Steps z time ∧ z.pc = r.pc + 1)
    ∧ (s.MayRun l r 0 → ∃ t, exec .rwait s = .next t ∧ kept t ∧ t.HasRun k l r fun z =>
        z.pc = r.pc + 1 ∧ z.count = r.count + 1 ∧ z.stepNs = 0 ∧ z.midStep = false ∧ z.stage = .running
        ∧ ∀ row, z.rows.get none row = if row < 1018 then none else r.rows.get none row)
    ∧ (s.MayRun l r 2 → r.broken = false →
      (r.shadow = none → (∀ row ∈ r.written, row < 1008 → ¬ unsealed row) →
        ∃ t, exec .rend s = .next t ∧ kept t ∧ sealed t r.written ∧ t.HasRun k l r fun z => z.stage = .ended)
      ∧ ((∃ row ∈ r.written, row < 1008 ∧ (r.shadow ≠ none ∨ unsealed row)) →
        ∃ t, exec .rend s = .next t ∧ kept t ∧ t.HasRun k l r fun z => z.stage = .running ∧ z.ending = true ∧ z.midStep = false
          ∧ ∀ row, (.compare row ∈ z.todo ↔ r.shadow ≠ none ∧ row ∈ r.written ∧ row < 1008)
            ∧ (.sealRow row ∈ z.todo ↔ unsealed row ∧ row ∈ r.written ∧ row < 1008)))
    ∧ (s.MayRun l r 2 → ∃ t, exec (.rraise code) s = .next t ∧ strands t ∧ t.HasRun k l r fun z => z.stage = .failed)
    ∧ (s.runAt s.curRun = some (l, r) → r.launch = l.id → s.stepHeld k r = false → r.broken = false →
      let fails : Prop := ∃ t, choreStep s = .next t ∧ strands t ∧ t.HasRun k l r fun z => z.stage = .failed
      (r.shadow = none → r.ending = true → rows ≠ [] → rows.length ≤ 27 → r.todo = rows.map Chore.sealRow →
        ∃ t, choreStep s = .next t ∧ kept t ∧ sealed t rows ∧ t.HasRun k l r fun z => z.stage = .ended)
      ∧ (∀ row c, r.todo = .scrub row :: c → (s.die k).rowPoison.get false (key row) = true → fails)
      ∧ ∀ row c m, r.todo = .compare row :: c → r.shadow = some m →
          r.mismatch = true ∨ now.readRow (r.rowAt k row) ≠ now.readRow (rowAddr k m row) → fails)

/-! ## The whole machine -/

/-- A word at the pc: where the walk of a fetch passes, nothing waits, no poison is met and no cache holds the lines, the word
fetched is the four bytes at its place, the low byte first; a fetch changes of its strand only the word in work and the waits it
ends, and no byte of memory. A strand that runs then runs the instruction its word decodes to, or takes R152's trap; one that reads a
register with an error consumes it unless it traps without the value (R384), and one that names a register a vrest has still to write
waits (R249); a held strand runs the word it holds again, an idle one does nothing, and a decided trap is entered. A run runs the
micro-op at its pc, or the sequencer's own next step for it (R135); an agent takes the event the agenda names, an acknowledgement, or
an error of a die's own memory (R404). R107, R140: a turn whose access has noted the rows it waits for is put off, and the first turn
put off whose rows are free comes before the agenda; of a strand's turn the strand keeps them, and a turn that is undone leaves
the state it began with but for the timeouts it started. R363, R364: the turn of an issuer with requests in flight begins with
them passing the refusals. That one agent moves at a time, as the
agenda says, is log 1, that a waiting instruction runs again log 24, what counts as a trap without the value log 68, and the time a
step takes log 11: the model's choices. -/
def Obligations.StepRunsDecoded : Prop :=
  ∀ (s : State) (n : Nat) (r : List Turn), s.Settled → n < 512 → s.agenda = .strand n :: r → s.freed = none →
    let v : State := { ({ s with agenda := r } : State).issuing (some (.strand n none)) with cur := n }
    let ends (o : Host.Outcome State Fault Refusal) : Prop := step s = Sys2Proof.Machine.pass (keepNoted v o)
    let runs (w : Code) (t : State) : Prop :=
      (∀ i, decode w = .ok i → t.badRead i = none → ends (if t.restWaits i then run State.hold t else exec i t))
      ∧ (∀ i e, decode w = .ok i → t.badRead i = some e →
          ends (if t.earlyTrap e (exec i) then exec i t else run (fun u => u.consumeReg e) t))
      ∧ (decode w = .error .illegal → ends (run (fun u => u.trap 1 0) t))
      ∧ (decode w = .error .reserved → ends (run (fun u => u.trap 2 0) t))
    let awake : Prop := v.me.st = .run ∨ v.me.st = .wait
    (v.me.st = .run → v.me.pend = none → v.me.held = false →
      (∀ t w, v.fetch = .word t w → runs w t ∧ t.me = { v.me with iw := w, pins := [], rowWait := [] } ∧ v.MemoryKept t
        ∧ ∀ m, m ≠ n → t.strand m = s.strand m)
      ∧ ∀ h q, v.walk (v.agentOf n) .fetch v.myHolds v.me.pc 4 0 32 = .ok h → h.reach = .bytes (bytePieces q 4) → q % 64 ≤ 60 →
          v.piecesWait (bytePieces q 4) (some n) = false →
          (v.eccPieces (bytePieces q 4)).piecesPoisoned (bytePieces q 4) = false →
          (∀ i, i < 4 → (v.core (coreOf n)).icache.get [] ((q + i) / 64) = [] ∧ v.dirtyInL1 ((q + i) / 64) = false) →
          ∃ t, v.fetch = .word t (BitVec.ofNat 32 (v.readNum q 4)))
    ∧ (awake → v.me.pend = none → v.me.held = true → runs v.me.iw v)
    ∧ (awake → ∀ x, v.me.pend = some x → ends (run (fun u => u.enterTrap n x) v))
    ∧ (v.me.st = .idle → ends (.next v))
    ∧ (let moves (t : Turn) (o : Host.Outcome State Fault Refusal) : Prop :=
         step { s with agenda := t :: r } = Sys2Proof.Machine.pass (putOff t (({ s with agenda := r } : State).issuing (s.turnIssuer t)) o)
       let b (t : Turn) : State := ({ s with agenda := r } : State).issuing (s.turnIssuer t)
       (∀ m l x, m < 20480 →
        let c : State := { b (.run m) with curRun := m }
        s.runAt m = some (l, x) →
          (x.todo ≠ [] → moves (.run m) (choreStep c))
          ∧ ∀ w i, x.todo = [] → l.mprog[x.pc]? = some w → decodeMicro w = some i → moves (.run m) (exec i c))
       ∧ (∀ g ch m, g < 8 → moves (.ack g ch m) (run (fun u => u.ackBlock g ch m) (b (.ack g ch m))))
       ∧ (∀ i, encodeNat i = none → moves (.event i) (exec i (b (.event i))))
       ∧ (∀ f, f.ok = true → moves (.flaw f) (run (fun u => u.meetFlaw f) (b (.flaw f))))
       ∧ (∀ a m, moves (.refill a m) (run (fun u => u.refill a m) (b (.refill a m))))
       ∧ ∀ x bs, step { s with agenda := .message x bs :: r } = .fault .noSuchTurn)
    ∧ (∀ t c u, (u.noted = [] → putOff t c (.next u) = .next u ∧ keepNoted c (.next u) = .next u)
        ∧ (u.noted ≠ [] → u.undo = false →
            putOff t c (.next u) = .next { u with waiting := u.waiting ++ [(t, u.noted)], noted := [] }
            ∧ keepNoted c (.next u) = .next { (u.upd fun x => if x.held then { x with rowWait := u.noted } else x) with noted := [] })
        ∧ (u.noted ≠ [] → u.undo = true →
            let o := c.startWaits u.noted
            putOff t c (.next u) = .next { o with waiting := o.waiting ++ [(t, u.noted)], noted := [], undo := false }
            ∧ keepNoted c (.next u) = .next { (o.upd fun x => { x with rowWait := u.noted }) with noted := [], undo := false }))
    ∧ ∀ ws w ts, (∀ p ∈ ws, ∃ a ∈ p.2, s.rowWaits a none = true) → (∀ a ∈ w.2, s.rowWaits a none = false) →
        step { s with waiting := ws ++ w :: ts } = takeTurn w.1 { s with waiting := ws ++ ts }

/-- Words that the spec's worked examples assemble, and words that R152 names as trapping. -/
def Obligations.WordsDecode : Prop :=
  (∀ p ∈ ([(0x60C20000, .vsetl 12 4), (0x80204193, .vfadd 4 2 (.vv 3) 1 true), (0x80204197, .vfadd 4 2 (.vs 3) 1 true),
      (0x64114620, .vlds 2 5 6 0 false), (0x64114624, .vlds 2 5 6 1 false), (0xD4404517, .mmacb 8 2 1 4 5),
      (0xD4404513, .mmacb 8 2 1 4 4), (0x56003D0F, .fence 15 .die 15), (0x1AE00000, .lui 14 0), (0x1CE00300, .lmid 14 0x300),
      (0x1EE00012, .lhi 14 0x12), (0x08D6FFFF, .addi 13 13 0x7FFF), (0x02C63400, .add 12 12 13), (0x38D07FFE, .bne 13 0 0x7FFE),
      (0x40008000, .jalr 0 1 0), (0x06C6B848, .fshr 12 13 14 8), (0x16F711C0, .bfx 15 14 7 0), (0x05068010, .quot 16 13 0),
      (0x42C69009, .crw 12 13 0x009), (0x50C23549, .casW 12 4 13 .die true false), (0x26E28000, .ldd 14 5 0),
      (0x34570000, .std 5 14 0), (0x54020126, .stlW 4 0 .die), (0x6419C948, .vldx 3 7 9 2 false),
      (0x66124A80, .vstc 2 9 10 0 false), (0x64090001, .vld 1 4 0 false true), (0x6C2A0640, .vatadd 5 8 6 0 false),
      (0xC0204189, .vdrop 4 2 (.vi 3) 0 false), (0xC6090001, .vconfm 1 8 0 false), (0xCC386000, .kpop 7 3)]
      : List (Nat × Instr)), decodeNat p.1 = .ok p.2)
  ∧ (∀ w ∈ ([0x60C20004, 0x6419C9C8, 0x6C2A0641, 0xCD386000] : List Nat), decodeNat w = .error .reserved)
  ∧ ∀ w ∈ ([0, 0xFFFFFFFF] : List Nat), decodeNat w = .error .illegal

/-- R145 to R151, R127 to R132: every instruction that a word encodes, with every operand at every value its field admits, is
decoded back from its word; a strand's word by the decoder of strand words, a row micro-op's by that of micro-ops: which of the two a
word goes to is log 9, the model's choice. -/
def Obligations.EncodedWordsDecode : Prop :=
  ∀ (i : Instr) (w : Nat), i.wellFormed = true → encodeNat i = some w →
    w < 4294967296 ∧ (decodeNat w = .ok i ∨ decodeMicroNat w = some i)

/-- R152, R132: the decoders accept no word but the encoding of the instruction they read: every bit of an accepted word is
a bit of its encoding. That a rbset of the second form takes no AUX bits is log 43, the model's reading. -/
def Obligations.DecodedWordsEncode : Prop :=
  ∀ (w : Nat) (i : Instr), w < 4294967296 → (decodeNat w = .ok i ∨ decodeMicroNat w = some i) →
    i.wellFormed = true ∧ encodeNat i = some w

/-- R17, R18, R20, R22, R23, R59, R79, R143, R188, R231, R327, R354: what module reset leaves where the spec gives a value. That
State.cur is 0 and no store is under way is the model's own (logs 1 and 10), and so is what the accessors' registers read while IDLE
(log 7 for the pc, which no clause names). -/
def Obligations.ResetHolds : Prop :=
  let s := State.reset
  s.Settled ∧ s.cur = 0
  ∧ (∀ n, n < 512 →
      let x := s.strand n
      x.st = .idle ∧ x.wakes = 0 ∧ (∀ g, x.getG g = 0) ∧ (∀ v f j, x.elem v f j = 0) ∧ x.Clean
      ∧ (∀ k j, j < 65536 → x.getK k j = decide (k = 0)) ∧ (∀ u j, x.tileElem u j = 0) ∧ (∀ j, x.e.get 0 j = 0)
      ∧ ∀ p ∈ ([(0x000, 0), (0x001, 0), (0x002, 0), (0x003, 0), (0x004, 0), (0x005, 0), (0x006, 0xF0), (0x007, 0), (0x008, 0),
          (0x009, 0x40), (0x010, 0), (0x011, 1), (0x020, 0), (0x027, 0), (0x030, 0), (0x037, 0), (0x040, 7), (0x041, 0), (0x042, 0),
          (0x043, 0), (0x044, 0), (0x045, 0), (0x046, 0), (0x047, 0), (0x050, 0), (0x051, 0), (0x060, 0), (0x061, 0)]
          : List (Nat × Word)), ({ s with cur := n } : State).crRead p.1 = p.2)
  ∧ (∀ c, c < 256 → (s.core c).x = 0x9E3779B97F4A7C15 ∧ (s.core c).y = 1 ∧ (s.core c).copyQ = [])
  ∧ (∀ d, d < 8 → ∀ p ∈ ([(0x20000, 560), (0x20008, 0), (0x20010, 10000), (0x20018, 0), (0x20020, 0), (0x20028, 0), (0x20030, 0),
      (0x20038, 0), (0x30000, 64)] : List (Nat × Word)), s.ctrlRead d p.1 = p.2)
  ∧ ∀ a, scratchBase ≤ a → s.readByte a = 0

/-- Every step that goes on leaves no store behind it and memory in its canonical form, whatever agent moves: an invariant of
the model (logs 3 and 10), so that the stores of a step have all entered memory (R98) and equal memories are equal data. -/
def Obligations.SettledKept : Prop :=
  ∀ (s t : State), s.Settled → step s = .next t → t.Settled
end

