-- ==== Sys2Proof/Laws/Sparse.lean ====
section
/-! SUPPORT. The laws of maps held as lists: what a read gives after a write, and that every operation keeps the canonical
form, which is said here as an order on the entries. -/

namespace Sys2Proof.Machine

variable {α : Type}

/-! ## Entries -/

/-- Dropping a key keeps exactly the entries of the others. -/
theorem Sparse.erase_eq (m : Sparse α) (n : Nat) : m.erase n = m.filter fun p => decide (p.1 ≠ n) := by
  fun_induction Sparse.erase m n <;> simp_all

theorem Sparse.mem_insert (m : Sparse α) (n : Nat) (v : α) (p : Nat × α) : p ∈ m.insert n v ↔ p = (n, v) ∨ p ∈ m := by
  fun_induction Sparse.insert m n v <;> grind

/-! ## Reads -/

@[simp] theorem Sparse.get_nil (d : α) (n : Nat) : Sparse.get d [] n = d := rfl

/-- A read finds the first entry of its key. -/
theorem Sparse.get_eq (d : α) (m : Sparse α) (n : Nat) :
    m.get d n = ((m.find? fun p => decide (p.1 = n)).map Prod.snd).getD d := by
  fun_induction Sparse.get d m n <;> simp_all

theorem Sparse.get_erase (d : α) (m : Sparse α) (n k : Nat) : (m.erase n).get d k = if k = n then d else m.get d k := by
  fun_induction Sparse.erase m n <;> grind [Sparse.get]

theorem Sparse.get_insert (d : α) (m : Sparse α) (n k : Nat) (v : α) (h : ∀ p ∈ m, p.1 ≠ n) :
    (m.insert n v).get d k = if k = n then v else m.get d k := by
  fun_induction Sparse.insert m n v <;> try grind [Sparse.get]
  next j x r hlt ih => rw [List.forall_mem_cons] at h; grind [Sparse.get]

/-- What any key reads after a write. -/
theorem Sparse.get_put [DecidableEq α] (d : α) (m : Sparse α) (n k : Nat) (v : α) :
    (m.put d n v).get d k = if k = n then v else m.get d k := by
  unfold Sparse.put
  by_cases hv : v = d
  · rw [if_pos hv, Sparse.get_erase, hv]
  · rw [if_neg hv, Sparse.get_insert _ _ _ _ _ (by simp [Sparse.erase_eq]), Sparse.get_erase]
    split <;> rfl

@[simp] theorem Sparse.get_put_same [DecidableEq α] (d : α) (m : Sparse α) (n : Nat) (v : α) :
    (m.put d n v).get d n = v := by simp [Sparse.get_put]

theorem Sparse.get_put_ne [DecidableEq α] (d : α) (m : Sparse α) {n k : Nat} (v : α) (h : k ≠ n) :
    (m.put d n v).get d k = m.get d k := by simp [Sparse.get_put, h]

/-! ## Two writes of one key -/

theorem Sparse.erase_put [DecidableEq α] (d : α) (m : Sparse α) (n : Nat) (v : α) : (m.put d n v).erase n = m.erase n := by
  have insert_erase : ∀ r : Sparse α, (r.insert n v).erase n = r.erase n := fun r => by
    fun_induction Sparse.insert r n v <;> simp_all [Sparse.erase]
  unfold Sparse.put
  split <;> simp [insert_erase, Sparse.erase_eq]

/-- The second write stands. -/
theorem Sparse.put_put [DecidableEq α] (d : α) (m : Sparse α) (n : Nat) (v w : α) :
    (m.put d n v).put d n w = m.put d n w := by
  show (if w = d then (m.put d n v).erase n else ((m.put d n v).erase n).insert n w) = _
  rw [Sparse.erase_put, Sparse.put]

/-! ## The canonical form -/

/-- The entries from `lo` on, in rising order and none of them the default. -/
theorem Sparse.wfFrom_iff [DecidableEq α] (d : α) (lo : Nat) (m : Sparse α) :
    Sparse.wfFrom d lo m = true ↔ (m.Pairwise fun p q => p.1 < q.1) ∧ ∀ p ∈ m, lo ≤ p.1 ∧ p.2 ≠ d := by
  fun_induction Sparse.wfFrom d lo m with
  | case1 => simp
  | case2 lo k v r ih =>
    simp only [Bool.and_eq_true, decide_eq_true_eq, ih, List.pairwise_cons, List.forall_mem_cons]
    grind

/-- The canonical form: keys rise, and no entry holds the default. -/
theorem Sparse.wf_iff [DecidableEq α] (d : α) (m : Sparse α) :
    Sparse.wf d m = true ↔ (m.Pairwise fun p q => p.1 < q.1) ∧ ∀ p ∈ m, p.2 ≠ d := by
  simp [Sparse.wf, Sparse.wfFrom_iff]

/-- Whatever part of a map is kept, its form is kept. -/
theorem Sparse.wf_filter [DecidableEq α] {d : α} {m : Sparse α} (f : Nat × α → Bool) (w : Sparse.wf d m = true) :
    Sparse.wf d (m.filter f) = true := by
  rw [Sparse.wf_iff] at w ⊢
  exact ⟨w.1.filter f, fun p hp => w.2 p (List.mem_filter.mp hp).1⟩

/-- Dropping a key keeps the canonical form. -/
theorem Sparse.wf_erase [DecidableEq α] {d : α} {m : Sparse α} (n : Nat) (w : Sparse.wf d m = true) :
    Sparse.wf d (m.erase n) = true := by rw [Sparse.erase_eq]; exact Sparse.wf_filter _ w

/-- The keys stay in order when a new one is inserted. -/
theorem Sparse.pairwise_insert (m : Sparse α) (n : Nat) (v : α) (h : ∀ p ∈ m, p.1 ≠ n)
    (w : m.Pairwise fun p q => p.1 < q.1) : (m.insert n v).Pairwise fun p q => p.1 < q.1 := by
  fun_induction Sparse.insert m n v with
  | case1 => exact List.pairwise_singleton ..
  | case2 k x r hlt =>
    refine List.pairwise_cons.mpr ⟨fun p hp => ?_, w⟩
    have := (List.pairwise_cons.mp w).1 p
    grind
  | case3 k x r hlt ih =>
    rw [List.forall_mem_cons] at h
    rw [List.pairwise_cons] at w ⊢
    grind [Sparse.mem_insert]

/-- A write keeps the canonical form. -/
theorem Sparse.wf_put [DecidableEq α] {d : α} {m : Sparse α} (n : Nat) (v : α) (w : Sparse.wf d m = true) :
    Sparse.wf d (m.put d n v) = true := by
  unfold Sparse.put
  split
  · exact Sparse.wf_erase n w
  · have e := (Sparse.wf_iff d _).mp (Sparse.wf_erase n w)
    rw [Sparse.wf_iff]
    exact ⟨Sparse.pairwise_insert _ n v (by simp [Sparse.erase_eq]) e.1, by grind [Sparse.mem_insert]⟩

end Sys2Proof.Machine
end

