-- ==== Sys2Proof/Laws/State.lean ====
section
/-! SUPPORT. What every update of the state does to every field: one lemma for each, so that no proof unfolds a record
update. -/

namespace Sys2Proof.Machine

/-! ## State.setStrand -/

@[simp] theorem State.setStrand_cur (s : State) (n : Nat) (x : Strand) : (s.setStrand n x).cur = s.cur := rfl
@[simp] theorem State.setStrand_curRun (s : State) (n : Nat) (x : Strand) : (s.setStrand n x).curRun = s.curRun := rfl
@[simp] theorem State.setStrand_agenda (s : State) (n : Nat) (x : Strand) : (s.setStrand n x).agenda = s.agenda := rfl
@[simp] theorem State.setStrand_waiting (s : State) (n : Nat) (x : Strand) : (s.setStrand n x).waiting = s.waiting := rfl
@[simp] theorem State.setStrand_noted (s : State) (n : Nat) (x : Strand) : (s.setStrand n x).noted = s.noted := rfl
@[simp] theorem State.setStrand_undo (s : State) (n : Nat) (x : Strand) : (s.setStrand n x).undo = s.undo := rfl
@[simp] theorem State.setStrand_issuer (s : State) (n : Nat) (x : Strand) : (s.setStrand n x).issuer = s.issuer := rfl
@[simp] theorem State.setStrand_ticks (s : State) (n : Nat) (x : Strand) : (s.setStrand n x).ticks = s.ticks := rfl
@[simp] theorem State.setStrand_now (s : State) (n : Nat) (x : Strand) : (s.setStrand n x).now = s.now := rfl
@[simp] theorem State.setStrand_mem (s : State) (n : Nat) (x : Strand) : (s.setStrand n x).mem = s.mem := rfl
@[simp] theorem State.setStrand_log (s : State) (n : Nat) (x : Strand) : (s.setStrand n x).log = s.log := rfl
@[simp] theorem State.setStrand_l2 (s : State) (n : Nat) (x : Strand) : (s.setStrand n x).l2 = s.l2 := rfl
@[simp] theorem State.setStrand_arr (s : State) (n : Nat) (x : Strand) : (s.setStrand n x).arr = s.arr := rfl
@[simp] theorem State.setStrand_recOld (s : State) (n : Nat) (x : Strand) : (s.setStrand n x).recOld = s.recOld := rfl
@[simp] theorem State.setStrand_placed (s : State) (n : Nat) (x : Strand) : (s.setStrand n x).placed = s.placed := rfl
@[simp] theorem State.setStrand_windows (s : State) (n : Nat) (x : Strand) : (s.setStrand n x).windows = s.windows := rfl
@[simp] theorem State.setStrand_poison (s : State) (n : Nat) (x : Strand) : (s.setStrand n x).poison = s.poison := rfl
@[simp] theorem State.setStrand_cores (s : State) (n : Nat) (x : Strand) : (s.setStrand n x).cores = s.cores := rfl
@[simp] theorem State.setStrand_dies (s : State) (n : Nat) (x : Strand) : (s.setStrand n x).dies = s.dies := rfl
@[simp] theorem State.setStrand_marks (s : State) (n : Nat) (x : Strand) : (s.setStrand n x).marks = s.marks := rfl
@[simp] theorem State.setStrand_hostUp (s : State) (n : Nat) (x : Strand) : (s.setStrand n x).hostUp = s.hostUp := rfl
@[simp] theorem State.setStrand_badChannels (s : State) (n : Nat) (x : Strand) : (s.setStrand n x).badChannels = s.badChannels := rfl
@[simp] theorem State.setStrand_badLines (s : State) (n : Nat) (x : Strand) : (s.setStrand n x).badLines = s.badLines := rfl
@[simp] theorem State.setStrand_hostCopies (s : State) (n : Nat) (x : Strand) : (s.setStrand n x).hostCopies = s.hostCopies := rfl
@[simp] theorem State.setStrand_boot (s : State) (n : Nat) (x : Strand) : (s.setStrand n x).boot = s.boot := rfl
@[simp] theorem State.setStrand_slotA (s : State) (n : Nat) (x : Strand) : (s.setStrand n x).slotA = s.slotA := rfl
@[simp] theorem State.setStrand_slotB (s : State) (n : Nat) (x : Strand) : (s.setStrand n x).slotB = s.slotB := rfl
@[simp] theorem State.setStrand_configs (s : State) (n : Nat) (x : Strand) : (s.setStrand n x).configs = s.configs := rfl
@[simp] theorem State.setStrand_cert (s : State) (n : Nat) (x : Strand) : (s.setStrand n x).cert = s.cert := rfl
@[simp] theorem State.setStrand_measures (s : State) (n : Nat) (x : Strand) : (s.setStrand n x).measures = s.measures := rfl
@[simp] theorem State.setStrand_member (s : State) (n : Nat) (x : Strand) : (s.setStrand n x).member = s.member := rfl
@[simp] theorem State.setStrand_out (s : State) (n : Nat) (x : Strand) : (s.setStrand n x).out = s.out := rfl

/-! ## State.setCore -/

@[simp] theorem State.setCore_cur (s : State) (n : Nat) (x : Core) : (s.setCore n x).cur = s.cur := rfl
@[simp] theorem State.setCore_curRun (s : State) (n : Nat) (x : Core) : (s.setCore n x).curRun = s.curRun := rfl
@[simp] theorem State.setCore_agenda (s : State) (n : Nat) (x : Core) : (s.setCore n x).agenda = s.agenda := rfl
@[simp] theorem State.setCore_waiting (s : State) (n : Nat) (x : Core) : (s.setCore n x).waiting = s.waiting := rfl
@[simp] theorem State.setCore_noted (s : State) (n : Nat) (x : Core) : (s.setCore n x).noted = s.noted := rfl
@[simp] theorem State.setCore_undo (s : State) (n : Nat) (x : Core) : (s.setCore n x).undo = s.undo := rfl
@[simp] theorem State.setCore_issuer (s : State) (n : Nat) (x : Core) : (s.setCore n x).issuer = s.issuer := rfl
@[simp] theorem State.setCore_ticks (s : State) (n : Nat) (x : Core) : (s.setCore n x).ticks = s.ticks := rfl
@[simp] theorem State.setCore_now (s : State) (n : Nat) (x : Core) : (s.setCore n x).now = s.now := rfl
@[simp] theorem State.setCore_mem (s : State) (n : Nat) (x : Core) : (s.setCore n x).mem = s.mem := rfl
@[simp] theorem State.setCore_log (s : State) (n : Nat) (x : Core) : (s.setCore n x).log = s.log := rfl
@[simp] theorem State.setCore_l2 (s : State) (n : Nat) (x : Core) : (s.setCore n x).l2 = s.l2 := rfl
@[simp] theorem State.setCore_arr (s : State) (n : Nat) (x : Core) : (s.setCore n x).arr = s.arr := rfl
@[simp] theorem State.setCore_recOld (s : State) (n : Nat) (x : Core) : (s.setCore n x).recOld = s.recOld := rfl
@[simp] theorem State.setCore_placed (s : State) (n : Nat) (x : Core) : (s.setCore n x).placed = s.placed := rfl
@[simp] theorem State.setCore_windows (s : State) (n : Nat) (x : Core) : (s.setCore n x).windows = s.windows := rfl
@[simp] theorem State.setCore_poison (s : State) (n : Nat) (x : Core) : (s.setCore n x).poison = s.poison := rfl
@[simp] theorem State.setCore_strands (s : State) (n : Nat) (x : Core) : (s.setCore n x).strands = s.strands := rfl
@[simp] theorem State.setCore_dies (s : State) (n : Nat) (x : Core) : (s.setCore n x).dies = s.dies := rfl
@[simp] theorem State.setCore_marks (s : State) (n : Nat) (x : Core) : (s.setCore n x).marks = s.marks := rfl
@[simp] theorem State.setCore_hostUp (s : State) (n : Nat) (x : Core) : (s.setCore n x).hostUp = s.hostUp := rfl
@[simp] theorem State.setCore_badChannels (s : State) (n : Nat) (x : Core) : (s.setCore n x).badChannels = s.badChannels := rfl
@[simp] theorem State.setCore_badLines (s : State) (n : Nat) (x : Core) : (s.setCore n x).badLines = s.badLines := rfl
@[simp] theorem State.setCore_hostCopies (s : State) (n : Nat) (x : Core) : (s.setCore n x).hostCopies = s.hostCopies := rfl
@[simp] theorem State.setCore_boot (s : State) (n : Nat) (x : Core) : (s.setCore n x).boot = s.boot := rfl
@[simp] theorem State.setCore_slotA (s : State) (n : Nat) (x : Core) : (s.setCore n x).slotA = s.slotA := rfl
@[simp] theorem State.setCore_slotB (s : State) (n : Nat) (x : Core) : (s.setCore n x).slotB = s.slotB := rfl
@[simp] theorem State.setCore_configs (s : State) (n : Nat) (x : Core) : (s.setCore n x).configs = s.configs := rfl
@[simp] theorem State.setCore_cert (s : State) (n : Nat) (x : Core) : (s.setCore n x).cert = s.cert := rfl
@[simp] theorem State.setCore_measures (s : State) (n : Nat) (x : Core) : (s.setCore n x).measures = s.measures := rfl
@[simp] theorem State.setCore_member (s : State) (n : Nat) (x : Core) : (s.setCore n x).member = s.member := rfl
@[simp] theorem State.setCore_out (s : State) (n : Nat) (x : Core) : (s.setCore n x).out = s.out := rfl

/-! ## State.setDie -/

@[simp] theorem State.setDie_cur (s : State) (n : Nat) (x : DieState) : (s.setDie n x).cur = s.cur := rfl
@[simp] theorem State.setDie_curRun (s : State) (n : Nat) (x : DieState) : (s.setDie n x).curRun = s.curRun := rfl
@[simp] theorem State.setDie_agenda (s : State) (n : Nat) (x : DieState) : (s.setDie n x).agenda = s.agenda := rfl
@[simp] theorem State.setDie_waiting (s : State) (n : Nat) (x : DieState) : (s.setDie n x).waiting = s.waiting := rfl
@[simp] theorem State.setDie_noted (s : State) (n : Nat) (x : DieState) : (s.setDie n x).noted = s.noted := rfl
@[simp] theorem State.setDie_undo (s : State) (n : Nat) (x : DieState) : (s.setDie n x).undo = s.undo := rfl
@[simp] theorem State.setDie_issuer (s : State) (n : Nat) (x : DieState) : (s.setDie n x).issuer = s.issuer := rfl
@[simp] theorem State.setDie_ticks (s : State) (n : Nat) (x : DieState) : (s.setDie n x).ticks = s.ticks := rfl
@[simp] theorem State.setDie_now (s : State) (n : Nat) (x : DieState) : (s.setDie n x).now = s.now := rfl
@[simp] theorem State.setDie_mem (s : State) (n : Nat) (x : DieState) : (s.setDie n x).mem = s.mem := rfl
@[simp] theorem State.setDie_log (s : State) (n : Nat) (x : DieState) : (s.setDie n x).log = s.log := rfl
@[simp] theorem State.setDie_l2 (s : State) (n : Nat) (x : DieState) : (s.setDie n x).l2 = s.l2 := rfl
@[simp] theorem State.setDie_arr (s : State) (n : Nat) (x : DieState) : (s.setDie n x).arr = s.arr := rfl
@[simp] theorem State.setDie_recOld (s : State) (n : Nat) (x : DieState) : (s.setDie n x).recOld = s.recOld := rfl
@[simp] theorem State.setDie_placed (s : State) (n : Nat) (x : DieState) : (s.setDie n x).placed = s.placed := rfl
@[simp] theorem State.setDie_windows (s : State) (n : Nat) (x : DieState) : (s.setDie n x).windows = s.windows := rfl
@[simp] theorem State.setDie_poison (s : State) (n : Nat) (x : DieState) : (s.setDie n x).poison = s.poison := rfl
@[simp] theorem State.setDie_strands (s : State) (n : Nat) (x : DieState) : (s.setDie n x).strands = s.strands := rfl
@[simp] theorem State.setDie_cores (s : State) (n : Nat) (x : DieState) : (s.setDie n x).cores = s.cores := rfl
@[simp] theorem State.setDie_marks (s : State) (n : Nat) (x : DieState) : (s.setDie n x).marks = s.marks := rfl
@[simp] theorem State.setDie_hostUp (s : State) (n : Nat) (x : DieState) : (s.setDie n x).hostUp = s.hostUp := rfl
@[simp] theorem State.setDie_badChannels (s : State) (n : Nat) (x : DieState) : (s.setDie n x).badChannels = s.badChannels := rfl
@[simp] theorem State.setDie_badLines (s : State) (n : Nat) (x : DieState) : (s.setDie n x).badLines = s.badLines := rfl
@[simp] theorem State.setDie_hostCopies (s : State) (n : Nat) (x : DieState) : (s.setDie n x).hostCopies = s.hostCopies := rfl
@[simp] theorem State.setDie_boot (s : State) (n : Nat) (x : DieState) : (s.setDie n x).boot = s.boot := rfl
@[simp] theorem State.setDie_slotA (s : State) (n : Nat) (x : DieState) : (s.setDie n x).slotA = s.slotA := rfl
@[simp] theorem State.setDie_slotB (s : State) (n : Nat) (x : DieState) : (s.setDie n x).slotB = s.slotB := rfl
@[simp] theorem State.setDie_configs (s : State) (n : Nat) (x : DieState) : (s.setDie n x).configs = s.configs := rfl
@[simp] theorem State.setDie_cert (s : State) (n : Nat) (x : DieState) : (s.setDie n x).cert = s.cert := rfl
@[simp] theorem State.setDie_measures (s : State) (n : Nat) (x : DieState) : (s.setDie n x).measures = s.measures := rfl
@[simp] theorem State.setDie_member (s : State) (n : Nat) (x : DieState) : (s.setDie n x).member = s.member := rfl
@[simp] theorem State.setDie_out (s : State) (n : Nat) (x : DieState) : (s.setDie n x).out = s.out := rfl

/-! ## State.updStrand -/

@[simp] theorem State.updStrand_cur (s : State) (n : Nat) (f : Strand → Strand) : (s.updStrand n f).cur = s.cur := rfl
@[simp] theorem State.updStrand_curRun (s : State) (n : Nat) (f : Strand → Strand) : (s.updStrand n f).curRun = s.curRun := rfl
@[simp] theorem State.updStrand_agenda (s : State) (n : Nat) (f : Strand → Strand) : (s.updStrand n f).agenda = s.agenda := rfl
@[simp] theorem State.updStrand_waiting (s : State) (n : Nat) (f : Strand → Strand) : (s.updStrand n f).waiting = s.waiting := rfl
@[simp] theorem State.updStrand_noted (s : State) (n : Nat) (f : Strand → Strand) : (s.updStrand n f).noted = s.noted := rfl
@[simp] theorem State.updStrand_undo (s : State) (n : Nat) (f : Strand → Strand) : (s.updStrand n f).undo = s.undo := rfl
@[simp] theorem State.updStrand_issuer (s : State) (n : Nat) (f : Strand → Strand) : (s.updStrand n f).issuer = s.issuer := rfl
@[simp] theorem State.updStrand_ticks (s : State) (n : Nat) (f : Strand → Strand) : (s.updStrand n f).ticks = s.ticks := rfl
@[simp] theorem State.updStrand_now (s : State) (n : Nat) (f : Strand → Strand) : (s.updStrand n f).now = s.now := rfl
@[simp] theorem State.updStrand_mem (s : State) (n : Nat) (f : Strand → Strand) : (s.updStrand n f).mem = s.mem := rfl
@[simp] theorem State.updStrand_log (s : State) (n : Nat) (f : Strand → Strand) : (s.updStrand n f).log = s.log := rfl
@[simp] theorem State.updStrand_l2 (s : State) (n : Nat) (f : Strand → Strand) : (s.updStrand n f).l2 = s.l2 := rfl
@[simp] theorem State.updStrand_arr (s : State) (n : Nat) (f : Strand → Strand) : (s.updStrand n f).arr = s.arr := rfl
@[simp] theorem State.updStrand_recOld (s : State) (n : Nat) (f : Strand → Strand) : (s.updStrand n f).recOld = s.recOld := rfl
@[simp] theorem State.updStrand_placed (s : State) (n : Nat) (f : Strand → Strand) : (s.updStrand n f).placed = s.placed := rfl
@[simp] theorem State.updStrand_windows (s : State) (n : Nat) (f : Strand → Strand) : (s.updStrand n f).windows = s.windows := rfl
@[simp] theorem State.updStrand_poison (s : State) (n : Nat) (f : Strand → Strand) : (s.updStrand n f).poison = s.poison := rfl
@[simp] theorem State.updStrand_cores (s : State) (n : Nat) (f : Strand → Strand) : (s.updStrand n f).cores = s.cores := rfl
@[simp] theorem State.updStrand_dies (s : State) (n : Nat) (f : Strand → Strand) : (s.updStrand n f).dies = s.dies := rfl
@[simp] theorem State.updStrand_marks (s : State) (n : Nat) (f : Strand → Strand) : (s.updStrand n f).marks = s.marks := rfl
@[simp] theorem State.updStrand_hostUp (s : State) (n : Nat) (f : Strand → Strand) : (s.updStrand n f).hostUp = s.hostUp := rfl
@[simp] theorem State.updStrand_badChannels (s : State) (n : Nat) (f : Strand → Strand) : (s.updStrand n f).badChannels = s.badChannels := rfl
@[simp] theorem State.updStrand_badLines (s : State) (n : Nat) (f : Strand → Strand) : (s.updStrand n f).badLines = s.badLines := rfl
@[simp] theorem State.updStrand_hostCopies (s : State) (n : Nat) (f : Strand → Strand) : (s.updStrand n f).hostCopies = s.hostCopies := rfl
@[simp] theorem State.updStrand_boot (s : State) (n : Nat) (f : Strand → Strand) : (s.updStrand n f).boot = s.boot := rfl
@[simp] theorem State.updStrand_slotA (s : State) (n : Nat) (f : Strand → Strand) : (s.updStrand n f).slotA = s.slotA := rfl
@[simp] theorem State.updStrand_slotB (s : State) (n : Nat) (f : Strand → Strand) : (s.updStrand n f).slotB = s.slotB := rfl
@[simp] theorem State.updStrand_configs (s : State) (n : Nat) (f : Strand → Strand) : (s.updStrand n f).configs = s.configs := rfl
@[simp] theorem State.updStrand_cert (s : State) (n : Nat) (f : Strand → Strand) : (s.updStrand n f).cert = s.cert := rfl
@[simp] theorem State.updStrand_measures (s : State) (n : Nat) (f : Strand → Strand) : (s.updStrand n f).measures = s.measures := rfl
@[simp] theorem State.updStrand_member (s : State) (n : Nat) (f : Strand → Strand) : (s.updStrand n f).member = s.member := rfl
@[simp] theorem State.updStrand_out (s : State) (n : Nat) (f : Strand → Strand) : (s.updStrand n f).out = s.out := rfl

/-! ## State.upd -/

@[simp] theorem State.upd_cur (s : State) (f : Strand → Strand) : (s.upd f).cur = s.cur := rfl
@[simp] theorem State.upd_curRun (s : State) (f : Strand → Strand) : (s.upd f).curRun = s.curRun := rfl
@[simp] theorem State.upd_agenda (s : State) (f : Strand → Strand) : (s.upd f).agenda = s.agenda := rfl
@[simp] theorem State.upd_waiting (s : State) (f : Strand → Strand) : (s.upd f).waiting = s.waiting := rfl
@[simp] theorem State.upd_noted (s : State) (f : Strand → Strand) : (s.upd f).noted = s.noted := rfl
@[simp] theorem State.upd_undo (s : State) (f : Strand → Strand) : (s.upd f).undo = s.undo := rfl
@[simp] theorem State.upd_issuer (s : State) (f : Strand → Strand) : (s.upd f).issuer = s.issuer := rfl
@[simp] theorem State.upd_ticks (s : State) (f : Strand → Strand) : (s.upd f).ticks = s.ticks := rfl
@[simp] theorem State.upd_now (s : State) (f : Strand → Strand) : (s.upd f).now = s.now := rfl
@[simp] theorem State.upd_mem (s : State) (f : Strand → Strand) : (s.upd f).mem = s.mem := rfl
@[simp] theorem State.upd_log (s : State) (f : Strand → Strand) : (s.upd f).log = s.log := rfl
@[simp] theorem State.upd_l2 (s : State) (f : Strand → Strand) : (s.upd f).l2 = s.l2 := rfl
@[simp] theorem State.upd_arr (s : State) (f : Strand → Strand) : (s.upd f).arr = s.arr := rfl
@[simp] theorem State.upd_recOld (s : State) (f : Strand → Strand) : (s.upd f).recOld = s.recOld := rfl
@[simp] theorem State.upd_placed (s : State) (f : Strand → Strand) : (s.upd f).placed = s.placed := rfl
@[simp] theorem State.upd_windows (s : State) (f : Strand → Strand) : (s.upd f).windows = s.windows := rfl
@[simp] theorem State.upd_poison (s : State) (f : Strand → Strand) : (s.upd f).poison = s.poison := rfl
@[simp] theorem State.upd_cores (s : State) (f : Strand → Strand) : (s.upd f).cores = s.cores := rfl
@[simp] theorem State.upd_dies (s : State) (f : Strand → Strand) : (s.upd f).dies = s.dies := rfl
@[simp] theorem State.upd_marks (s : State) (f : Strand → Strand) : (s.upd f).marks = s.marks := rfl
@[simp] theorem State.upd_hostUp (s : State) (f : Strand → Strand) : (s.upd f).hostUp = s.hostUp := rfl
@[simp] theorem State.upd_badChannels (s : State) (f : Strand → Strand) : (s.upd f).badChannels = s.badChannels := rfl
@[simp] theorem State.upd_badLines (s : State) (f : Strand → Strand) : (s.upd f).badLines = s.badLines := rfl
@[simp] theorem State.upd_hostCopies (s : State) (f : Strand → Strand) : (s.upd f).hostCopies = s.hostCopies := rfl
@[simp] theorem State.upd_boot (s : State) (f : Strand → Strand) : (s.upd f).boot = s.boot := rfl
@[simp] theorem State.upd_slotA (s : State) (f : Strand → Strand) : (s.upd f).slotA = s.slotA := rfl
@[simp] theorem State.upd_slotB (s : State) (f : Strand → Strand) : (s.upd f).slotB = s.slotB := rfl
@[simp] theorem State.upd_configs (s : State) (f : Strand → Strand) : (s.upd f).configs = s.configs := rfl
@[simp] theorem State.upd_cert (s : State) (f : Strand → Strand) : (s.upd f).cert = s.cert := rfl
@[simp] theorem State.upd_measures (s : State) (f : Strand → Strand) : (s.upd f).measures = s.measures := rfl
@[simp] theorem State.upd_member (s : State) (f : Strand → Strand) : (s.upd f).member = s.member := rfl
@[simp] theorem State.upd_out (s : State) (f : Strand → Strand) : (s.upd f).out = s.out := rfl

/-! ## State.updCore -/

@[simp] theorem State.updCore_cur (s : State) (n : Nat) (f : Core → Core) : (s.updCore n f).cur = s.cur := rfl
@[simp] theorem State.updCore_curRun (s : State) (n : Nat) (f : Core → Core) : (s.updCore n f).curRun = s.curRun := rfl
@[simp] theorem State.updCore_agenda (s : State) (n : Nat) (f : Core → Core) : (s.updCore n f).agenda = s.agenda := rfl
@[simp] theorem State.updCore_waiting (s : State) (n : Nat) (f : Core → Core) : (s.updCore n f).waiting = s.waiting := rfl
@[simp] theorem State.updCore_noted (s : State) (n : Nat) (f : Core → Core) : (s.updCore n f).noted = s.noted := rfl
@[simp] theorem State.updCore_undo (s : State) (n : Nat) (f : Core → Core) : (s.updCore n f).undo = s.undo := rfl
@[simp] theorem State.updCore_issuer (s : State) (n : Nat) (f : Core → Core) : (s.updCore n f).issuer = s.issuer := rfl
@[simp] theorem State.updCore_ticks (s : State) (n : Nat) (f : Core → Core) : (s.updCore n f).ticks = s.ticks := rfl
@[simp] theorem State.updCore_now (s : State) (n : Nat) (f : Core → Core) : (s.updCore n f).now = s.now := rfl
@[simp] theorem State.updCore_mem (s : State) (n : Nat) (f : Core → Core) : (s.updCore n f).mem = s.mem := rfl
@[simp] theorem State.updCore_log (s : State) (n : Nat) (f : Core → Core) : (s.updCore n f).log = s.log := rfl
@[simp] theorem State.updCore_l2 (s : State) (n : Nat) (f : Core → Core) : (s.updCore n f).l2 = s.l2 := rfl
@[simp] theorem State.updCore_arr (s : State) (n : Nat) (f : Core → Core) : (s.updCore n f).arr = s.arr := rfl
@[simp] theorem State.updCore_recOld (s : State) (n : Nat) (f : Core → Core) : (s.updCore n f).recOld = s.recOld := rfl
@[simp] theorem State.updCore_placed (s : State) (n : Nat) (f : Core → Core) : (s.updCore n f).placed = s.placed := rfl
@[simp] theorem State.updCore_windows (s : State) (n : Nat) (f : Core → Core) : (s.updCore n f).windows = s.windows := rfl
@[simp] theorem State.updCore_poison (s : State) (n : Nat) (f : Core → Core) : (s.updCore n f).poison = s.poison := rfl
@[simp] theorem State.updCore_strands (s : State) (n : Nat) (f : Core → Core) : (s.updCore n f).strands = s.strands := rfl
@[simp] theorem State.updCore_dies (s : State) (n : Nat) (f : Core → Core) : (s.updCore n f).dies = s.dies := rfl
@[simp] theorem State.updCore_marks (s : State) (n : Nat) (f : Core → Core) : (s.updCore n f).marks = s.marks := rfl
@[simp] theorem State.updCore_hostUp (s : State) (n : Nat) (f : Core → Core) : (s.updCore n f).hostUp = s.hostUp := rfl
@[simp] theorem State.updCore_badChannels (s : State) (n : Nat) (f : Core → Core) : (s.updCore n f).badChannels = s.badChannels := rfl
@[simp] theorem State.updCore_badLines (s : State) (n : Nat) (f : Core → Core) : (s.updCore n f).badLines = s.badLines := rfl
@[simp] theorem State.updCore_hostCopies (s : State) (n : Nat) (f : Core → Core) : (s.updCore n f).hostCopies = s.hostCopies := rfl
@[simp] theorem State.updCore_boot (s : State) (n : Nat) (f : Core → Core) : (s.updCore n f).boot = s.boot := rfl
@[simp] theorem State.updCore_slotA (s : State) (n : Nat) (f : Core → Core) : (s.updCore n f).slotA = s.slotA := rfl
@[simp] theorem State.updCore_slotB (s : State) (n : Nat) (f : Core → Core) : (s.updCore n f).slotB = s.slotB := rfl
@[simp] theorem State.updCore_configs (s : State) (n : Nat) (f : Core → Core) : (s.updCore n f).configs = s.configs := rfl
@[simp] theorem State.updCore_cert (s : State) (n : Nat) (f : Core → Core) : (s.updCore n f).cert = s.cert := rfl
@[simp] theorem State.updCore_measures (s : State) (n : Nat) (f : Core → Core) : (s.updCore n f).measures = s.measures := rfl
@[simp] theorem State.updCore_member (s : State) (n : Nat) (f : Core → Core) : (s.updCore n f).member = s.member := rfl
@[simp] theorem State.updCore_out (s : State) (n : Nat) (f : Core → Core) : (s.updCore n f).out = s.out := rfl

/-! ## State.updDie -/

@[simp] theorem State.updDie_cur (s : State) (n : Nat) (f : DieState → DieState) : (s.updDie n f).cur = s.cur := rfl
@[simp] theorem State.updDie_curRun (s : State) (n : Nat) (f : DieState → DieState) : (s.updDie n f).curRun = s.curRun := rfl
@[simp] theorem State.updDie_agenda (s : State) (n : Nat) (f : DieState → DieState) : (s.updDie n f).agenda = s.agenda := rfl
@[simp] theorem State.updDie_waiting (s : State) (n : Nat) (f : DieState → DieState) : (s.updDie n f).waiting = s.waiting := rfl
@[simp] theorem State.updDie_noted (s : State) (n : Nat) (f : DieState → DieState) : (s.updDie n f).noted = s.noted := rfl
@[simp] theorem State.updDie_undo (s : State) (n : Nat) (f : DieState → DieState) : (s.updDie n f).undo = s.undo := rfl
@[simp] theorem State.updDie_issuer (s : State) (n : Nat) (f : DieState → DieState) : (s.updDie n f).issuer = s.issuer := rfl
@[simp] theorem State.updDie_ticks (s : State) (n : Nat) (f : DieState → DieState) : (s.updDie n f).ticks = s.ticks := rfl
@[simp] theorem State.updDie_now (s : State) (n : Nat) (f : DieState → DieState) : (s.updDie n f).now = s.now := rfl
@[simp] theorem State.updDie_mem (s : State) (n : Nat) (f : DieState → DieState) : (s.updDie n f).mem = s.mem := rfl
@[simp] theorem State.updDie_log (s : State) (n : Nat) (f : DieState → DieState) : (s.updDie n f).log = s.log := rfl
@[simp] theorem State.updDie_l2 (s : State) (n : Nat) (f : DieState → DieState) : (s.updDie n f).l2 = s.l2 := rfl
@[simp] theorem State.updDie_arr (s : State) (n : Nat) (f : DieState → DieState) : (s.updDie n f).arr = s.arr := rfl
@[simp] theorem State.updDie_recOld (s : State) (n : Nat) (f : DieState → DieState) : (s.updDie n f).recOld = s.recOld := rfl
@[simp] theorem State.updDie_placed (s : State) (n : Nat) (f : DieState → DieState) : (s.updDie n f).placed = s.placed := rfl
@[simp] theorem State.updDie_windows (s : State) (n : Nat) (f : DieState → DieState) : (s.updDie n f).windows = s.windows := rfl
@[simp] theorem State.updDie_poison (s : State) (n : Nat) (f : DieState → DieState) : (s.updDie n f).poison = s.poison := rfl
@[simp] theorem State.updDie_strands (s : State) (n : Nat) (f : DieState → DieState) : (s.updDie n f).strands = s.strands := rfl
@[simp] theorem State.updDie_cores (s : State) (n : Nat) (f : DieState → DieState) : (s.updDie n f).cores = s.cores := rfl
@[simp] theorem State.updDie_marks (s : State) (n : Nat) (f : DieState → DieState) : (s.updDie n f).marks = s.marks := rfl
@[simp] theorem State.updDie_hostUp (s : State) (n : Nat) (f : DieState → DieState) : (s.updDie n f).hostUp = s.hostUp := rfl
@[simp] theorem State.updDie_badChannels (s : State) (n : Nat) (f : DieState → DieState) : (s.updDie n f).badChannels = s.badChannels := rfl
@[simp] theorem State.updDie_badLines (s : State) (n : Nat) (f : DieState → DieState) : (s.updDie n f).badLines = s.badLines := rfl
@[simp] theorem State.updDie_hostCopies (s : State) (n : Nat) (f : DieState → DieState) : (s.updDie n f).hostCopies = s.hostCopies := rfl
@[simp] theorem State.updDie_boot (s : State) (n : Nat) (f : DieState → DieState) : (s.updDie n f).boot = s.boot := rfl
@[simp] theorem State.updDie_slotA (s : State) (n : Nat) (f : DieState → DieState) : (s.updDie n f).slotA = s.slotA := rfl
@[simp] theorem State.updDie_slotB (s : State) (n : Nat) (f : DieState → DieState) : (s.updDie n f).slotB = s.slotB := rfl
@[simp] theorem State.updDie_configs (s : State) (n : Nat) (f : DieState → DieState) : (s.updDie n f).configs = s.configs := rfl
@[simp] theorem State.updDie_cert (s : State) (n : Nat) (f : DieState → DieState) : (s.updDie n f).cert = s.cert := rfl
@[simp] theorem State.updDie_measures (s : State) (n : Nat) (f : DieState → DieState) : (s.updDie n f).measures = s.measures := rfl
@[simp] theorem State.updDie_member (s : State) (n : Nat) (f : DieState → DieState) : (s.updDie n f).member = s.member := rfl
@[simp] theorem State.updDie_out (s : State) (n : Nat) (f : DieState → DieState) : (s.updDie n f).out = s.out := rfl

/-! ## State.tick -/

@[simp] theorem State.tick_cur (s : State) : s.tick.cur = s.cur := rfl
@[simp] theorem State.tick_curRun (s : State) : s.tick.curRun = s.curRun := rfl
@[simp] theorem State.tick_agenda (s : State) : s.tick.agenda = s.agenda := rfl
@[simp] theorem State.tick_waiting (s : State) : s.tick.waiting = s.waiting := rfl
@[simp] theorem State.tick_noted (s : State) : s.tick.noted = s.noted := rfl
@[simp] theorem State.tick_undo (s : State) : s.tick.undo = s.undo := rfl
@[simp] theorem State.tick_issuer (s : State) : s.tick.issuer = s.issuer := rfl
@[simp] theorem State.tick_now (s : State) : s.tick.now = s.now := rfl
@[simp] theorem State.tick_mem (s : State) : s.tick.mem = s.mem := rfl
@[simp] theorem State.tick_log (s : State) : s.tick.log = s.log := rfl
@[simp] theorem State.tick_l2 (s : State) : s.tick.l2 = s.l2 := rfl
@[simp] theorem State.tick_arr (s : State) : s.tick.arr = s.arr := rfl
@[simp] theorem State.tick_recOld (s : State) : s.tick.recOld = s.recOld := rfl
@[simp] theorem State.tick_placed (s : State) : s.tick.placed = s.placed := rfl
@[simp] theorem State.tick_windows (s : State) : s.tick.windows = s.windows := rfl
@[simp] theorem State.tick_poison (s : State) : s.tick.poison = s.poison := rfl
@[simp] theorem State.tick_strands (s : State) : s.tick.strands = s.strands := rfl
@[simp] theorem State.tick_cores (s : State) : s.tick.cores = s.cores := rfl
@[simp] theorem State.tick_dies (s : State) : s.tick.dies = s.dies := rfl
@[simp] theorem State.tick_marks (s : State) : s.tick.marks = s.marks := rfl
@[simp] theorem State.tick_hostUp (s : State) : s.tick.hostUp = s.hostUp := rfl
@[simp] theorem State.tick_badChannels (s : State) : s.tick.badChannels = s.badChannels := rfl
@[simp] theorem State.tick_badLines (s : State) : s.tick.badLines = s.badLines := rfl
@[simp] theorem State.tick_hostCopies (s : State) : s.tick.hostCopies = s.hostCopies := rfl
@[simp] theorem State.tick_boot (s : State) : s.tick.boot = s.boot := rfl
@[simp] theorem State.tick_slotA (s : State) : s.tick.slotA = s.slotA := rfl
@[simp] theorem State.tick_slotB (s : State) : s.tick.slotB = s.slotB := rfl
@[simp] theorem State.tick_configs (s : State) : s.tick.configs = s.configs := rfl
@[simp] theorem State.tick_cert (s : State) : s.tick.cert = s.cert := rfl
@[simp] theorem State.tick_measures (s : State) : s.tick.measures = s.measures := rfl
@[simp] theorem State.tick_member (s : State) : s.tick.member = s.member := rfl
@[simp] theorem State.tick_out (s : State) : s.tick.out = s.out := rfl

/-! ## State.storeByte -/

@[simp] theorem State.storeByte_cur (s : State) (v : Via) (a : Nat) (b : Byte) : (s.storeByte v a b).cur = s.cur := rfl
@[simp] theorem State.storeByte_curRun (s : State) (v : Via) (a : Nat) (b : Byte) : (s.storeByte v a b).curRun = s.curRun := rfl
@[simp] theorem State.storeByte_agenda (s : State) (v : Via) (a : Nat) (b : Byte) : (s.storeByte v a b).agenda = s.agenda := rfl
@[simp] theorem State.storeByte_waiting (s : State) (v : Via) (a : Nat) (b : Byte) : (s.storeByte v a b).waiting = s.waiting := rfl
@[simp] theorem State.storeByte_noted (s : State) (v : Via) (a : Nat) (b : Byte) : (s.storeByte v a b).noted = s.noted := rfl
@[simp] theorem State.storeByte_undo (s : State) (v : Via) (a : Nat) (b : Byte) : (s.storeByte v a b).undo = s.undo := rfl
@[simp] theorem State.storeByte_issuer (s : State) (v : Via) (a : Nat) (b : Byte) : (s.storeByte v a b).issuer = s.issuer := rfl
@[simp] theorem State.storeByte_ticks (s : State) (v : Via) (a : Nat) (b : Byte) : (s.storeByte v a b).ticks = s.ticks := rfl
@[simp] theorem State.storeByte_now (s : State) (v : Via) (a : Nat) (b : Byte) : (s.storeByte v a b).now = s.now := rfl
@[simp] theorem State.storeByte_mem (s : State) (v : Via) (a : Nat) (b : Byte) : (s.storeByte v a b).mem = s.mem := rfl
@[simp] theorem State.storeByte_l2 (s : State) (v : Via) (a : Nat) (b : Byte) : (s.storeByte v a b).l2 = s.l2 := rfl
@[simp] theorem State.storeByte_arr (s : State) (v : Via) (a : Nat) (b : Byte) : (s.storeByte v a b).arr = s.arr := rfl
@[simp] theorem State.storeByte_recOld (s : State) (v : Via) (a : Nat) (b : Byte) : (s.storeByte v a b).recOld = s.recOld := rfl
@[simp] theorem State.storeByte_placed (s : State) (v : Via) (a : Nat) (b : Byte) : (s.storeByte v a b).placed = s.placed := rfl
@[simp] theorem State.storeByte_windows (s : State) (v : Via) (a : Nat) (b : Byte) : (s.storeByte v a b).windows = s.windows := rfl
@[simp] theorem State.storeByte_poison (s : State) (v : Via) (a : Nat) (b : Byte) : (s.storeByte v a b).poison = s.poison := rfl
@[simp] theorem State.storeByte_strands (s : State) (v : Via) (a : Nat) (b : Byte) : (s.storeByte v a b).strands = s.strands := rfl
@[simp] theorem State.storeByte_cores (s : State) (v : Via) (a : Nat) (b : Byte) : (s.storeByte v a b).cores = s.cores := rfl
@[simp] theorem State.storeByte_dies (s : State) (v : Via) (a : Nat) (b : Byte) : (s.storeByte v a b).dies = s.dies := rfl
@[simp] theorem State.storeByte_marks (s : State) (v : Via) (a : Nat) (b : Byte) : (s.storeByte v a b).marks = s.marks := rfl
@[simp] theorem State.storeByte_hostUp (s : State) (v : Via) (a : Nat) (b : Byte) : (s.storeByte v a b).hostUp = s.hostUp := rfl
@[simp] theorem State.storeByte_badChannels (s : State) (v : Via) (a : Nat) (b : Byte) : (s.storeByte v a b).badChannels = s.badChannels := rfl
@[simp] theorem State.storeByte_badLines (s : State) (v : Via) (a : Nat) (b : Byte) : (s.storeByte v a b).badLines = s.badLines := rfl
@[simp] theorem State.storeByte_hostCopies (s : State) (v : Via) (a : Nat) (b : Byte) : (s.storeByte v a b).hostCopies = s.hostCopies := rfl
@[simp] theorem State.storeByte_boot (s : State) (v : Via) (a : Nat) (b : Byte) : (s.storeByte v a b).boot = s.boot := rfl
@[simp] theorem State.storeByte_slotA (s : State) (v : Via) (a : Nat) (b : Byte) : (s.storeByte v a b).slotA = s.slotA := rfl
@[simp] theorem State.storeByte_slotB (s : State) (v : Via) (a : Nat) (b : Byte) : (s.storeByte v a b).slotB = s.slotB := rfl
@[simp] theorem State.storeByte_configs (s : State) (v : Via) (a : Nat) (b : Byte) : (s.storeByte v a b).configs = s.configs := rfl
@[simp] theorem State.storeByte_cert (s : State) (v : Via) (a : Nat) (b : Byte) : (s.storeByte v a b).cert = s.cert := rfl
@[simp] theorem State.storeByte_measures (s : State) (v : Via) (a : Nat) (b : Byte) : (s.storeByte v a b).measures = s.measures := rfl
@[simp] theorem State.storeByte_member (s : State) (v : Via) (a : Nat) (b : Byte) : (s.storeByte v a b).member = s.member := rfl
@[simp] theorem State.storeByte_out (s : State) (v : Via) (a : Nat) (b : Byte) : (s.storeByte v a b).out = s.out := rfl

/-! ## Strands, cores and dies after an update -/

theorem State.strand_setStrand (s : State) (n m : Nat) (x : Strand) :
    (s.setStrand n x).strand m = if m = n then x else s.strand m := Sparse.get_put ..
@[simp] theorem State.strand_setStrand_same (s : State) (n : Nat) (x : Strand) : (s.setStrand n x).strand n = x :=
  Sparse.get_put_same ..
theorem State.strand_updStrand (s : State) (n m : Nat) (f : Strand → Strand) :
    (s.updStrand n f).strand m = if m = n then f (s.strand n) else s.strand m := Sparse.get_put ..
@[simp] theorem State.strand_updStrand_same (s : State) (n : Nat) (f : Strand → Strand) :
    (s.updStrand n f).strand n = f (s.strand n) := Sparse.get_put_same ..
@[simp] theorem State.me_upd (s : State) (f : Strand → Strand) : (s.upd f).me = f s.me := Sparse.get_put_same ..
theorem State.strand_upd (s : State) (m : Nat) (f : Strand → Strand) :
    (s.upd f).strand m = if m = s.cur then f s.me else s.strand m := Sparse.get_put ..
@[simp] theorem State.core_setStrand (s : State) (n m : Nat) (x : Strand) : (s.setStrand n x).core m = s.core m := rfl
@[simp] theorem State.die_setStrand (s : State) (n m : Nat) (x : Strand) : (s.setStrand n x).die m = s.die m := rfl
@[simp] theorem State.core_updStrand (s : State) (n m : Nat) (f : Strand → Strand) : (s.updStrand n f).core m = s.core m := rfl
@[simp] theorem State.die_updStrand (s : State) (n m : Nat) (f : Strand → Strand) : (s.updStrand n f).die m = s.die m := rfl
@[simp] theorem State.core_upd (s : State) (m : Nat) (f : Strand → Strand) : (s.upd f).core m = s.core m := rfl
@[simp] theorem State.die_upd (s : State) (m : Nat) (f : Strand → Strand) : (s.upd f).die m = s.die m := rfl
theorem State.core_setCore (s : State) (n m : Nat) (x : Core) :
    (s.setCore n x).core m = if m = n then x else s.core m := Sparse.get_put ..
@[simp] theorem State.core_setCore_same (s : State) (n : Nat) (x : Core) : (s.setCore n x).core n = x := Sparse.get_put_same ..
theorem State.core_updCore (s : State) (n m : Nat) (f : Core → Core) :
    (s.updCore n f).core m = if m = n then f (s.core n) else s.core m := Sparse.get_put ..
@[simp] theorem State.core_updCore_same (s : State) (n : Nat) (f : Core → Core) : (s.updCore n f).core n = f (s.core n) :=
  Sparse.get_put_same ..
@[simp] theorem State.strand_setCore (s : State) (n m : Nat) (x : Core) : (s.setCore n x).strand m = s.strand m := rfl
@[simp] theorem State.strand_updCore (s : State) (n m : Nat) (f : Core → Core) : (s.updCore n f).strand m = s.strand m := rfl
@[simp] theorem State.die_setCore (s : State) (n m : Nat) (x : Core) : (s.setCore n x).die m = s.die m := rfl
@[simp] theorem State.die_updCore (s : State) (n m : Nat) (f : Core → Core) : (s.updCore n f).die m = s.die m := rfl
@[simp] theorem State.me_setCore (s : State) (n : Nat) (x : Core) : (s.setCore n x).me = s.me := rfl
@[simp] theorem State.me_updCore (s : State) (n : Nat) (f : Core → Core) : (s.updCore n f).me = s.me := rfl
theorem State.die_setDie (s : State) (n m : Nat) (x : DieState) :
    (s.setDie n x).die m = if m = n then x else s.die m := Sparse.get_put ..
@[simp] theorem State.die_setDie_same (s : State) (n : Nat) (x : DieState) : (s.setDie n x).die n = x := Sparse.get_put_same ..
theorem State.die_updDie (s : State) (n m : Nat) (f : DieState → DieState) :
    (s.updDie n f).die m = if m = n then f (s.die n) else s.die m := Sparse.get_put ..
@[simp] theorem State.die_updDie_same (s : State) (n : Nat) (f : DieState → DieState) : (s.updDie n f).die n = f (s.die n) :=
  Sparse.get_put_same ..
@[simp] theorem State.strand_setDie (s : State) (n m : Nat) (x : DieState) : (s.setDie n x).strand m = s.strand m := rfl
@[simp] theorem State.strand_updDie (s : State) (n m : Nat) (f : DieState → DieState) : (s.updDie n f).strand m = s.strand m := rfl
@[simp] theorem State.core_setDie (s : State) (n m : Nat) (x : DieState) : (s.setDie n x).core m = s.core m := rfl
@[simp] theorem State.core_updDie (s : State) (n m : Nat) (f : DieState → DieState) : (s.updDie n f).core m = s.core m := rfl
@[simp] theorem State.me_setDie (s : State) (n : Nat) (x : DieState) : (s.setDie n x).me = s.me := rfl
@[simp] theorem State.me_updDie (s : State) (n : Nat) (f : DieState → DieState) : (s.updDie n f).me = s.me := rfl
@[simp] theorem State.strand_tick (s : State) (m : Nat) : s.tick.strand m = s.strand m := rfl
@[simp] theorem State.me_tick (s : State) : s.tick.me = s.me := rfl
@[simp] theorem State.core_tick (s : State) (m : Nat) : s.tick.core m = s.core m := rfl
@[simp] theorem State.die_tick (s : State) (m : Nat) : s.tick.die m = s.die m := rfl
@[simp] theorem State.strand_storeByte (s : State) (v : Via) (a : Nat) (b : Byte) (m : Nat) :
    (s.storeByte v a b).strand m = s.strand m := rfl
@[simp] theorem State.me_storeByte (s : State) (v : Via) (a : Nat) (b : Byte) : (s.storeByte v a b).me = s.me := rfl
@[simp] theorem State.core_storeByte (s : State) (v : Via) (a : Nat) (b : Byte) (m : Nat) :
    (s.storeByte v a b).core m = s.core m := rfl
@[simp] theorem State.die_storeByte (s : State) (v : Via) (a : Nat) (b : Byte) (m : Nat) :
    (s.storeByte v a b).die m = s.die m := rfl

/-! Two updates of one strand. -/

theorem State.setStrand_setStrand (s : State) (n : Nat) (x y : Strand) : (s.setStrand n x).setStrand n y = s.setStrand n y := by
  unfold State.setStrand; simp only [Sparse.put_put]
theorem State.updStrand_updStrand (s : State) (n : Nat) (f g : Strand → Strand) :
    (s.updStrand n f).updStrand n g = s.updStrand n fun x => g (f x) := by
  simp only [State.updStrand, State.strand_setStrand_same, State.setStrand_setStrand]
theorem State.upd_upd (s : State) (f g : Strand → Strand) : (s.upd f).upd g = s.upd fun x => g (f x) :=
  State.updStrand_updStrand s s.cur f g

/-! ## What memory reads as -/

theorem State.readByte_congr (s t : State) (a : Nat) (hl : t.log = s.log) (hm : t.mem = s.mem) :
    t.readByte a = s.readByte a := by unfold State.readByte; rw [hl, hm]
theorem State.readBytes_congr (s t : State) (a n : Nat) (h : ∀ i, i < n → t.readByte (a + i) = s.readByte (a + i)) :
    t.readBytes a n = s.readBytes a n := by
  induction n generalizing a with
  | zero => rfl
  | succ n ih =>
    have h0 := h 0 (by omega)
    simp only [Nat.add_zero] at h0
    simp only [State.readBytes, h0, ih (a + 1) fun i hi => by have := h (i + 1) (by omega); rwa [← Nat.add_assoc, Nat.add_right_comm] at this]
theorem State.readNum_congr (s t : State) (a n : Nat) (h : ∀ i, i < n → t.readByte (a + i) = s.readByte (a + i)) :
    t.readNum a n = s.readNum a n := by unfold State.readNum; rw [State.readBytes_congr s t a n h]
@[simp] theorem State.readByte_setStrand (s : State) (n : Nat) (x : Strand) (a : Nat) : (s.setStrand n x).readByte a = s.readByte a := rfl
@[simp] theorem State.readNum_setStrand (s : State) (n : Nat) (x : Strand) (a k : Nat) : (s.setStrand n x).readNum a k = s.readNum a k :=
  State.readNum_congr s _ a k fun _ _ => rfl
@[simp] theorem State.readByte_setCore (s : State) (n : Nat) (x : Core) (a : Nat) : (s.setCore n x).readByte a = s.readByte a := rfl
@[simp] theorem State.readNum_setCore (s : State) (n : Nat) (x : Core) (a k : Nat) : (s.setCore n x).readNum a k = s.readNum a k :=
  State.readNum_congr s _ a k fun _ _ => rfl
@[simp] theorem State.readByte_setDie (s : State) (n : Nat) (x : DieState) (a : Nat) : (s.setDie n x).readByte a = s.readByte a := rfl
@[simp] theorem State.readNum_setDie (s : State) (n : Nat) (x : DieState) (a k : Nat) : (s.setDie n x).readNum a k = s.readNum a k :=
  State.readNum_congr s _ a k fun _ _ => rfl
@[simp] theorem State.readByte_updStrand (s : State) (n : Nat) (f : Strand → Strand) (a : Nat) : (s.updStrand n f).readByte a = s.readByte a := rfl
@[simp] theorem State.readNum_updStrand (s : State) (n : Nat) (f : Strand → Strand) (a k : Nat) : (s.updStrand n f).readNum a k = s.readNum a k :=
  State.readNum_congr s _ a k fun _ _ => rfl
@[simp] theorem State.readByte_upd (s : State) (f : Strand → Strand) (a : Nat) : (s.upd f).readByte a = s.readByte a := rfl
@[simp] theorem State.readNum_upd (s : State) (f : Strand → Strand) (a k : Nat) : (s.upd f).readNum a k = s.readNum a k :=
  State.readNum_congr s _ a k fun _ _ => rfl
@[simp] theorem State.readByte_updCore (s : State) (n : Nat) (f : Core → Core) (a : Nat) : (s.updCore n f).readByte a = s.readByte a := rfl
@[simp] theorem State.readNum_updCore (s : State) (n : Nat) (f : Core → Core) (a k : Nat) : (s.updCore n f).readNum a k = s.readNum a k :=
  State.readNum_congr s _ a k fun _ _ => rfl
@[simp] theorem State.readByte_updDie (s : State) (n : Nat) (f : DieState → DieState) (a : Nat) : (s.updDie n f).readByte a = s.readByte a := rfl
@[simp] theorem State.readNum_updDie (s : State) (n : Nat) (f : DieState → DieState) (a k : Nat) : (s.updDie n f).readNum a k = s.readNum a k :=
  State.readNum_congr s _ a k fun _ _ => rfl
@[simp] theorem State.readByte_tick (s : State) (a : Nat) : (s.tick).readByte a = s.readByte a := rfl
@[simp] theorem State.readNum_tick (s : State) (a k : Nat) : (s.tick).readNum a k = s.readNum a k :=
  State.readNum_congr s _ a k fun _ _ => rfl

/-! ## General registers (R22) -/

theorem Strand.setG_eq (x : Strand) (r : GReg) (w : Word) : x.setG r w = { x with g := (x.setG r w).g } := by
  unfold Strand.setG; split <;> rfl
@[simp] theorem Strand.setG_st (x : Strand) (r : GReg) (w : Word) : (x.setG r w).st = x.st := by rw [Strand.setG_eq]
@[simp] theorem Strand.setG_pc (x : Strand) (r : GReg) (w : Word) : (x.setG r w).pc = x.pc := by rw [Strand.setG_eq]
@[simp] theorem Strand.setG_v (x : Strand) (r : GReg) (w : Word) : (x.setG r w).v = x.v := by rw [Strand.setG_eq]
@[simp] theorem Strand.setG_vp (x : Strand) (r : GReg) (w : Word) : (x.setG r w).vp = x.vp := by rw [Strand.setG_eq]
@[simp] theorem Strand.setG_k (x : Strand) (r : GReg) (w : Word) : (x.setG r w).k = x.k := by rw [Strand.setG_eq]
@[simp] theorem Strand.setG_t (x : Strand) (r : GReg) (w : Word) : (x.setG r w).t = x.t := by rw [Strand.setG_eq]
@[simp] theorem Strand.setG_tp (x : Strand) (r : GReg) (w : Word) : (x.setG r w).tp = x.tp := by rw [Strand.setG_eq]
@[simp] theorem Strand.setG_e (x : Strand) (r : GReg) (w : Word) : (x.setG r w).e = x.e := by rw [Strand.setG_eq]
@[simp] theorem Strand.setG_vl (x : Strand) (r : GReg) (w : Word) : (x.setG r w).vl = x.vl := by rw [Strand.setG_eq]
@[simp] theorem Strand.setG_vtype (x : Strand) (r : GReg) (w : Word) : (x.setG r w).vtype = x.vtype := by rw [Strand.setG_eq]
@[simp] theorem Strand.setG_vstart (x : Strand) (r : GReg) (w : Word) : (x.setG r w).vstart = x.vstart := by rw [Strand.setG_eq]
@[simp] theorem Strand.setG_vbase (x : Strand) (r : GReg) (w : Word) : (x.setG r w).vbase = x.vbase := by rw [Strand.setG_eq]
@[simp] theorem Strand.setG_vspace (x : Strand) (r : GReg) (w : Word) : (x.setG r w).vspace = x.vspace := by rw [Strand.setG_eq]
@[simp] theorem Strand.setG_vgrant (x : Strand) (r : GReg) (w : Word) : (x.setG r w).vgrant = x.vgrant := by rw [Strand.setG_eq]
@[simp] theorem Strand.setG_vsend (x : Strand) (r : GReg) (w : Word) : (x.setG r w).vsend = x.vsend := by rw [Strand.setG_eq]
@[simp] theorem Strand.setG_vfarm (x : Strand) (r : GReg) (w : Word) : (x.setG r w).vfarm = x.vfarm := by rw [Strand.setG_eq]
@[simp] theorem Strand.setG_posted (x : Strand) (r : GReg) (w : Word) : (x.setG r w).posted = x.posted := by rw [Strand.setG_eq]
@[simp] theorem Strand.setG_tcfg (x : Strand) (r : GReg) (w : Word) : (x.setG r w).tcfg = x.tcfg := by rw [Strand.setG_eq]
@[simp] theorem Strand.setG_sstat (x : Strand) (r : GReg) (w : Word) : (x.setG r w).sstat = x.sstat := by rw [Strand.setG_eq]
@[simp] theorem Strand.setG_tcause (x : Strand) (r : GReg) (w : Word) : (x.setG r w).tcause = x.tcause := by rw [Strand.setG_eq]
@[simp] theorem Strand.setG_tval (x : Strand) (r : GReg) (w : Word) : (x.setG r w).tval = x.tval := by rw [Strand.setG_eq]
@[simp] theorem Strand.setG_tpc (x : Strand) (r : GReg) (w : Word) : (x.setG r w).tpc = x.tpc := by rw [Strand.setG_eq]
@[simp] theorem Strand.setG_tinst (x : Strand) (r : GReg) (w : Word) : (x.setG r w).tinst = x.tinst := by rw [Strand.setG_eq]
@[simp] theorem Strand.setG_tvec (x : Strand) (r : GReg) (w : Word) : (x.setG r w).tvec = x.tvec := by rw [Strand.setG_eq]
@[simp] theorem Strand.setG_asid (x : Strand) (r : GReg) (w : Word) : (x.setG r w).asid = x.asid := by rw [Strand.setG_eq]
@[simp] theorem Strand.setG_ortb (x : Strand) (r : GReg) (w : Word) : (x.setG r w).ortb = x.ortb := by rw [Strand.setG_eq]
@[simp] theorem Strand.setG_instret (x : Strand) (r : GReg) (w : Word) : (x.setG r w).instret = x.instret := by rw [Strand.setG_eq]
@[simp] theorem Strand.setG_wakes (x : Strand) (r : GReg) (w : Word) : (x.setG r w).wakes = x.wakes := by rw [Strand.setG_eq]
@[simp] theorem Strand.setG_preq (x : Strand) (r : GReg) (w : Word) : (x.setG r w).preq = x.preq := by rw [Strand.setG_eq]
@[simp] theorem Strand.setG_preqAt (x : Strand) (r : GReg) (w : Word) : (x.setG r w).preqAt = x.preqAt := by rw [Strand.setG_eq]
@[simp] theorem Strand.setG_strip (x : Strand) (r : GReg) (w : Word) : (x.setG r w).strip = x.strip := by rw [Strand.setG_eq]
@[simp] theorem Strand.setG_stripOf (x : Strand) (r : GReg) (w : Word) : (x.setG r w).stripOf = x.stripOf := by rw [Strand.setG_eq]
@[simp] theorem Strand.setG_iw (x : Strand) (r : GReg) (w : Word) : (x.setG r w).iw = x.iw := by rw [Strand.setG_eq]
@[simp] theorem Strand.setG_held (x : Strand) (r : GReg) (w : Word) : (x.setG r w).held = x.held := by rw [Strand.setG_eq]
@[simp] theorem Strand.setG_heldAt (x : Strand) (r : GReg) (w : Word) : (x.setG r w).heldAt = x.heldAt := by rw [Strand.setG_eq]
@[simp] theorem Strand.setG_pins (x : Strand) (r : GReg) (w : Word) : (x.setG r w).pins = x.pins := by rw [Strand.setG_eq]
@[simp] theorem Strand.setG_issued (x : Strand) (r : GReg) (w : Word) : (x.setG r w).issued = x.issued := by rw [Strand.setG_eq]
@[simp] theorem Strand.setG_farmWait (x : Strand) (r : GReg) (w : Word) : (x.setG r w).farmWait = x.farmWait := by rw [Strand.setG_eq]
@[simp] theorem Strand.setG_rowWait (x : Strand) (r : GReg) (w : Word) : (x.setG r w).rowWait = x.rowWait := by rw [Strand.setG_eq]
@[simp] theorem Strand.setG_failAt (x : Strand) (r : GReg) (w : Word) : (x.setG r w).failAt = x.failAt := by rw [Strand.setG_eq]
@[simp] theorem Strand.setG_pend (x : Strand) (r : GReg) (w : Word) : (x.setG r w).pend = x.pend := by rw [Strand.setG_eq]
@[simp] theorem Strand.setG_svcRec (x : Strand) (r : GReg) (w : Word) : (x.setG r w).svcRec = x.svcRec := by rw [Strand.setG_eq]
@[simp] theorem Strand.setG_badRegs (x : Strand) (r : GReg) (w : Word) : (x.setG r w).badRegs = x.badRegs := by rw [Strand.setG_eq]
@[simp] theorem Strand.setG_upsets (x : Strand) (r : GReg) (w : Word) : (x.setG r w).upsets = x.upsets := by rw [Strand.setG_eq]
@[simp] theorem Strand.setG_upsetGroup (x : Strand) (r : GReg) (w : Word) : (x.setG r w).upsetGroup = x.upsetGroup := by rw [Strand.setG_eq]

/-- What any general register reads after a write: g0 stays zero. -/
theorem Strand.getG_setG (x : Strand) (d r : GReg) (w : Word) :
    (x.setG d w).getG r = if r = 0 then 0 else if r = d then w else x.getG r := by
  unfold Strand.setG Strand.getG
  by_cases hr : r = 0
  · simp [hr]
  · by_cases hd : d = 0
    · simp [hr, hd]
    · simp only [hr, hd, if_false, Sparse.get_put]
      simp [Fin.ext_iff]
@[simp] theorem Strand.getG_zero (x : Strand) : x.getG 0 = 0 := rfl
@[simp] theorem Strand.setG_zero (x : Strand) (w : Word) : x.setG 0 w = x := rfl

/-! ## Masks (R22) -/

theorem Strand.setK_eq (x : Strand) (r : KReg) (i : Nat) (b : Bool) : x.setK r i b = { x with k := (x.setK r i b).k } := by
  unfold Strand.setK; split <;> rfl
@[simp] theorem Strand.setK_st (x : Strand) (r : KReg) (i : Nat) (b : Bool) : (x.setK r i b).st = x.st := by rw [Strand.setK_eq]
@[simp] theorem Strand.setK_pc (x : Strand) (r : KReg) (i : Nat) (b : Bool) : (x.setK r i b).pc = x.pc := by rw [Strand.setK_eq]
@[simp] theorem Strand.setK_g (x : Strand) (r : KReg) (i : Nat) (b : Bool) : (x.setK r i b).g = x.g := by rw [Strand.setK_eq]
@[simp] theorem Strand.setK_v (x : Strand) (r : KReg) (i : Nat) (b : Bool) : (x.setK r i b).v = x.v := by rw [Strand.setK_eq]
@[simp] theorem Strand.setK_vp (x : Strand) (r : KReg) (i : Nat) (b : Bool) : (x.setK r i b).vp = x.vp := by rw [Strand.setK_eq]
@[simp] theorem Strand.setK_t (x : Strand) (r : KReg) (i : Nat) (b : Bool) : (x.setK r i b).t = x.t := by rw [Strand.setK_eq]
@[simp] theorem Strand.setK_tp (x : Strand) (r : KReg) (i : Nat) (b : Bool) : (x.setK r i b).tp = x.tp := by rw [Strand.setK_eq]
@[simp] theorem Strand.setK_e (x : Strand) (r : KReg) (i : Nat) (b : Bool) : (x.setK r i b).e = x.e := by rw [Strand.setK_eq]
@[simp] theorem Strand.setK_vl (x : Strand) (r : KReg) (i : Nat) (b : Bool) : (x.setK r i b).vl = x.vl := by rw [Strand.setK_eq]
@[simp] theorem Strand.setK_vtype (x : Strand) (r : KReg) (i : Nat) (b : Bool) : (x.setK r i b).vtype = x.vtype := by rw [Strand.setK_eq]
@[simp] theorem Strand.setK_vstart (x : Strand) (r : KReg) (i : Nat) (b : Bool) : (x.setK r i b).vstart = x.vstart := by rw [Strand.setK_eq]
@[simp] theorem Strand.setK_vbase (x : Strand) (r : KReg) (i : Nat) (b : Bool) : (x.setK r i b).vbase = x.vbase := by rw [Strand.setK_eq]
@[simp] theorem Strand.setK_vspace (x : Strand) (r : KReg) (i : Nat) (b : Bool) : (x.setK r i b).vspace = x.vspace := by rw [Strand.setK_eq]
@[simp] theorem Strand.setK_vgrant (x : Strand) (r : KReg) (i : Nat) (b : Bool) : (x.setK r i b).vgrant = x.vgrant := by rw [Strand.setK_eq]
@[simp] theorem Strand.setK_vsend (x : Strand) (r : KReg) (i : Nat) (b : Bool) : (x.setK r i b).vsend = x.vsend := by rw [Strand.setK_eq]
@[simp] theorem Strand.setK_vfarm (x : Strand) (r : KReg) (i : Nat) (b : Bool) : (x.setK r i b).vfarm = x.vfarm := by rw [Strand.setK_eq]
@[simp] theorem Strand.setK_posted (x : Strand) (r : KReg) (i : Nat) (b : Bool) : (x.setK r i b).posted = x.posted := by rw [Strand.setK_eq]
@[simp] theorem Strand.setK_tcfg (x : Strand) (r : KReg) (i : Nat) (b : Bool) : (x.setK r i b).tcfg = x.tcfg := by rw [Strand.setK_eq]
@[simp] theorem Strand.setK_sstat (x : Strand) (r : KReg) (i : Nat) (b : Bool) : (x.setK r i b).sstat = x.sstat := by rw [Strand.setK_eq]
@[simp] theorem Strand.setK_tcause (x : Strand) (r : KReg) (i : Nat) (b : Bool) : (x.setK r i b).tcause = x.tcause := by rw [Strand.setK_eq]
@[simp] theorem Strand.setK_tval (x : Strand) (r : KReg) (i : Nat) (b : Bool) : (x.setK r i b).tval = x.tval := by rw [Strand.setK_eq]
@[simp] theorem Strand.setK_tpc (x : Strand) (r : KReg) (i : Nat) (b : Bool) : (x.setK r i b).tpc = x.tpc := by rw [Strand.setK_eq]
@[simp] theorem Strand.setK_tinst (x : Strand) (r : KReg) (i : Nat) (b : Bool) : (x.setK r i b).tinst = x.tinst := by rw [Strand.setK_eq]
@[simp] theorem Strand.setK_tvec (x : Strand) (r : KReg) (i : Nat) (b : Bool) : (x.setK r i b).tvec = x.tvec := by rw [Strand.setK_eq]
@[simp] theorem Strand.setK_asid (x : Strand) (r : KReg) (i : Nat) (b : Bool) : (x.setK r i b).asid = x.asid := by rw [Strand.setK_eq]
@[simp] theorem Strand.setK_ortb (x : Strand) (r : KReg) (i : Nat) (b : Bool) : (x.setK r i b).ortb = x.ortb := by rw [Strand.setK_eq]
@[simp] theorem Strand.setK_instret (x : Strand) (r : KReg) (i : Nat) (b : Bool) : (x.setK r i b).instret = x.instret := by rw [Strand.setK_eq]
@[simp] theorem Strand.setK_wakes (x : Strand) (r : KReg) (i : Nat) (b : Bool) : (x.setK r i b).wakes = x.wakes := by rw [Strand.setK_eq]
@[simp] theorem Strand.setK_preq (x : Strand) (r : KReg) (i : Nat) (b : Bool) : (x.setK r i b).preq = x.preq := by rw [Strand.setK_eq]
@[simp] theorem Strand.setK_preqAt (x : Strand) (r : KReg) (i : Nat) (b : Bool) : (x.setK r i b).preqAt = x.preqAt := by rw [Strand.setK_eq]
@[simp] theorem Strand.setK_strip (x : Strand) (r : KReg) (i : Nat) (b : Bool) : (x.setK r i b).strip = x.strip := by rw [Strand.setK_eq]
@[simp] theorem Strand.setK_stripOf (x : Strand) (r : KReg) (i : Nat) (b : Bool) : (x.setK r i b).stripOf = x.stripOf := by rw [Strand.setK_eq]
@[simp] theorem Strand.setK_iw (x : Strand) (r : KReg) (i : Nat) (b : Bool) : (x.setK r i b).iw = x.iw := by rw [Strand.setK_eq]
@[simp] theorem Strand.setK_held (x : Strand) (r : KReg) (i : Nat) (b : Bool) : (x.setK r i b).held = x.held := by rw [Strand.setK_eq]
@[simp] theorem Strand.setK_heldAt (x : Strand) (r : KReg) (i : Nat) (b : Bool) : (x.setK r i b).heldAt = x.heldAt := by rw [Strand.setK_eq]
@[simp] theorem Strand.setK_pins (x : Strand) (r : KReg) (i : Nat) (b : Bool) : (x.setK r i b).pins = x.pins := by rw [Strand.setK_eq]
@[simp] theorem Strand.setK_issued (x : Strand) (r : KReg) (i : Nat) (b : Bool) : (x.setK r i b).issued = x.issued := by rw [Strand.setK_eq]
@[simp] theorem Strand.setK_farmWait (x : Strand) (r : KReg) (i : Nat) (b : Bool) : (x.setK r i b).farmWait = x.farmWait := by rw [Strand.setK_eq]
@[simp] theorem Strand.setK_rowWait (x : Strand) (r : KReg) (i : Nat) (b : Bool) : (x.setK r i b).rowWait = x.rowWait := by rw [Strand.setK_eq]
@[simp] theorem Strand.setK_failAt (x : Strand) (r : KReg) (i : Nat) (b : Bool) : (x.setK r i b).failAt = x.failAt := by rw [Strand.setK_eq]
@[simp] theorem Strand.setK_pend (x : Strand) (r : KReg) (i : Nat) (b : Bool) : (x.setK r i b).pend = x.pend := by rw [Strand.setK_eq]
@[simp] theorem Strand.setK_svcRec (x : Strand) (r : KReg) (i : Nat) (b : Bool) : (x.setK r i b).svcRec = x.svcRec := by rw [Strand.setK_eq]
@[simp] theorem Strand.setK_badRegs (x : Strand) (r : KReg) (i : Nat) (b : Bool) : (x.setK r i b).badRegs = x.badRegs := by rw [Strand.setK_eq]
@[simp] theorem Strand.setK_upsets (x : Strand) (r : KReg) (i : Nat) (b : Bool) : (x.setK r i b).upsets = x.upsets := by rw [Strand.setK_eq]
@[simp] theorem Strand.setK_upsetGroup (x : Strand) (r : KReg) (i : Nat) (b : Bool) : (x.setK r i b).upsetGroup = x.upsetGroup := by rw [Strand.setK_eq]

/-! ## Strand.retire (R181) -/

@[simp] theorem Strand.retire_st (x : Strand) : x.retire.st = .run := rfl
@[simp] theorem Strand.retire_pc (x : Strand) : x.retire.pc = x.pc + 4 := rfl
@[simp] theorem Strand.retire_g (x : Strand) : x.retire.g = x.g := rfl
@[simp] theorem Strand.retire_v (x : Strand) : x.retire.v = x.v := rfl
@[simp] theorem Strand.retire_vp (x : Strand) : x.retire.vp = x.vp := rfl
@[simp] theorem Strand.retire_k (x : Strand) : x.retire.k = x.k := rfl
@[simp] theorem Strand.retire_t (x : Strand) : x.retire.t = x.t := rfl
@[simp] theorem Strand.retire_tp (x : Strand) : x.retire.tp = x.tp := rfl
@[simp] theorem Strand.retire_e (x : Strand) : x.retire.e = x.e := rfl
@[simp] theorem Strand.retire_vl (x : Strand) : x.retire.vl = x.vl := rfl
@[simp] theorem Strand.retire_vtype (x : Strand) : x.retire.vtype = x.vtype := rfl
@[simp] theorem Strand.retire_vstart (x : Strand) : x.retire.vstart = x.vstart := rfl
@[simp] theorem Strand.retire_vbase (x : Strand) : x.retire.vbase = x.vbase := rfl
@[simp] theorem Strand.retire_vspace (x : Strand) : x.retire.vspace = x.vspace := rfl
@[simp] theorem Strand.retire_vgrant (x : Strand) : x.retire.vgrant = x.vgrant := rfl
@[simp] theorem Strand.retire_vsend (x : Strand) : x.retire.vsend = x.vsend := rfl
@[simp] theorem Strand.retire_vfarm (x : Strand) : x.retire.vfarm = x.vfarm := rfl
@[simp] theorem Strand.retire_posted (x : Strand) : x.retire.posted = x.posted := rfl
@[simp] theorem Strand.retire_tcfg (x : Strand) : x.retire.tcfg = x.tcfg := rfl
@[simp] theorem Strand.retire_sstat (x : Strand) : x.retire.sstat = x.sstat := rfl
@[simp] theorem Strand.retire_tcause (x : Strand) : x.retire.tcause = x.tcause := rfl
@[simp] theorem Strand.retire_tval (x : Strand) : x.retire.tval = x.tval := rfl
@[simp] theorem Strand.retire_tpc (x : Strand) : x.retire.tpc = x.tpc := rfl
@[simp] theorem Strand.retire_tinst (x : Strand) : x.retire.tinst = x.tinst := rfl
@[simp] theorem Strand.retire_tvec (x : Strand) : x.retire.tvec = x.tvec := rfl
@[simp] theorem Strand.retire_asid (x : Strand) : x.retire.asid = x.asid := rfl
@[simp] theorem Strand.retire_ortb (x : Strand) : x.retire.ortb = x.ortb := rfl
@[simp] theorem Strand.retire_instret (x : Strand) : x.retire.instret = x.instret + 1 := rfl
@[simp] theorem Strand.retire_wakes (x : Strand) : x.retire.wakes = x.wakes := rfl
@[simp] theorem Strand.retire_preq (x : Strand) : x.retire.preq = x.preq := rfl
@[simp] theorem Strand.retire_preqAt (x : Strand) : x.retire.preqAt = x.preqAt := rfl
@[simp] theorem Strand.retire_strip (x : Strand) : x.retire.strip = x.strip := rfl
@[simp] theorem Strand.retire_stripOf (x : Strand) : x.retire.stripOf = x.stripOf := rfl
@[simp] theorem Strand.retire_iw (x : Strand) : x.retire.iw = x.iw := rfl
@[simp] theorem Strand.retire_held (x : Strand) : x.retire.held = false := rfl
@[simp] theorem Strand.retire_heldAt (x : Strand) : x.retire.heldAt = x.heldAt := rfl
@[simp] theorem Strand.retire_pins (x : Strand) : x.retire.pins = [] := rfl
@[simp] theorem Strand.retire_issued (x : Strand) : x.retire.issued = [] := rfl
@[simp] theorem Strand.retire_farmWait (x : Strand) : x.retire.farmWait = false := rfl
@[simp] theorem Strand.retire_rowWait (x : Strand) : x.retire.rowWait = [] := rfl
@[simp] theorem Strand.retire_failAt (x : Strand) : x.retire.failAt = none := rfl
@[simp] theorem Strand.retire_pend (x : Strand) : x.retire.pend = x.pend := rfl
@[simp] theorem Strand.retire_svcRec (x : Strand) : x.retire.svcRec = x.svcRec := rfl
@[simp] theorem Strand.retire_badRegs (x : Strand) : x.retire.badRegs = x.badRegs := rfl
@[simp] theorem Strand.retire_upsets (x : Strand) : x.retire.upsets = x.upsets := rfl
@[simp] theorem Strand.retire_upsetGroup (x : Strand) : x.retire.upsetGroup = x.upsetGroup := rfl
@[simp] theorem Strand.getG_retire (x : Strand) (r : GReg) : x.retire.getG r = x.getG r := rfl
@[simp] theorem Strand.getK_retire (x : Strand) (r : KReg) (i : Nat) : x.retire.getK r i = x.getK r i := rfl

end Sys2Proof.Machine
end

