-- ==== Sys2Proof/Laws/Memory.lean ====
section
/-! SUPPORT. The laws of memory: what the stores of a step leave in every byte when they enter it, what they do not touch,
and that every operation on memory keeps its canonical form. -/

namespace Sys2Proof.Machine

/-! ## One store -/

theorem State.commitOne_mem (s : State) (e : Store) : (s.commitOne e).mem = s.mem.put memDefault e.addr e.byte := rfl

/-- A store changes no part of the state but memory's four views. -/
theorem State.commitOne_frame (s : State) (e : Store) :
    s.commitOne e = { s with
      mem := (s.commitOne e).mem, l2 := (s.commitOne e).l2, arr := (s.commitOne e).arr
      recOld := (s.commitOne e).recOld } := rfl

/-! ## The stores of a step -/

theorem State.commitAll_frame (s : State) (l : List Store) :
    s.commitAll l = { s with
      mem := (s.commitAll l).mem, l2 := (s.commitAll l).l2, arr := (s.commitAll l).arr
      recOld := (s.commitAll l).recOld } := by
  induction l with
  | nil => rfl
  | cons e r ih =>
    show (s.commitAll r).commitOne e = _
    rw [State.commitOne_frame]
    simp only [State.commitAll]
    rw [ih]

/-- The byte every coherent reader sees once the stores of a step have entered memory. -/
theorem State.commitAll_mem_get (s : State) (l : List Store) (a : Nat) :
    (s.commitAll l).mem.get memDefault a = (lookupLog l a).getD (s.mem.get memDefault a) := by
  induction l with
  | nil => rfl
  | cons e r ih =>
    simp only [State.commitAll, State.commitOne_mem, Sparse.get_put, lookupLog, ih]
    by_cases h : a = e.addr
    · simp [h]
    · simp [h, Ne.symm h]

theorem State.commitAll_wf (s : State) (l : List Store) (h : Memory.wf s.mem = true) :
    Memory.wf (s.commitAll l).mem = true := by
  induction l with
  | nil => exact h
  | cons e r ih => simp only [State.commitAll, State.commitOne_mem]; exact Sparse.wf_put _ _ ih

/-! ## The end of a step -/

/-- Beside memory and its views, the step leaves what it computed. -/
theorem commit_frame (s t : State) :
    commit s t = { t with
      mem := (commit s t).mem, l2 := (commit s t).l2, arr := (commit s t).arr, recOld := (commit s t).recOld
      log := [] } := by
  unfold commit
  rw [State.commitAll_frame]

@[simp] theorem commit_log (s t : State) : (commit s t).log = [] := rfl
@[simp] theorem commit_cur (s t : State) : (commit s t).cur = t.cur := by rw [commit_frame]
@[simp] theorem commit_curRun (s t : State) : (commit s t).curRun = t.curRun := by rw [commit_frame]
@[simp] theorem commit_agenda (s t : State) : (commit s t).agenda = t.agenda := by rw [commit_frame]
@[simp] theorem commit_waiting (s t : State) : (commit s t).waiting = t.waiting := by rw [commit_frame]
@[simp] theorem commit_noted (s t : State) : (commit s t).noted = t.noted := by rw [commit_frame]
@[simp] theorem commit_undo (s t : State) : (commit s t).undo = t.undo := by rw [commit_frame]
@[simp] theorem commit_issuer (s t : State) : (commit s t).issuer = t.issuer := by rw [commit_frame]
@[simp] theorem commit_ticks (s t : State) : (commit s t).ticks = t.ticks := by rw [commit_frame]
@[simp] theorem commit_now (s t : State) : (commit s t).now = t.now := by rw [commit_frame]
@[simp] theorem commit_placed (s t : State) : (commit s t).placed = t.placed := by rw [commit_frame]
@[simp] theorem commit_windows (s t : State) : (commit s t).windows = t.windows := by rw [commit_frame]
@[simp] theorem commit_poison (s t : State) : (commit s t).poison = t.poison := by rw [commit_frame]
@[simp] theorem commit_strands (s t : State) : (commit s t).strands = t.strands := by rw [commit_frame]
@[simp] theorem commit_cores (s t : State) : (commit s t).cores = t.cores := by rw [commit_frame]
@[simp] theorem commit_dies (s t : State) : (commit s t).dies = t.dies := by rw [commit_frame]
@[simp] theorem commit_marks (s t : State) : (commit s t).marks = t.marks := by rw [commit_frame]
@[simp] theorem commit_hostUp (s t : State) : (commit s t).hostUp = t.hostUp := by rw [commit_frame]
@[simp] theorem commit_badChannels (s t : State) : (commit s t).badChannels = t.badChannels := by rw [commit_frame]
@[simp] theorem commit_badLines (s t : State) : (commit s t).badLines = t.badLines := by rw [commit_frame]
@[simp] theorem commit_hostCopies (s t : State) : (commit s t).hostCopies = t.hostCopies := by rw [commit_frame]
@[simp] theorem commit_boot (s t : State) : (commit s t).boot = t.boot := by rw [commit_frame]
@[simp] theorem commit_slotA (s t : State) : (commit s t).slotA = t.slotA := by rw [commit_frame]
@[simp] theorem commit_slotB (s t : State) : (commit s t).slotB = t.slotB := by rw [commit_frame]
@[simp] theorem commit_configs (s t : State) : (commit s t).configs = t.configs := by rw [commit_frame]
@[simp] theorem commit_cert (s t : State) : (commit s t).cert = t.cert := by rw [commit_frame]
@[simp] theorem commit_measures (s t : State) : (commit s t).measures = t.measures := by rw [commit_frame]
@[simp] theorem commit_member (s t : State) : (commit s t).member = t.member := by rw [commit_frame]
@[simp] theorem commit_out (s t : State) : (commit s t).out = t.out := by rw [commit_frame]
@[simp] theorem commit_strand (s t : State) (n : Nat) : (commit s t).strand n = t.strand n := by
  simp [State.strand]
@[simp] theorem commit_me (s t : State) : (commit s t).me = t.me := by simp [State.me]
@[simp] theorem commit_core (s t : State) (n : Nat) : (commit s t).core n = t.core n := by simp [State.core]
@[simp] theorem commit_die (s t : State) (n : Nat) : (commit s t).die n = t.die n := by simp [State.die]

/-- A byte after the step: the step's latest store to it, or what it held before. -/
theorem commit_readByte (s t : State) (a : Nat) :
    (commit s t).readByte a = (lookupLog t.log a).getD (s.mem.get memDefault a) := by
  show ((({ t with mem := s.mem } : State).commitAll t.log).mem).get memDefault a = _
  rw [State.commitAll_mem_get]

/-- A step that stores nothing leaves memory and every view of it. -/
theorem commit_quiet (s t : State) (h : t.log = []) : commit s t = { t with mem := s.mem } := by
  unfold commit
  rw [h]
  show ({ ({ t with mem := s.mem } : State) with log := [] } : State) = _
  rw [← h]

/-- Every step's stores keep the canonical form of memory. -/
theorem commit_wf (s t : State) (h : Memory.wf s.mem = true) : Memory.wf (commit s t).mem = true :=
  State.commitAll_wf { t with mem := s.mem } t.log h

/-! ## Reading within a step -/

theorem State.readByte_storeByte (s : State) (v : Via) (a k : Nat) (b : Byte) :
    (s.storeByte v a b).readByte k = if k = a then b else s.readByte k := by
  unfold State.readByte State.storeByte
  by_cases h : k = a
  · simp [lookupLog, h]
  · simp [lookupLog, h, Ne.symm h]

/-- A byte before the step, when no step is in progress. -/
theorem State.readByte_settled (s : State) (h : s.log = []) (a : Nat) : s.readByte a = s.mem.get memDefault a := by
  simp [State.readByte, h, lookupLog]

/-- Consecutive bytes stored: each reads as stored, and every other byte as before. -/
theorem State.readByte_storeBytes (s : State) (v : Via) (a k : Nat) (bs : List Byte) :
    (s.storeBytes v a bs).readByte k =
      if a ≤ k ∧ k < a + bs.length then bs.getD (k - a) 0 else s.readByte k := by
  induction bs generalizing s a with
  | nil =>
    simp only [State.storeBytes, List.length_nil, Nat.add_zero]
    rw [if_neg (by omega)]
  | cons b r ih =>
    simp only [State.storeBytes, ih, State.readByte_storeByte, List.length_cons]
    by_cases h1 : a + 1 ≤ k ∧ k < a + 1 + r.length
    · rw [if_pos h1, if_pos (by omega)]
      obtain ⟨j, rfl⟩ : ∃ j, k = a + 1 + j := ⟨k - (a + 1), by omega⟩
      rw [show a + 1 + j - (a + 1) = j by omega, show a + 1 + j - a = j + 1 by omega]
      rfl
    · rw [if_neg h1]
      by_cases h2 : k = a
      · subst h2; rw [if_pos rfl, if_pos (by omega), Nat.sub_self]; rfl
      · rw [if_neg h2, if_neg (by omega)]

/-! ## Rows (R116) -/

/-- The cells of a row's value are in order, in the row, and none of them is the default. -/
theorem rowCells_ordered (a v : Nat) : (rowCells a v).Pairwise fun p q => p.1 < q.1 :=
  List.pairwise_lt_range.filterMap _ fun i j hij p hp q hq => by grind

theorem rowCells_mem {a v : Nat} {p : Nat × Byte} (hp : p ∈ rowCells a v) : a ≤ p.1 ∧ p.1 < a + 32768 ∧ p.2 ≠ memDefault := by
  unfold rowCells at hp
  grind

/-- A row the sequencer writes keeps the canonical form of memory. -/
theorem State.writeRow_wf (s : State) (a v : Nat) (h : Memory.wf s.mem = true) : Memory.wf (s.writeRow a v).mem = true := by
  have e := (Sparse.wf_iff _ _).mp h
  show Sparse.wf _ _ = true
  rw [Sparse.wf_iff]
  simp only [State.writeRow, List.pairwise_append, List.mem_append, List.mem_filter, decide_eq_true_eq]
  refine ⟨⟨⟨e.1.filter _, rowCells_ordered a v, fun p hp q hq => ?_⟩, e.1.filter _, fun p hp q hq => ?_⟩, fun p hp => ?_⟩
  · have := rowCells_mem hq; omega
  · rcases hp with hp | hp
    · omega
    · have := rowCells_mem hp; omega
  · rcases hp with (hp | hp) | hp
    · exact e.2 p hp.1
    · exact (rowCells_mem hp).2.2
    · exact e.2 p hp.1

/-- Whatever list of writes a fold makes, each keeping the form, it keeps the form. -/
theorem foldl_mem_wf {β : Type} (f : State → β → State) (hf : ∀ s b, Memory.wf s.mem = true → Memory.wf (f s b).mem = true)
    (l : List β) (s : State) (h : Memory.wf s.mem = true) : Memory.wf (l.foldl f s).mem = true :=
  List.foldlRecOn l f h fun t ht b _ => hf t b ht

theorem State.writeRows_wf (s : State) (stack : Nat) (r : Run) (rows : List (Nat × Nat)) (h : Memory.wf s.mem = true) :
    Memory.wf (s.writeRows stack r rows).mem = true := by
  unfold State.writeRows
  refine foldl_mem_wf _ (fun t p ht => ?_) _ s h
  rw [State.updDie_mem]
  exact State.writeRow_wf t _ _ ht

theorem State.writeTwin_wf (s : State) (stack : Nat) (r : Run) (rows : List (Nat × Nat)) (h : Memory.wf s.mem = true) :
    Memory.wf (s.writeTwin stack r rows).mem = true := by
  unfold State.writeTwin
  split
  · exact State.writeRows_wf s _ _ _ h
  · exact h

theorem State.copyRows_wf (s : State) (stack : Nat) (r : Run) (cs : List Chore) (h : Memory.wf s.mem = true) :
    Memory.wf (s.copyRows stack r cs).mem = true := by
  unfold State.copyRows
  split
  · refine foldl_mem_wf _ (fun t c ht => ?_) _ s h
    cases c <;> first | exact State.writeRow_wf t _ _ ht | exact ht
  · exact h

theorem State.openShadow_wf (s : State) (stack : Nat) (r : Run) (h : Memory.wf s.mem = true) :
    Memory.wf (s.openShadow stack r).mem = true := by
  unfold State.openShadow
  split
  · rw [State.updDie_mem]
    exact foldl_mem_wf _ (fun t _ ht => State.writeRow_wf t _ _ ht) _ s h
  · exact h

theorem reset_mem_wf : Memory.wf State.reset.mem = true := rfl

end Sys2Proof.Machine
end

