-- ==== Sys2Proof/Laws/Ops.lean ====
section
/-! SUPPORT. What each shared operation can do, said once: a step that changes one strand, a jump, a trap, a scalar access. -/

namespace Sys2Proof.Machine

/-! ## Steps that store nothing -/

theorem MemoryKept_of_log (s t : State) (hs : s.log = []) (ht : t.log = []) : s.MemoryKept (commit s t) := by
  intro a
  rw [commit_readByte, ht, State.readByte_settled s hs]; rfl

/-- A step that changes only the strand whose turn it is. -/
theorem onlyStrand_upd (s : State) (f : Strand → Strand) (hs : s.log = []) : s.OnlyStrand s.cur (commit s (s.upd f)) := by
  rw [commit_quiet _ _ (by simpa using hs)]
  refine ⟨rfl, fun m hm => ?_⟩
  show (s.upd f).strand m = _
  rw [State.strand_upd, if_neg hm]

theorem becomes_upd (s : State) (i : Instr) (f : Strand → Strand) (hs : s.log = [])
    (h : exec i s = .next (commit s (s.upd f))) : s.Becomes i (f s.me) :=
  ⟨_, h, by simp, onlyStrand_upd s f hs, MemoryKept_of_log s _ hs (by simpa using hs)⟩

/-- A result in a general register, and on to the next instruction. -/
theorem writes_upd (s : State) (i : Instr) (d : GReg) (w : Word) (hs : s.log = [])
    (h : exec i s = .next (commit s (s.upd fun x => (x.setG d w).retire))) : s.Writes i d w := by
  refine ⟨_, h, ?_, ?_, onlyStrand_upd s _ hs, MemoryKept_of_log s _ hs (by simpa using hs)⟩
  · intro r; simp [Strand.getG_setG]
  · simp only [commit_me, State.me_upd]
    unfold Strand.Advances Strand.retire Strand.setG
    split <;> rfl

/-- An instruction over one strand's registers. -/
theorem strandOp_setG (s : State) (f : Strand → Strand) (d : GReg) (w : Word) (h : f s.me = s.me.setG d w) :
    strandOp f s = .next (commit s (s.upd fun x => (x.setG d w).retire)) := by
  show Host.Outcome.next (commit s (s.setStrand s.cur (f s.me).retire)) = _
  rw [h]; rfl

theorem writes_strandOp (s : State) (i : Instr) (d : GReg) (w : Word) (hs : s.log = []) (f : Strand → Strand)
    (h : exec i s = strandOp f s) (hf : f s.me = s.me.setG d w) : s.Writes i d w :=
  writes_upd s i d w hs (h.trans (strandOp_setG s f d w hf))

/-! ## Transfers of control (R30) -/

/-- Outside a farm, or to a target other than 0, a jump only moves the pc. -/
theorem State.jump_stays (s : State) (t : Word) (h : s.me.inFarm = false ∨ t ≠ 0) :
    s.jump t = s.upd fun z => { z.unhold with pc := t, instret := z.instret + 1, st := .run } := by
  have hm : (s.upd fun x => { x with instret := x.instret + 1 }).strand s.cur = { s.me with instret := s.me.instret + 1 } :=
    Sparse.get_put_same ..
  have hn : ¬ (({ s.me with instret := s.me.instret + 1 } : Strand).inFarm = true ∧ t = 0) := by
    rintro ⟨h1, h2⟩
    rcases h with h | h
    · have h3 : s.me.inFarm = true := h1
      rw [h] at h3; cases h3
    · exact h h2
  unfold State.jump State.goTo
  rw [hm, if_neg hn]
  exact State.upd_upd s _ _

/-! ## Traps (R328) -/

theorem State.takeTrap_own (s : State) (t : Trap) (h : s.OwnTrap t.cause) : s.takeTrap s.cur t = s.upd fun y => y.enter t := by
  obtain ⟨h1, h2, h3⟩ := h
  have h4 : ¬ ((s.strand s.cur).supervisor = true ∧ (s.strand s.cur).tm = true ∧ t.hard = false) := by
    rintro ⟨a, b, -⟩
    have : (s.me.supervisor && s.me.tm) = true := by simp [State.me, a, b]
    rw [h2] at this; cases this
  simp only [State.takeTrap, h1, Bool.false_eq_true, if_false, h4, State.enterTrap, h3]
  rfl

/-- The fields of sstat after trap entry. -/
theorem Strand.entered_enter (x : Strand) (t : Trap) (hi : t.tinst = x.iw) :
    x.Entered (x.enter t) t.cause t.tval t.tpc := by
  have hb : ∀ n, wbits x.sstat n 1 < 2 := fun n => Nat.mod_lt _ (by decide)
  have h0 := hb 0; have h2 := hb 2; have h7 := hb 7
  have hh : t.hard.toNat < 2 := by cases t.hard <;> decide
  refine ⟨by simp [Strand.enter, hi], ?_⟩
  simp only [Strand.enter]
  generalize wbits x.sstat 0 1 = p at *
  generalize wbits x.sstat 2 1 = q at *
  generalize wbits x.sstat 7 1 = r at *
  generalize t.hard.toNat = hd at *
  split <;>
  · simp only [wbits, field, BitVec.toNat_ofNat]
    refine ⟨by omega, by omega, by omega, by omega, by omega, ?_, by omega⟩
    first | (intro hc; exact absurd ‹_› hc) | (intro _; omega)

theorem traps_of (s : State) (i : Instr) (c : Nat) (v : Word) (hs : s.log = []) (ho : s.OwnTrap c)
    (h : exec i s = .next (commit s (s.trap c v))) : s.Traps i c v := by
  have e : s.trap c v = s.upd fun y => y.enter ⟨c, v, s.me.pc, s.me.iw, false, false⟩ := State.takeTrap_own s _ ho
  rw [e] at h
  refine ⟨_, h, ?_, onlyStrand_upd s _ hs, MemoryKept_of_log s _ hs (by simpa using hs)⟩
  simp only [commit_me, State.me_upd]
  exact Strand.entered_enter s.me ⟨c, v, s.me.pc, s.me.iw, false, false⟩ rfl

/-! ## Waiting for rows (R107, R140) -/

theorem State.startLockWait_frame (s : State) (a : Nat) (h : Option Nat) :
    ∃ ds, s.startLockWait a h = { s with dies := ds } := by
  unfold State.startLockWait
  split
  · exact ⟨_, rfl⟩
  · exact ⟨s.dies, rfl⟩

/-- What noting a wait changes: a lock's timeout, and the rows noted. -/
theorem State.noteWait_frame (s : State) (a : Nat) (h : Option Nat) :
    ∃ ds ns, s.noteWait a h = { s with dies := ds, noted := ns } := by
  obtain ⟨ds, e⟩ := s.startLockWait_frame a h
  unfold State.noteWait
  rw [e]
  split
  · exact ⟨ds, _, rfl⟩
  · exact ⟨ds, s.noted, rfl⟩

/-- An agent's step whose rows are free goes on. -/
theorem State.whenFree_clear (s k : State) (as : List Nat) (h : ∀ a ∈ as, s.rowWaits a none = false) : s.whenFree as k = k := by
  unfold State.whenFree
  rw [if_neg]
  simpa using h

/-- One that waits changes lock timeouts and the rows noted alone. -/
theorem State.whenFree_frame (s k : State) (as : List Nat) :
    s.whenFree as k = k ∨ ∃ ds ns, s.whenFree as k = { s with dies := ds, noted := ns } := by
  have foldl_frame : ∀ (l : List Nat) (u : State), (∃ ds ns, u = { s with dies := ds, noted := ns }) →
      ∃ ds ns, l.foldl (fun (t : State) a => t.noteWait a none) u = { s with dies := ds, noted := ns } := by
    intro l
    induction l with
    | nil => exact fun u h => h
    | cons a r ih =>
      rintro u ⟨ds, ns, rfl⟩
      obtain ⟨d2, n2, e⟩ := State.noteWait_frame { s with dies := ds, noted := ns } a none
      exact ih _ ⟨d2, n2, e⟩
  unfold State.whenFree
  split
  · exact .inr (foldl_frame as s ⟨s.dies, s.noted, rfl⟩)
  · exact .inl rfl

/-! ## Turns -/

theorem putOff_quiet (t : Turn) (s u : State) (h : u.noted = []) : putOff t s (.next u) = .next u := by simp [putOff, h]
theorem keepNoted_quiet (s u : State) (h : u.noted = []) : keepNoted s (.next u) = .next u := by simp [keepNoted, h]

/-- With no turn put off that may move, the head of the agenda does. -/
theorem step_agenda (s : State) (t : Turn) (r : List Turn) (hf : s.freed = none) (ha : s.agenda = t :: r)
    (hg : t.given = true) : step s = takeTurn t { s with agenda := r } := by simp [step, hf, ha, hg]

end Sys2Proof.Machine
end

