-- ==== Sys2Proof/Laws/Words.lean ====
section
/-! SUPPORT. Every field of an encoded word reads back what the encoder put there (R146, R127): one lemma for each field of
each format, and one for each kind of operand. -/

namespace Sys2Proof

/-! ## Operands -/

@[simp] theorem g_val (r : GReg) : g r.val = r := by unfold g; ext; simp
@[simp] theorem v_val (r : VReg) : v r.val = r := by unfold v; ext; simp
@[simp] theorem k_val (r : KReg) : k r.val = r := by unfold k; ext; simp
@[simp] theorem t_val (r : TReg) : t r.val = r := by unfold t; ext; simp
@[simp] theorem e_val (r : EReg) : e r.val = r := by unfold e; ext; simp
@[simp] theorem flag_toNat (b : Bool) : flag b.toNat = b := by cases b <;> rfl
@[simp] theorem scopeOf_code (s : Scope) : scopeOf s.code = some s := by cases s <;> rfl
theorem Scope.code_lt (s : Scope) : s.code < 8 := by cases s <;> decide
theorem boolToNat_lt (b : Bool) : b.toNat < 2 := by cases b <;> decide

/-! ## Format A -/

section
variable (m : Nat) (d a b : GReg) (fn : Nat)

theorem major_encA (h : fn < 1024) : major (encA m d a b fn) = m := by
  have := d.isLt; have := a.isLt; have := b.isLt; unfold major encA; omega
theorem gd_encA (h : fn < 1024) : gd (encA m d a b fn) = d.val := by
  have := d.isLt; have := a.isLt; have := b.isLt; unfold gd encA; omega
theorem ga_encA (h : fn < 1024) : ga (encA m d a b fn) = a.val := by
  have := d.isLt; have := a.isLt; have := b.isLt; unfold ga encA; omega
theorem gb_encA (h : fn < 1024) : gb (encA m d a b fn) = b.val := by
  have := d.isLt; have := a.isLt; have := b.isLt; unfold gb encA; omega
theorem fnA_encA (h : fn < 1024) : fnA (encA m d a b fn) = fn := by
  have := d.isLt; have := a.isLt; have := b.isLt; unfold fnA encA; omega
end

/-! ## Formats I and B -/

section
variable (m : Nat) (d a : GReg) (i : Nat)

theorem major_encI (h : i < 32768) : major (encI m d a i) = m := by
  have := d.isLt; have := a.isLt; unfold major encI; omega
theorem gd_encI (h : i < 32768) : gd (encI m d a i) = d.val := by
  have := d.isLt; have := a.isLt; unfold gd encI; omega
theorem ga_encI (h : i < 32768) : ga (encI m d a i) = a.val := by
  have := d.isLt; have := a.isLt; unfold ga encI; omega
theorem imm15_encI (h : i < 32768) : imm15 (encI m d a i) = i := by
  have := d.isLt; have := a.isLt; unfold imm15 encI; omega
end

/-! ## Format L -/

section
variable (m : Nat) (d : GReg) (i : Nat)

theorem major_encL (h : i < 1048576) : major (encL m d i) = m := by have := d.isLt; unfold major encL; omega
theorem gd_encL (h : i < 1048576) : gd (encL m d i) = d.val := by have := d.isLt; unfold gd encL; omega
theorem imm20_encL (h : i < 1048576) : imm20 (encL m d i) = i := by have := d.isLt; unfold imm20 encL; omega
end

/-! ## Format Y -/

section
variable (m : Nat) (d a : GReg) (b : Nat) (s : Scope) (acq rel : Bool) (fn : Nat)

theorem major_encY (hb : b < 32) (h : fn < 32) : major (encY m d a b s acq rel fn) = m := by
  have := d.isLt; have := a.isLt; have := s.code_lt; have := boolToNat_lt acq; have := boolToNat_lt rel
  unfold major encY; omega
theorem gd_encY (hb : b < 32) (h : fn < 32) : gd (encY m d a b s acq rel fn) = d.val := by
  have := d.isLt; have := a.isLt; have := s.code_lt; have := boolToNat_lt acq; have := boolToNat_lt rel
  unfold gd encY; omega
theorem ga_encY (hb : b < 32) (h : fn < 32) : ga (encY m d a b s acq rel fn) = a.val := by
  have := d.isLt; have := a.isLt; have := s.code_lt; have := boolToNat_lt acq; have := boolToNat_lt rel
  unfold ga encY; omega
theorem gb_encY (hb : b < 32) (h : fn < 32) : gb (encY m d a b s acq rel fn) = b := by
  have := d.isLt; have := a.isLt; have := s.code_lt; have := boolToNat_lt acq; have := boolToNat_lt rel
  unfold gb encY; omega
theorem ysc_encY (_ : b < 32) (h : fn < 32) : ysc (encY m d a b s acq rel fn) = s.code := by
  have := d.isLt; have := a.isLt; have := s.code_lt; have := boolToNat_lt acq; have := boolToNat_lt rel
  unfold ysc encY; omega
theorem yacq_encY (_ : b < 32) (h : fn < 32) : yacq (encY m d a b s acq rel fn) = acq.toNat := by
  have := d.isLt; have := a.isLt; have := s.code_lt; have := boolToNat_lt acq; have := boolToNat_lt rel
  unfold yacq encY; omega
theorem yrel_encY (_ : b < 32) (h : fn < 32) : yrel (encY m d a b s acq rel fn) = rel.toNat := by
  have := d.isLt; have := a.isLt; have := s.code_lt; have := boolToNat_lt acq; have := boolToNat_lt rel
  unfold yrel encY; omega
theorem yfn_encY (_ : b < 32) (h : fn < 32) : yfn (encY m d a b s acq rel fn) = fn := by
  have := d.isLt; have := a.isLt; have := s.code_lt; have := boolToNat_lt acq; have := boolToNat_lt rel
  unfold yfn encY; omega
end

/-! ## Format V -/

section
variable (m d a p f : Nat) (k : KReg) (dt x : Bool)

theorem major_encV (_ : d < 64) (_ : a < 64) (_ : p < 64) (_ : f < 4) : major (encV m d a (p * 128 + f * 4) k dt x) = m := by
  have := k.isLt; have := boolToNat_lt dt; have := boolToNat_lt x; unfold major encV; omega
theorem vd_encV (_ : d < 64) (_ : a < 64) (_ : p < 64) (_ : f < 4) : vd (encV m d a (p * 128 + f * 4) k dt x) = d := by
  have := k.isLt; have := boolToNat_lt dt; have := boolToNat_lt x; unfold vd encV; omega
theorem vs1_encV (_ : d < 64) (_ : a < 64) (_ : p < 64) (_ : f < 4) : vs1 (encV m d a (p * 128 + f * 4) k dt x) = a := by
  have := k.isLt; have := boolToNat_lt dt; have := boolToNat_lt x; unfold vs1 encV; omega
theorem vo_encV (_ : d < 64) (_ : a < 64) (_ : p < 64) (_ : f < 4) : vo (encV m d a (p * 128 + f * 4) k dt x) = p := by
  have := k.isLt; have := boolToNat_lt dt; have := boolToNat_lt x; unfold vo encV; omega
theorem vk_encV (_ : d < 64) (_ : a < 64) (_ : p < 64) (_ : f < 4) : vk (encV m d a (p * 128 + f * 4) k dt x) = k.val := by
  have := k.isLt; have := boolToNat_lt dt; have := boolToNat_lt x; unfold vk encV; omega
theorem vform_encV (_ : d < 64) (_ : a < 64) (_ : p < 64) (_ : f < 4) : vform (encV m d a (p * 128 + f * 4) k dt x) = f := by
  have := k.isLt; have := boolToNat_lt dt; have := boolToNat_lt x; unfold vform encV; omega
theorem bit1_encV (_ : d < 64) (_ : a < 64) (_ : p < 64) (_ : f < 4) : bit1 (encV m d a (p * 128 + f * 4) k dt x) = dt.toNat := by
  have := k.isLt; have := boolToNat_lt dt; have := boolToNat_lt x; unfold bit1 encV; omega
theorem bit0_encV (_ : d < 64) (_ : a < 64) (_ : p < 64) (_ : f < 4) : bit0 (encV m d a (p * 128 + f * 4) k dt x) = x.toNat := by
  have := k.isLt; have := boolToNat_lt dt; have := boolToNat_lt x; unfold bit0 encV; omega
end

/-- The third operand's field of a V source. -/
theorem VSrc.code_fields (b : VSrc) : ∃ p f, b.code = p * 128 + f * 4 ∧ p < 64 ∧ f < 3 := by
  cases b with
  | vv r => exact ⟨r.val, 0, by simp [VSrc.code], r.isLt, by omega⟩
  | vs r => exact ⟨r.val, 1, by simp [VSrc.code], by omega, by omega⟩
  | vi i => exact ⟨i.toNat, 2, by simp [VSrc.code], i.isLt, by omega⟩

section
variable (m d a : Nat) (b : VSrc) (k : KReg) (dt x : Bool) (hd : d < 64) (ha : a < 64)
include hd ha

theorem major_encSrc : major (encV m d a b.code k dt x) = m := by
  obtain ⟨p, f, h, hp, hf⟩ := b.code_fields
  rw [h]; exact major_encV m d a p f k dt x hd ha hp (by omega)
theorem vd_encSrc : vd (encV m d a b.code k dt x) = d := by
  obtain ⟨p, f, h, hp, hf⟩ := b.code_fields
  rw [h]; exact vd_encV m d a p f k dt x hd ha hp (by omega)
theorem vs1_encSrc : vs1 (encV m d a b.code k dt x) = a := by
  obtain ⟨p, f, h, hp, hf⟩ := b.code_fields
  rw [h]; exact vs1_encV m d a p f k dt x hd ha hp (by omega)
theorem vk_encSrc : vk (encV m d a b.code k dt x) = k.val := by
  obtain ⟨p, f, h, hp, hf⟩ := b.code_fields
  rw [h]; exact vk_encV m d a p f k dt x hd ha hp (by omega)
theorem bit1_encSrc : bit1 (encV m d a b.code k dt x) = dt.toNat := by
  obtain ⟨p, f, h, hp, hf⟩ := b.code_fields
  rw [h]; exact bit1_encV m d a p f k dt x hd ha hp (by omega)
theorem bit0_encSrc : bit0 (encV m d a b.code k dt x) = x.toNat := by
  obtain ⟨p, f, h, hp, hf⟩ := b.code_fields
  rw [h]; exact bit0_encV m d a p f k dt x hd ha hp (by omega)
end

theorem vsrc_encV (m d a : Nat) (b : VSrc) (k : KReg) (dt x : Bool) (hd : d < 64) (ha : a < 64) :
    vsrc (encV m d a b.code k dt x) = some b := by
  unfold vsrc
  cases b with
  | vv r =>
    have h : (VSrc.vv r).code = r.val * 128 + 0 * 4 := rfl
    rw [h, vform_encV m d a r.val 0 k dt x hd ha r.isLt (by omega), vo_encV m d a r.val 0 k dt x hd ha r.isLt (by omega)]
    simp
  | vs r =>
    have h : (VSrc.vs r).code = r.val * 128 + 1 * 4 := rfl
    have hr : r.val < 64 := by omega
    rw [h, vform_encV m d a r.val 1 k dt x hd ha hr (by omega), vo_encV m d a r.val 1 k dt x hd ha hr (by omega)]
    simp [r.isLt]
  | vi i =>
    have h : (VSrc.vi i).code = i.toNat * 128 + 2 * 4 := rfl
    rw [h, vform_encV m d a i.toNat 2 k dt x hd ha i.isLt (by omega), vo_encV m d a i.toNat 2 k dt x hd ha i.isLt (by omega)]
    simp

/-! ## Format M -/

section
variable (m d : Nat) (a : GReg) (o mode : Nat) (k : KReg) (dt w : Bool)

theorem major_encM (_ : d < 64) (_ : o < 64) (_ : mode < 8) : major (encM m d a o mode k dt w) = m := by
  have := a.isLt; have := k.isLt; have := boolToNat_lt dt; have := boolToNat_lt w; unfold major encM; omega
theorem vd_encM (_ : d < 64) (_ : o < 64) (_ : mode < 8) : vd (encM m d a o mode k dt w) = d := by
  have := a.isLt; have := k.isLt; have := boolToNat_lt dt; have := boolToNat_lt w; unfold vd encM; omega
theorem ma_encM (_ : d < 64) (_ : o < 64) (_ : mode < 8) : ma (encM m d a o mode k dt w) = a.val := by
  have := a.isLt; have := k.isLt; have := boolToNat_lt dt; have := boolToNat_lt w; unfold ma encM; omega
theorem mo_encM (_ : d < 64) (_ : o < 64) (_ : mode < 8) : mo (encM m d a o mode k dt w) = o := by
  have := a.isLt; have := k.isLt; have := boolToNat_lt dt; have := boolToNat_lt w; unfold mo encM; omega
theorem mmode_encM (_ : d < 64) (_ : o < 64) (_ : mode < 8) : mmode (encM m d a o mode k dt w) = mode := by
  have := a.isLt; have := k.isLt; have := boolToNat_lt dt; have := boolToNat_lt w; unfold mmode encM; omega
theorem mk_encM (_ : d < 64) (_ : o < 64) (_ : mode < 8) : mk (encM m d a o mode k dt w) = k.val := by
  have := a.isLt; have := k.isLt; have := boolToNat_lt dt; have := boolToNat_lt w; unfold mk encM; omega
theorem bit1_encM (_ : d < 64) (_ : o < 64) (_ : mode < 8) : bit1 (encM m d a o mode k dt w) = dt.toNat := by
  have := a.isLt; have := k.isLt; have := boolToNat_lt dt; have := boolToNat_lt w; unfold bit1 encM; omega
theorem bit0_encM (_ : d < 64) (_ : o < 64) (_ : mode < 8) : bit0 (encM m d a o mode k dt w) = w.toNat := by
  have := a.isLt; have := k.isLt; have := boolToNat_lt dt; have := boolToNat_lt w; unfold bit0 encM; omega
theorem low_encM (_ : d < 64) (_ : o < 64) (_ : mode < 8) : (encM m d a o mode k dt w) % 256 =
    mode * 32 + k.val * 4 + dt.toNat * 2 + w.toNat := by
  have := k.isLt; have := boolToNat_lt dt; have := boolToNat_lt w; unfold encM; omega
end

/-! ## Format T -/

section
variable (m d a : Nat) (u : TReg) (ea eb : Nat) (acc x : Bool)

theorem major_encT (_ : d < 64) (_ : a < 64) (_ : ea < 16) (_ : eb < 16) : major (encT m d a u ea eb acc x) = m := by
  have := u.isLt; have := boolToNat_lt acc; have := boolToNat_lt x; unfold major encT; omega
theorem vd_encT (_ : d < 64) (_ : a < 64) (_ : ea < 16) (_ : eb < 16) : vd (encT m d a u ea eb acc x) = d := by
  have := u.isLt; have := boolToNat_lt acc; have := boolToNat_lt x; unfold vd encT; omega
theorem vs1_encT (_ : d < 64) (_ : a < 64) (_ : ea < 16) (_ : eb < 16) : vs1 (encT m d a u ea eb acc x) = a := by
  have := u.isLt; have := boolToNat_lt acc; have := boolToNat_lt x; unfold vs1 encT; omega
theorem tt_encT (_ : d < 64) (_ : a < 64) (_ : ea < 16) (_ : eb < 16) : tt (encT m d a u ea eb acc x) = u.val := by
  have := u.isLt; have := boolToNat_lt acc; have := boolToNat_lt x; unfold tt encT; omega
theorem tea_encT (_ : d < 64) (_ : a < 64) (_ : ea < 16) (_ : eb < 16) : tea (encT m d a u ea eb acc x) = ea := by
  have := u.isLt; have := boolToNat_lt acc; have := boolToNat_lt x; unfold tea encT; omega
theorem teb_encT (_ : d < 64) (_ : a < 64) (_ : ea < 16) (_ : eb < 16) : teb (encT m d a u ea eb acc x) = eb := by
  have := u.isLt; have := boolToNat_lt acc; have := boolToNat_lt x; unfold teb encT; omega
theorem bit1_encT (_ : d < 64) (_ : a < 64) (_ : ea < 16) (_ : eb < 16) : bit1 (encT m d a u ea eb acc x) = acc.toNat := by
  have := u.isLt; have := boolToNat_lt acc; have := boolToNat_lt x; unfold bit1 encT; omega
theorem bit0_encT (_ : d < 64) (_ : a < 64) (_ : ea < 16) (_ : eb < 16) : bit0 (encT m d a u ea eb acc x) = x.toNat := by
  have := u.isLt; have := boolToNat_lt acc; have := boolToNat_lt x; unfold bit0 encT; omega
theorem low_encT (_ : d < 64) (_ : a < 64) (_ : ea < 16) (_ : eb < 16) : (encT m d a u ea eb acc x) % 1024 =
    ea * 64 + eb * 4 + acc.toNat * 2 + x.toNat := by
  have := u.isLt; have := boolToNat_lt acc; have := boolToNat_lt x; unfold encT; omega
end

/-! ## Row micro-ops -/

section
variable (op x y b aux : Nat)

theorem op_encR (hx : x < 1024) (hy : y < 1024) (hb : b < 8) (ha : aux < 16) : encR op x y b aux / 134217728 = op := by
  unfold encR; omega
theorem mX_encR (hx : x < 1024) (hy : y < 1024) (hb : b < 8) (ha : aux < 16) : mX (encR op x y b aux) = x := by
  unfold mX encR; omega
theorem mY_encR (hy : y < 1024) (hb : b < 8) (ha : aux < 16) : mY (encR op x y b aux) = y := by unfold mY encR; omega
theorem mB_encR (hb : b < 8) (ha : aux < 16) : mB (encR op x y b aux) = b := by unfold mB encR; omega
theorem mAux_encR (ha : aux < 16) : mAux (encR op x y b aux) = aux := by unfold mAux encR; omega
end

end Sys2Proof
end

