-- ==== Sys2Proof/Laws/PerInstr.lean ====
section
/-! SUPPORT. The family Words: the word of an instruction has 32 bits (R145), one lemma for each constructor of Instr. -/

namespace Sys2Proof

theorem encA_lt (m : Nat) (d a b : GReg) (fn : Nat) (hm : m < 128) (h : fn < 1024) : encA m d a b fn < 4294967296 := by
  have := d.isLt; have := a.isLt; have := b.isLt; unfold encA; omega
theorem encI_lt (m : Nat) (d a : GReg) (i : Nat) (hm : m < 128) (h : i < 32768) : encI m d a i < 4294967296 := by
  have := d.isLt; have := a.isLt; unfold encI; omega
theorem encL_lt (m : Nat) (d : GReg) (i : Nat) (hm : m < 128) (h : i < 1048576) : encL m d i < 4294967296 := by
  have := d.isLt; unfold encL; omega
theorem encY_lt (m : Nat) (d a : GReg) (b : Nat) (s : Scope) (acq rel : Bool) (fn : Nat) (hm : m < 128) (hb : b < 32)
    (h : fn < 32) : encY m d a b s acq rel fn < 4294967296 := by
  have := d.isLt; have := a.isLt; have := s.code_lt; have := boolToNat_lt acq; have := boolToNat_lt rel
  unfold encY; omega
theorem encV_lt (m d a o : Nat) (k : KReg) (dt x : Bool) (hm : m < 128) (hd : d < 64) (ha : a < 64) (ho : o < 8192)
    (h : o % 128 < 13) : encV m d a o k dt x < 4294967296 := by
  have := k.isLt; have := boolToNat_lt dt; have := boolToNat_lt x; unfold encV; omega
theorem encM_lt (m d : Nat) (a : GReg) (o mode : Nat) (k : KReg) (dt w : Bool) (hm : m < 128) (hd : d < 64) (ho : o < 64)
    (h : mode < 8) : encM m d a o mode k dt w < 4294967296 := by
  have := a.isLt; have := k.isLt; have := boolToNat_lt dt; have := boolToNat_lt w; unfold encM; omega
theorem encT_lt (m d a : Nat) (u : TReg) (ea eb : Nat) (acc x : Bool) (hm : m < 128) (hd : d < 64) (ha : a < 64) (hea : ea < 16)
    (heb : eb < 16) : encT m d a u ea eb acc x < 4294967296 := by
  have := u.isLt; have := boolToNat_lt acc; have := boolToNat_lt x; unfold encT; omega
theorem encR_lt (op x y b aux : Nat) (hp : op < 32) (hx : x < 1024) (hy : y < 1024) (hb : b < 8) (ha : aux < 16) :
    encR op x y b aux < 4294967296 := by unfold encR; omega
theorem VSrc.code_lt (b : VSrc) : b.code < 8192 ∧ b.code % 128 < 13 := by
  obtain ⟨p, f, h, hp, hf⟩ := b.code_fields; omega
theorem VSrc.moveCode_lt (b : VSrc) : b.moveCode < 8192 ∧ b.moveCode % 128 < 13 := by
  cases b with
  | vv r => exact ⟨Nat.zero_lt_succ _, Nat.zero_lt_succ _⟩
  | vs r => have := r.isLt; simp only [VSrc.moveCode]; omega
  | vi i => have := i.isLt; simp only [VSrc.moveCode]; omega
theorem VSrc.moveS1_lt (b : VSrc) : b.moveS1 < 64 := by
  cases b with
  | vv r => exact r.isLt
  | vs _ => exact (by decide : 0 < 64)
  | vi _ => exact (by decide : 0 < 64)

theorem some_lt {n : Nat} (h : n < 4294967296) (w : Nat) (e : some n = some w) : w < 4294967296 := by cases e; exact h
theorem none_lt (w : Nat) (e : (none : Option Nat) = some w) : w < 4294967296 := by cases e

end Sys2Proof

namespace Sys2Proof.Laws.Words

/-- The instruction's word, if it has one, is a 32-bit number. -/
def Statement (i : Instr) : Prop := ∀ w, encodeNat i = some w → w < 4294967296

theorem moduleReset : Statement .moduleReset := none_lt
theorem firmwareStart : Statement .firmwareStart := none_lt
theorem trapEntry (n : StrandId) : Statement (.trapEntry n) := none_lt
theorem serviceForward (n : StrandId) : Statement (.serviceForward n) := none_lt
theorem serviceResume (n : StrandId) : Statement (.serviceResume n) := none_lt
theorem serviceReflect (n : StrandId) : Statement (.serviceReflect n) := none_lt
theorem servicePark (n : StrandId) : Statement (.servicePark n) := none_lt
theorem hardPreemption (n : StrandId) : Statement (.hardPreemption n) := none_lt
theorem psetWrite (d : Die) (w : Word) : Statement (.psetWrite d w) := none_lt
theorem lpartWrite (c : CoreId) (w : Word) : Statement (.lpartWrite c w) := none_lt
theorem dmbaseWrite (d : Die) (w : Word) : Statement (.dmbaseWrite d w) := none_lt
theorem duppoolWrite (d : Die) (w : Word) : Statement (.duppoolWrite d w) := none_lt
theorem controlRegisterWrite (d : Die) (off : BitVec 20) (w : Word) : Statement (.controlRegisterWrite d off w) := none_lt
theorem farmStart (d : Die) (f : FarmCtx) (n : StrandId) : Statement (.farmStart d f n) := none_lt
theorem farmCompletionArrival (d : Die) (f : FarmCtx) : Statement (.farmCompletionArrival d f) := none_lt
theorem farmArbitration (d : Die) : Statement (.farmArbitration d) := none_lt
theorem walkWaitEnd (n : StrandId) : Statement (.walkWaitEnd n) := none_lt
theorem pinWaitEnd (n : StrandId) : Statement (.pinWaitEnd n) := none_lt
theorem postedSlotFree (n : StrandId) : Statement (.postedSlotFree n) := none_lt
theorem engineQueueSlotFree (n : StrandId) : Statement (.engineQueueSlotFree n) := none_lt
theorem farmContextWaitEnd (n : StrandId) : Statement (.farmContextWaitEnd n) := none_lt
theorem bwaitRelease (n : StrandId) : Statement (.bwaitRelease n) := none_lt
theorem dozeWake (n : StrandId) : Statement (.dozeWake n) := none_lt
theorem dozeTimeout (n : StrandId) : Statement (.dozeTimeout n) := none_lt
theorem streamWaitEnd (n : StrandId) : Statement (.streamWaitEnd n) := none_lt
theorem launchAcceptance (d : Die) : Statement (.launchAcceptance d) := none_lt
theorem runStart (d : Die) (l : Nat) (i : Nat) : Statement (.runStart d l i) := none_lt
theorem stepOverrun (d : Die) (m : Nat) : Statement (.stepOverrun d m) := none_lt
theorem runOverrun (d : Die) (m : Nat) : Statement (.runOverrun d m) := none_lt
theorem launchPerformed (d : Die) (l : Nat) : Statement (.launchPerformed d l) := none_lt
theorem refreshSlot (d : Die) (bank : Fin 64) : Statement (.refreshSlot d bank) := none_lt
theorem lockTimeout (d : Die) (m : Nat) (row : Nat) : Statement (.lockTimeout d m row) := none_lt
theorem horizontalAccess (n : StrandId) : Statement (.horizontalAccess n) := none_lt
theorem engineFragment (e : Engine) (c : Nat) : Statement (.engineFragment e c) := none_lt
theorem engineCommandDone (e : Engine) (c : Nat) : Statement (.engineCommandDone e c) := none_lt
theorem streamInboundFill (c : CoreId) (st : Fin 8) (bytes : Nat) : Statement (.streamInboundFill c st bytes) := none_lt
theorem streamOutboundDrain (c : CoreId) (st : Fin 8) (bytes : Nat) : Statement (.streamOutboundDrain c st bytes) := none_lt
theorem collectiveChunk (d : Die) (c : Nat) : Statement (.collectiveChunk d c) := none_lt
theorem wireBlockReceive (d : Die) (c : CollName) (member : WirePart) (g : PortGroup) (chan : Nat) (bytes : List Byte) : Statement (.wireBlockReceive d c member g chan bytes) := none_lt
theorem poisonNotice (d : Die) (c : CollName) (member chunk : Nat) : Statement (.poisonNotice d c member chunk) := none_lt
theorem chunkDeadline (d : Die) (c : Nat) : Statement (.chunkDeadline d c) := none_lt
theorem collectiveComplete (d : Die) (c : Nat) : Statement (.collectiveComplete d c) := none_lt
theorem install (d : Die) : Statement (.install d) := none_lt
theorem reloc (d : Die) : Statement (.reloc d) := none_lt
theorem evict (d : Die) : Statement (.evict d) := none_lt
theorem markp (d : Die) : Statement (.markp d) := none_lt
theorem count (d : Die) : Statement (.count d) := none_lt
theorem flush (d : Die) : Statement (.flush d) := none_lt
theorem relocCopyDone (d : Die) (r : Nat) : Statement (.relocCopyDone d r) := none_lt
theorem relocSwap (d : Die) (r : Nat) : Statement (.relocSwap d r) := none_lt
theorem relocDestWriteFail (d : Die) (r : Nat) : Statement (.relocDestWriteFail d r) := none_lt
theorem queueTailSnoop (d : Die) (q : QueueId) : Statement (.queueTailSnoop d q) := none_lt
theorem packetFarm (d : Die) (q : QueueId) : Statement (.packetFarm d q) := none_lt
theorem packetArrive (d : Die) (q : QueueId) : Statement (.packetArrive d q) := none_lt
theorem waitbarRelease (d : Die) (q : QueueId) : Statement (.waitbarRelease d q) := none_lt
theorem queueEnable (d : Die) (q : QueueId) : Statement (.queueEnable d q) := none_lt
theorem queueDisable (d : Die) (q : QueueId) : Statement (.queueDisable d q) := none_lt
theorem queueClearError (d : Die) (q : QueueId) : Statement (.queueClearError d q) := none_lt
theorem hostSnoop (pa : Snoop) : Statement (.hostSnoop pa) := none_lt
theorem hostHdmAccess (pa : BitVec 48) (w : Option (List Byte)) : Statement (.hostHdmAccess pa w) := none_lt
theorem hostBar0Access (off : Nat) (len : Nat) (w : Option Word) : Statement (.hostBar0Access off len w) := none_lt
theorem hostLinkDown : Statement .hostLinkDown := none_lt
theorem hostLinkUp : Statement .hostLinkUp := none_lt
theorem clusterPowerGate (c : CoreId) : Statement (.clusterPowerGate c) := none_lt
theorem doff (g : PortGroup) : Statement (.doff g) := none_lt
theorem don (g : PortGroup) (w : Word) : Statement (.don g w) := none_lt
theorem linksTrained (g : PortGroup) (up : BitVec 4) : Statement (.linksTrained g up) := none_lt
theorem trainTimeout (g : PortGroup) : Statement (.trainTimeout g) := none_lt
theorem mapComplete (g : PortGroup) : Statement (.mapComplete g) := none_lt
theorem linkLost (g : GroupLink) : Statement (.linkLost g) := none_lt
theorem ualinkPortLost (g : PortGroup) (p : Fin 4) : Statement (.ualinkPortLost g p) := none_lt
theorem connectionAbandoned (g : PortGroup) (chan : Nat) : Statement (.connectionAbandoned g chan) := none_lt
theorem drainComplete (g : PortGroup) : Statement (.drainComplete g) := none_lt
theorem drainTimeout (g : PortGroup) : Statement (.drainTimeout g) := none_lt
theorem evacComplete (g : PortGroup) : Statement (.evacComplete g) := none_lt
theorem unmapComplete (g : PortGroup) : Statement (.unmapComplete g) := none_lt
theorem launchMessage (g : Sender) (bytes : List Byte) : Statement (.launchMessage g bytes) := none_lt
theorem lpddrChannelFailure (c : Fin 64) : Statement (.lpddrChannelFailure c) := none_lt
theorem lpddrPatrolScrub (pa : BitVec 48) : Statement (.lpddrPatrolScrub pa) := none_lt
theorem rosterInstall (d : Die) (w : Word) : Statement (.rosterInstall d w) := none_lt
theorem rosterRetire (d : Die) (w : Word) : Statement (.rosterRetire d w) := none_lt
theorem mctpReadRegister (d : Die) (off : BitVec 20) : Statement (.mctpReadRegister d off) := none_lt
theorem mctpWriteCapw (w : MctpWrite) : Statement (.mctpWriteCapw w) := none_lt
theorem attestationQuote (nonce : List Byte) : Statement (.attestationQuote nonce) := none_lt
theorem add (d a b : GReg) : Statement (.add d a b) :=
  some_lt (encA_lt _ _ _ _ _ (by omega) (by omega))
theorem sub (d a b : GReg) : Statement (.sub d a b) :=
  some_lt (encA_lt _ _ _ _ _ (by omega) (by omega))
theorem and (d a b : GReg) : Statement (.and d a b) :=
  some_lt (encA_lt _ _ _ _ _ (by omega) (by omega))
theorem or (d a b : GReg) : Statement (.or d a b) :=
  some_lt (encA_lt _ _ _ _ _ (by omega) (by omega))
theorem xor (d a b : GReg) : Statement (.xor d a b) :=
  some_lt (encA_lt _ _ _ _ _ (by omega) (by omega))
theorem andn (d a b : GReg) : Statement (.andn d a b) :=
  some_lt (encA_lt _ _ _ _ _ (by omega) (by omega))
theorem sll (d a b : GReg) : Statement (.sll d a b) :=
  some_lt (encA_lt _ _ _ _ _ (by omega) (by omega))
theorem srl (d a b : GReg) : Statement (.srl d a b) :=
  some_lt (encA_lt _ _ _ _ _ (by omega) (by omega))
theorem sra (d a b : GReg) : Statement (.sra d a b) :=
  some_lt (encA_lt _ _ _ _ _ (by omega) (by omega))
theorem rol (d a b : GReg) : Statement (.rol d a b) :=
  some_lt (encA_lt _ _ _ _ _ (by omega) (by omega))
theorem slt (d a b : GReg) : Statement (.slt d a b) :=
  some_lt (encA_lt _ _ _ _ _ (by omega) (by omega))
theorem sltu (d a b : GReg) : Statement (.sltu d a b) :=
  some_lt (encA_lt _ _ _ _ _ (by omega) (by omega))
theorem min (d a b : GReg) : Statement (.min d a b) :=
  some_lt (encA_lt _ _ _ _ _ (by omega) (by omega))
theorem max (d a b : GReg) : Statement (.max d a b) :=
  some_lt (encA_lt _ _ _ _ _ (by omega) (by omega))
theorem minu (d a b : GReg) : Statement (.minu d a b) :=
  some_lt (encA_lt _ _ _ _ _ (by omega) (by omega))
theorem maxu (d a b : GReg) : Statement (.maxu d a b) :=
  some_lt (encA_lt _ _ _ _ _ (by omega) (by omega))
theorem seq (d a b : GReg) : Statement (.seq d a b) :=
  some_lt (encA_lt _ _ _ _ _ (by omega) (by omega))
theorem sne (d a b : GReg) : Statement (.sne d a b) :=
  some_lt (encA_lt _ _ _ _ _ (by omega) (by omega))
theorem mul (d a b : GReg) : Statement (.mul d a b) :=
  some_lt (encA_lt _ _ _ _ _ (by omega) (by omega))
theorem mulhs (d a b : GReg) : Statement (.mulhs d a b) :=
  some_lt (encA_lt _ _ _ _ _ (by omega) (by omega))
theorem mulhu (d a b : GReg) : Statement (.mulhu d a b) :=
  some_lt (encA_lt _ _ _ _ _ (by omega) (by omega))
theorem mulhm (d a b : GReg) : Statement (.mulhm d a b) :=
  some_lt (encA_lt _ _ _ _ _ (by omega) (by omega))
theorem quot (d a b : GReg) : Statement (.quot d a b) :=
  some_lt (encA_lt _ _ _ _ _ (by omega) (by omega))
theorem quotu (d a b : GReg) : Statement (.quotu d a b) :=
  some_lt (encA_lt _ _ _ _ _ (by omega) (by omega))
theorem mod (d a b : GReg) : Statement (.mod d a b) :=
  some_lt (encA_lt _ _ _ _ _ (by omega) (by omega))
theorem modu (d a b : GReg) : Statement (.modu d a b) :=
  some_lt (encA_lt _ _ _ _ _ (by omega) (by omega))
theorem clz (d a : GReg) : Statement (.clz d a) :=
  some_lt (encA_lt _ _ _ _ _ (by omega) (by omega))
theorem ctz (d a : GReg) : Statement (.ctz d a) :=
  some_lt (encA_lt _ _ _ _ _ (by omega) (by omega))
theorem popc (d a : GReg) : Statement (.popc d a) :=
  some_lt (encA_lt _ _ _ _ _ (by omega) (by omega))
theorem rev8 (d a : GReg) : Statement (.rev8 d a) :=
  some_lt (encA_lt _ _ _ _ _ (by omega) (by omega))
theorem fshr (d a b : GReg) (sh : BitVec 6) : Statement (.fshr d a b sh) :=
  some_lt (encA_lt _ _ _ _ _ (by omega) (by omega))
theorem addi (d a : GReg) (imm : BitVec 15) : Statement (.addi d a imm) :=
  some_lt (encI_lt _ _ _ _ (by omega) (by omega))
theorem andi (d a : GReg) (imm : BitVec 15) : Statement (.andi d a imm) :=
  some_lt (encI_lt _ _ _ _ (by omega) (by omega))
theorem ori (d a : GReg) (imm : BitVec 15) : Statement (.ori d a imm) :=
  some_lt (encI_lt _ _ _ _ (by omega) (by omega))
theorem xori (d a : GReg) (imm : BitVec 15) : Statement (.xori d a imm) :=
  some_lt (encI_lt _ _ _ _ (by omega) (by omega))
theorem slti (d a : GReg) (imm : BitVec 15) : Statement (.slti d a imm) :=
  some_lt (encI_lt _ _ _ _ (by omega) (by omega))
theorem sltiu (d a : GReg) (imm : BitVec 15) : Statement (.sltiu d a imm) :=
  some_lt (encI_lt _ _ _ _ (by omega) (by omega))
theorem slli (d a : GReg) (sh : BitVec 6) : Statement (.slli d a sh) :=
  some_lt (encI_lt _ _ _ _ (by omega) (by omega))
theorem srli (d a : GReg) (sh : BitVec 6) : Statement (.srli d a sh) :=
  some_lt (encI_lt _ _ _ _ (by omega) (by omega))
theorem srai (d a : GReg) (sh : BitVec 6) : Statement (.srai d a sh) :=
  some_lt (encI_lt _ _ _ _ (by omega) (by omega))
theorem roli (d a : GReg) (sh : BitVec 6) : Statement (.roli d a sh) :=
  some_lt (encI_lt _ _ _ _ (by omega) (by omega))
theorem bfx (d a : GReg) (width pos : BitVec 6) : Statement (.bfx d a width pos) :=
  some_lt (encI_lt _ _ _ _ (by omega) (by omega))
theorem bfxu (d a : GReg) (width pos : BitVec 6) : Statement (.bfxu d a width pos) :=
  some_lt (encI_lt _ _ _ _ (by omega) (by omega))
theorem lui (d : GReg) (imm : BitVec 20) : Statement (.lui d imm) :=
  some_lt (encL_lt _ _ _ (by omega) (by omega))
theorem lmid (d : GReg) (imm : BitVec 12) : Statement (.lmid d imm) :=
  some_lt (encL_lt _ _ _ (by omega) (by omega))
theorem lhi (d : GReg) (imm : BitVec 20) : Statement (.lhi d imm) :=
  some_lt (encL_lt _ _ _ (by omega) (by omega))
theorem ldb (d a : GReg) (imm : BitVec 15) : Statement (.ldb d a imm) :=
  some_lt (encI_lt _ _ _ _ (by omega) (by omega))
theorem ldh (d a : GReg) (imm : BitVec 15) : Statement (.ldh d a imm) :=
  some_lt (encI_lt _ _ _ _ (by omega) (by omega))
theorem ldw (d a : GReg) (imm : BitVec 15) : Statement (.ldw d a imm) :=
  some_lt (encI_lt _ _ _ _ (by omega) (by omega))
theorem ldd (d a : GReg) (imm : BitVec 15) : Statement (.ldd d a imm) :=
  some_lt (encI_lt _ _ _ _ (by omega) (by omega))
theorem ldbu (d a : GReg) (imm : BitVec 15) : Statement (.ldbu d a imm) :=
  some_lt (encI_lt _ _ _ _ (by omega) (by omega))
theorem ldhu (d a : GReg) (imm : BitVec 15) : Statement (.ldhu d a imm) :=
  some_lt (encI_lt _ _ _ _ (by omega) (by omega))
theorem ldwu (d a : GReg) (imm : BitVec 15) : Statement (.ldwu d a imm) :=
  some_lt (encI_lt _ _ _ _ (by omega) (by omega))
theorem stb (a b : GReg) (imm : BitVec 15) : Statement (.stb a b imm) :=
  some_lt (encI_lt _ _ _ _ (by omega) (by omega))
theorem sth (a b : GReg) (imm : BitVec 15) : Statement (.sth a b imm) :=
  some_lt (encI_lt _ _ _ _ (by omega) (by omega))
theorem stw (a b : GReg) (imm : BitVec 15) : Statement (.stw a b imm) :=
  some_lt (encI_lt _ _ _ _ (by omega) (by omega))
theorem std (a b : GReg) (imm : BitVec 15) : Statement (.std a b imm) :=
  some_lt (encI_lt _ _ _ _ (by omega) (by omega))
theorem beq (a b : GReg) (imm : BitVec 15) : Statement (.beq a b imm) :=
  some_lt (encI_lt _ _ _ _ (by omega) (by omega))
theorem bne (a b : GReg) (imm : BitVec 15) : Statement (.bne a b imm) :=
  some_lt (encI_lt _ _ _ _ (by omega) (by omega))
theorem blt (a b : GReg) (imm : BitVec 15) : Statement (.blt a b imm) :=
  some_lt (encI_lt _ _ _ _ (by omega) (by omega))
theorem bge (a b : GReg) (imm : BitVec 15) : Statement (.bge a b imm) :=
  some_lt (encI_lt _ _ _ _ (by omega) (by omega))
theorem jal (imm : BitVec 25) : Statement (.jal imm) :=
  some_lt (n := 0x1F * 33554432 + imm.toNat) (by omega)
theorem jalr (d a : GReg) (imm : BitVec 15) : Statement (.jalr d a imm) :=
  some_lt (encI_lt _ _ _ _ (by omega) (by omega))
theorem crr (d : GReg) (r : BitVec 12) : Statement (.crr d r) :=
  some_lt (encI_lt _ _ _ _ (by omega) (by omega))
theorem crw (d a : GReg) (r : BitVec 12) : Statement (.crw d a r) :=
  some_lt (encI_lt _ _ _ _ (by omega) (by omega))
theorem crs (d a : GReg) (r : BitVec 12) : Statement (.crs d a r) :=
  some_lt (encI_lt _ _ _ _ (by omega) (by omega))
theorem crc (d a : GReg) (r : BitVec 12) : Statement (.crc d a r) :=
  some_lt (encI_lt _ _ _ _ (by omega) (by omega))
theorem svc (a : GReg) : Statement (.svc a) :=
  some_lt (encI_lt _ _ _ _ (by omega) (by omega))
theorem sret (a : GReg) : Statement (.sret a) :=
  some_lt (encI_lt _ _ _ _ (by omega) (by omega))
theorem doze (d a : GReg) : Statement (.doze d a) :=
  some_lt (encI_lt _ _ _ _ (by omega) (by omega))
theorem wake (a : GReg) : Statement (.wake a) :=
  some_lt (encI_lt _ _ _ _ (by omega) (by omega))
theorem brk : Statement .brk :=
  some_lt (encI_lt _ _ _ _ (by omega) (by omega))
theorem atswapW (d a b : GReg) (s : Scope) (acq : Bool) (rel : Bool) : Statement (.atswapW d a b s acq rel) :=
  some_lt (encY_lt _ _ _ _ _ _ _ _ (by omega) (by omega) (by omega))
theorem ataddW (d a b : GReg) (s : Scope) (acq : Bool) (rel : Bool) : Statement (.ataddW d a b s acq rel) :=
  some_lt (encY_lt _ _ _ _ _ _ _ _ (by omega) (by omega) (by omega))
theorem atandW (d a b : GReg) (s : Scope) (acq : Bool) (rel : Bool) : Statement (.atandW d a b s acq rel) :=
  some_lt (encY_lt _ _ _ _ _ _ _ _ (by omega) (by omega) (by omega))
theorem atorW (d a b : GReg) (s : Scope) (acq : Bool) (rel : Bool) : Statement (.atorW d a b s acq rel) :=
  some_lt (encY_lt _ _ _ _ _ _ _ _ (by omega) (by omega) (by omega))
theorem atxorW (d a b : GReg) (s : Scope) (acq : Bool) (rel : Bool) : Statement (.atxorW d a b s acq rel) :=
  some_lt (encY_lt _ _ _ _ _ _ _ _ (by omega) (by omega) (by omega))
theorem atminW (d a b : GReg) (s : Scope) (acq : Bool) (rel : Bool) : Statement (.atminW d a b s acq rel) :=
  some_lt (encY_lt _ _ _ _ _ _ _ _ (by omega) (by omega) (by omega))
theorem atmaxW (d a b : GReg) (s : Scope) (acq : Bool) (rel : Bool) : Statement (.atmaxW d a b s acq rel) :=
  some_lt (encY_lt _ _ _ _ _ _ _ _ (by omega) (by omega) (by omega))
theorem atminuW (d a b : GReg) (s : Scope) (acq : Bool) (rel : Bool) : Statement (.atminuW d a b s acq rel) :=
  some_lt (encY_lt _ _ _ _ _ _ _ _ (by omega) (by omega) (by omega))
theorem atmaxuW (d a b : GReg) (s : Scope) (acq : Bool) (rel : Bool) : Statement (.atmaxuW d a b s acq rel) :=
  some_lt (encY_lt _ _ _ _ _ _ _ _ (by omega) (by omega) (by omega))
theorem casW (d a b : GReg) (s : Scope) (acq : Bool) (rel : Bool) : Statement (.casW d a b s acq rel) :=
  some_lt (encY_lt _ _ _ _ _ _ _ _ (by omega) (by omega) (by omega))
theorem atswapD (d a b : GReg) (s : Scope) (acq : Bool) (rel : Bool) : Statement (.atswapD d a b s acq rel) :=
  some_lt (encY_lt _ _ _ _ _ _ _ _ (by omega) (by omega) (by omega))
theorem ataddD (d a b : GReg) (s : Scope) (acq : Bool) (rel : Bool) : Statement (.ataddD d a b s acq rel) :=
  some_lt (encY_lt _ _ _ _ _ _ _ _ (by omega) (by omega) (by omega))
theorem atandD (d a b : GReg) (s : Scope) (acq : Bool) (rel : Bool) : Statement (.atandD d a b s acq rel) :=
  some_lt (encY_lt _ _ _ _ _ _ _ _ (by omega) (by omega) (by omega))
theorem atorD (d a b : GReg) (s : Scope) (acq : Bool) (rel : Bool) : Statement (.atorD d a b s acq rel) :=
  some_lt (encY_lt _ _ _ _ _ _ _ _ (by omega) (by omega) (by omega))
theorem atxorD (d a b : GReg) (s : Scope) (acq : Bool) (rel : Bool) : Statement (.atxorD d a b s acq rel) :=
  some_lt (encY_lt _ _ _ _ _ _ _ _ (by omega) (by omega) (by omega))
theorem atminD (d a b : GReg) (s : Scope) (acq : Bool) (rel : Bool) : Statement (.atminD d a b s acq rel) :=
  some_lt (encY_lt _ _ _ _ _ _ _ _ (by omega) (by omega) (by omega))
theorem atmaxD (d a b : GReg) (s : Scope) (acq : Bool) (rel : Bool) : Statement (.atmaxD d a b s acq rel) :=
  some_lt (encY_lt _ _ _ _ _ _ _ _ (by omega) (by omega) (by omega))
theorem atminuD (d a b : GReg) (s : Scope) (acq : Bool) (rel : Bool) : Statement (.atminuD d a b s acq rel) :=
  some_lt (encY_lt _ _ _ _ _ _ _ _ (by omega) (by omega) (by omega))
theorem atmaxuD (d a b : GReg) (s : Scope) (acq : Bool) (rel : Bool) : Statement (.atmaxuD d a b s acq rel) :=
  some_lt (encY_lt _ _ _ _ _ _ _ _ (by omega) (by omega) (by omega))
theorem casD (d a b : GReg) (s : Scope) (acq : Bool) (rel : Bool) : Statement (.casD d a b s acq rel) :=
  some_lt (encY_lt _ _ _ _ _ _ _ _ (by omega) (by omega) (by omega))
theorem ldaB (d a : GReg) (s : Scope) : Statement (.ldaB d a s) :=
  some_lt (encY_lt _ _ _ _ _ _ _ _ (by omega) (by omega) (by omega))
theorem ldaH (d a : GReg) (s : Scope) : Statement (.ldaH d a s) :=
  some_lt (encY_lt _ _ _ _ _ _ _ _ (by omega) (by omega) (by omega))
theorem ldaW (d a : GReg) (s : Scope) : Statement (.ldaW d a s) :=
  some_lt (encY_lt _ _ _ _ _ _ _ _ (by omega) (by omega) (by omega))
theorem ldaD (d a : GReg) (s : Scope) : Statement (.ldaD d a s) :=
  some_lt (encY_lt _ _ _ _ _ _ _ _ (by omega) (by omega) (by omega))
theorem stlB (a b : GReg) (s : Scope) : Statement (.stlB a b s) :=
  some_lt (encY_lt _ _ _ _ _ _ _ _ (by omega) (by omega) (by omega))
theorem stlH (a b : GReg) (s : Scope) : Statement (.stlH a b s) :=
  some_lt (encY_lt _ _ _ _ _ _ _ _ (by omega) (by omega) (by omega))
theorem stlW (a b : GReg) (s : Scope) : Statement (.stlW a b s) :=
  some_lt (encY_lt _ _ _ _ _ _ _ _ (by omega) (by omega) (by omega))
theorem stlD (a b : GReg) (s : Scope) : Statement (.stlD a b s) :=
  some_lt (encY_lt _ _ _ _ _ _ _ _ (by omega) (by omega) (by omega))
theorem fence (succ : BitVec 4) (s : Scope) (pred : BitVec 4) : Statement (.fence succ s pred) :=
  some_lt (encY_lt _ _ _ _ _ _ _ _ (by omega) (by omega) (by omega))
theorem vsetl (d a : GReg) : Statement (.vsetl d a) :=
  some_lt (encA_lt _ _ _ _ _ (by omega) (by omega))
theorem vsetlf (d a b : GReg) : Statement (.vsetlf d a b) :=
  some_lt (encA_lt _ _ _ _ _ (by omega) (by omega))
theorem vsetlc (d : GReg) (imm : BitVec 15) : Statement (.vsetlc d imm) :=
  some_lt (encI_lt _ _ _ _ (by omega) (by omega))
theorem vld (v : VReg) (a : GReg) (k : KReg) (dt : Bool) (w : Bool) : Statement (.vld v a k dt w) :=
  some_lt (encM_lt _ _ _ _ _ _ _ _ (by omega) (by omega) (by omega) (by omega))
theorem vlds (v : VReg) (a b : GReg) (k : KReg) (dt : Bool) : Statement (.vlds v a b k dt) :=
  some_lt (encM_lt _ _ _ _ _ _ _ _ (by omega) (by omega) (by omega) (by omega))
theorem vldx (v : VReg) (a : GReg) (x : VReg) (k : KReg) (dt : Bool) : Statement (.vldx v a x k dt) :=
  some_lt (encM_lt _ _ _ _ _ _ _ _ (by omega) (by omega) (by omega) (by omega))
theorem vldxo (v : VReg) (a : GReg) (x : VReg) (k : KReg) (dt : Bool) : Statement (.vldxo v a x k dt) :=
  some_lt (encM_lt _ _ _ _ _ _ _ _ (by omega) (by omega) (by omega) (by omega))
theorem vldc (v : VReg) (a b : GReg) (k : KReg) (dt : Bool) : Statement (.vldc v a b k dt) :=
  some_lt (encM_lt _ _ _ _ _ _ _ _ (by omega) (by omega) (by omega) (by omega))
theorem vldo (v : VReg) (a : GReg) (k : KReg) (dt : Bool) (w : Bool) : Statement (.vldo v a k dt w) :=
  some_lt (encM_lt _ _ _ _ _ _ _ _ (by omega) (by omega) (by omega) (by omega))
theorem vst (v : VReg) (a : GReg) (k : KReg) (dt : Bool) (w : Bool) : Statement (.vst v a k dt w) :=
  some_lt (encM_lt _ _ _ _ _ _ _ _ (by omega) (by omega) (by omega) (by omega))
theorem vsts (v : VReg) (a b : GReg) (k : KReg) (dt : Bool) : Statement (.vsts v a b k dt) :=
  some_lt (encM_lt _ _ _ _ _ _ _ _ (by omega) (by omega) (by omega) (by omega))
theorem vstx (v : VReg) (a : GReg) (x : VReg) (k : KReg) (dt : Bool) : Statement (.vstx v a x k dt) :=
  some_lt (encM_lt _ _ _ _ _ _ _ _ (by omega) (by omega) (by omega) (by omega))
theorem vstxo (v : VReg) (a : GReg) (x : VReg) (k : KReg) (dt : Bool) : Statement (.vstxo v a x k dt) :=
  some_lt (encM_lt _ _ _ _ _ _ _ _ (by omega) (by omega) (by omega) (by omega))
theorem vstc (v : VReg) (a b : GReg) (k : KReg) (dt : Bool) : Statement (.vstc v a b k dt) :=
  some_lt (encM_lt _ _ _ _ _ _ _ _ (by omega) (by omega) (by omega) (by omega))
theorem vsto (v : VReg) (a : GReg) (k : KReg) (dt : Bool) (w : Bool) : Statement (.vsto v a k dt w) :=
  some_lt (encM_lt _ _ _ _ _ _ _ _ (by omega) (by omega) (by omega) (by omega))
theorem vlde (e : EReg) (a : GReg) : Statement (.vlde e a) :=
  some_lt (encM_lt _ _ _ _ _ _ _ _ (by omega) (by omega) (by omega) (by omega))
theorem vldes (e : EReg) (a b : GReg) : Statement (.vldes e a b) :=
  some_lt (encM_lt _ _ _ _ _ _ _ _ (by omega) (by omega) (by omega) (by omega))
theorem vste (e : EReg) (a : GReg) : Statement (.vste e a) :=
  some_lt (encM_lt _ _ _ _ _ _ _ _ (by omega) (by omega) (by omega) (by omega))
theorem vstes (e : EReg) (a b : GReg) : Statement (.vstes e a b) :=
  some_lt (encM_lt _ _ _ _ _ _ _ _ (by omega) (by omega) (by omega) (by omega))
theorem vatadd (v : VReg) (a : GReg) (x : VReg) (k : KReg) (dt : Bool) : Statement (.vatadd v a x k dt) :=
  some_lt (encM_lt _ _ _ _ _ _ _ _ (by omega) (by omega) (by omega) (by omega))
theorem vatmin (v : VReg) (a : GReg) (x : VReg) (k : KReg) (dt : Bool) : Statement (.vatmin v a x k dt) :=
  some_lt (encM_lt _ _ _ _ _ _ _ _ (by omega) (by omega) (by omega) (by omega))
theorem vatmax (v : VReg) (a : GReg) (x : VReg) (k : KReg) (dt : Bool) : Statement (.vatmax v a x k dt) :=
  some_lt (encM_lt _ _ _ _ _ _ _ _ (by omega) (by omega) (by omega) (by omega))
theorem vatswap (v : VReg) (a : GReg) (x : VReg) (k : KReg) (dt : Bool) : Statement (.vatswap v a x k dt) :=
  some_lt (encM_lt _ _ _ _ _ _ _ _ (by omega) (by omega) (by omega) (by omega))
theorem vatand (v : VReg) (a : GReg) (x : VReg) (k : KReg) (dt : Bool) : Statement (.vatand v a x k dt) :=
  some_lt (encM_lt _ _ _ _ _ _ _ _ (by omega) (by omega) (by omega) (by omega))
theorem vator (v : VReg) (a : GReg) (x : VReg) (k : KReg) (dt : Bool) : Statement (.vator v a x k dt) :=
  some_lt (encM_lt _ _ _ _ _ _ _ _ (by omega) (by omega) (by omega) (by omega))
theorem vadd (v a : VReg) (b : VSrc) (k : KReg) (dt : Bool) : Statement (.vadd v a b k dt) :=
  some_lt (encV_lt _ _ _ _ _ _ _ (by omega) (by omega) (by omega) b.code_lt.1 b.code_lt.2)
theorem vfadd (v a : VReg) (b : VSrc) (k : KReg) (dt : Bool) : Statement (.vfadd v a b k dt) :=
  some_lt (encV_lt _ _ _ _ _ _ _ (by omega) (by omega) (by omega) b.code_lt.1 b.code_lt.2)
theorem vsub (v a : VReg) (b : VSrc) (k : KReg) (dt : Bool) : Statement (.vsub v a b k dt) :=
  some_lt (encV_lt _ _ _ _ _ _ _ (by omega) (by omega) (by omega) b.code_lt.1 b.code_lt.2)
theorem vfsub (v a : VReg) (b : VSrc) (k : KReg) (dt : Bool) : Statement (.vfsub v a b k dt) :=
  some_lt (encV_lt _ _ _ _ _ _ _ (by omega) (by omega) (by omega) b.code_lt.1 b.code_lt.2)
theorem vmul (v a : VReg) (b : VSrc) (k : KReg) (dt : Bool) : Statement (.vmul v a b k dt) :=
  some_lt (encV_lt _ _ _ _ _ _ _ (by omega) (by omega) (by omega) b.code_lt.1 b.code_lt.2)
theorem vfmul (v a : VReg) (b : VSrc) (k : KReg) (dt : Bool) : Statement (.vfmul v a b k dt) :=
  some_lt (encV_lt _ _ _ _ _ _ _ (by omega) (by omega) (by omega) b.code_lt.1 b.code_lt.2)
theorem vmulhs (v a : VReg) (b : VSrc) (k : KReg) (dt : Bool) : Statement (.vmulhs v a b k dt) :=
  some_lt (encV_lt _ _ _ _ _ _ _ (by omega) (by omega) (by omega) b.code_lt.1 b.code_lt.2)
theorem vmulhu (v a : VReg) (b : VSrc) (k : KReg) (dt : Bool) : Statement (.vmulhu v a b k dt) :=
  some_lt (encV_lt _ _ _ _ _ _ _ (by omega) (by omega) (by omega) b.code_lt.1 b.code_lt.2)
theorem vmuladd (v a : VReg) (b : VSrc) (k : KReg) (dt : Bool) : Statement (.vmuladd v a b k dt) :=
  some_lt (encV_lt _ _ _ _ _ _ _ (by omega) (by omega) (by omega) b.code_lt.1 b.code_lt.2)
theorem vfmuladd (v a : VReg) (b : VSrc) (k : KReg) (dt : Bool) : Statement (.vfmuladd v a b k dt) :=
  some_lt (encV_lt _ _ _ _ _ _ _ (by omega) (by omega) (by omega) b.code_lt.1 b.code_lt.2)
theorem vmulsub (v a : VReg) (b : VSrc) (k : KReg) (dt : Bool) : Statement (.vmulsub v a b k dt) :=
  some_lt (encV_lt _ _ _ _ _ _ _ (by omega) (by omega) (by omega) b.code_lt.1 b.code_lt.2)
theorem vfmulsub (v a : VReg) (b : VSrc) (k : KReg) (dt : Bool) : Statement (.vfmulsub v a b k dt) :=
  some_lt (encV_lt _ _ _ _ _ _ _ (by omega) (by omega) (by omega) b.code_lt.1 b.code_lt.2)
theorem vmin (v a : VReg) (b : VSrc) (k : KReg) (dt : Bool) : Statement (.vmin v a b k dt) :=
  some_lt (encV_lt _ _ _ _ _ _ _ (by omega) (by omega) (by omega) b.code_lt.1 b.code_lt.2)
theorem vfmin (v a : VReg) (b : VSrc) (k : KReg) (dt : Bool) : Statement (.vfmin v a b k dt) :=
  some_lt (encV_lt _ _ _ _ _ _ _ (by omega) (by omega) (by omega) b.code_lt.1 b.code_lt.2)
theorem vmax (v a : VReg) (b : VSrc) (k : KReg) (dt : Bool) : Statement (.vmax v a b k dt) :=
  some_lt (encV_lt _ _ _ _ _ _ _ (by omega) (by omega) (by omega) b.code_lt.1 b.code_lt.2)
theorem vfmax (v a : VReg) (b : VSrc) (k : KReg) (dt : Bool) : Statement (.vfmax v a b k dt) :=
  some_lt (encV_lt _ _ _ _ _ _ _ (by omega) (by omega) (by omega) b.code_lt.1 b.code_lt.2)
theorem vminu (v a : VReg) (b : VSrc) (k : KReg) (dt : Bool) : Statement (.vminu v a b k dt) :=
  some_lt (encV_lt _ _ _ _ _ _ _ (by omega) (by omega) (by omega) b.code_lt.1 b.code_lt.2)
theorem vmaxu (v a : VReg) (b : VSrc) (k : KReg) (dt : Bool) : Statement (.vmaxu v a b k dt) :=
  some_lt (encV_lt _ _ _ _ _ _ _ (by omega) (by omega) (by omega) b.code_lt.1 b.code_lt.2)
theorem vand (v a : VReg) (b : VSrc) (k : KReg) (dt : Bool) : Statement (.vand v a b k dt) :=
  some_lt (encV_lt _ _ _ _ _ _ _ (by omega) (by omega) (by omega) b.code_lt.1 b.code_lt.2)
theorem vor (v a : VReg) (b : VSrc) (k : KReg) (dt : Bool) : Statement (.vor v a b k dt) :=
  some_lt (encV_lt _ _ _ _ _ _ _ (by omega) (by omega) (by omega) b.code_lt.1 b.code_lt.2)
theorem vxor (v a : VReg) (b : VSrc) (k : KReg) (dt : Bool) : Statement (.vxor v a b k dt) :=
  some_lt (encV_lt _ _ _ _ _ _ _ (by omega) (by omega) (by omega) b.code_lt.1 b.code_lt.2)
theorem vandn (v a : VReg) (b : VSrc) (k : KReg) (dt : Bool) : Statement (.vandn v a b k dt) :=
  some_lt (encV_lt _ _ _ _ _ _ _ (by omega) (by omega) (by omega) b.code_lt.1 b.code_lt.2)
theorem vshl (v a : VReg) (b : VSrc) (k : KReg) (dt : Bool) : Statement (.vshl v a b k dt) :=
  some_lt (encV_lt _ _ _ _ _ _ _ (by omega) (by omega) (by omega) b.code_lt.1 b.code_lt.2)
theorem vshr (v a : VReg) (b : VSrc) (k : KReg) (dt : Bool) : Statement (.vshr v a b k dt) :=
  some_lt (encV_lt _ _ _ _ _ _ _ (by omega) (by omega) (by omega) b.code_lt.1 b.code_lt.2)
theorem vsar (v a : VReg) (b : VSrc) (k : KReg) (dt : Bool) : Statement (.vsar v a b k dt) :=
  some_lt (encV_lt _ _ _ _ _ _ _ (by omega) (by omega) (by omega) b.code_lt.1 b.code_lt.2)
theorem vrol (v a : VReg) (b : VSrc) (k : KReg) (dt : Bool) : Statement (.vrol v a b k dt) :=
  some_lt (encV_lt _ _ _ _ _ _ _ (by omega) (by omega) (by omega) b.code_lt.1 b.code_lt.2)
theorem vaddsat (v a : VReg) (b : VSrc) (k : KReg) (dt : Bool) : Statement (.vaddsat v a b k dt) :=
  some_lt (encV_lt _ _ _ _ _ _ _ (by omega) (by omega) (by omega) b.code_lt.1 b.code_lt.2)
theorem vsubsat (v a : VReg) (b : VSrc) (k : KReg) (dt : Bool) : Statement (.vsubsat v a b k dt) :=
  some_lt (encV_lt _ _ _ _ _ _ _ (by omega) (by omega) (by omega) b.code_lt.1 b.code_lt.2)
theorem vquot (v a : VReg) (b : VSrc) (k : KReg) (dt : Bool) : Statement (.vquot v a b k dt) :=
  some_lt (encV_lt _ _ _ _ _ _ _ (by omega) (by omega) (by omega) b.code_lt.1 b.code_lt.2)
theorem vquotu (v a : VReg) (b : VSrc) (k : KReg) (dt : Bool) : Statement (.vquotu v a b k dt) :=
  some_lt (encV_lt _ _ _ _ _ _ _ (by omega) (by omega) (by omega) b.code_lt.1 b.code_lt.2)
theorem vmod (v a : VReg) (b : VSrc) (k : KReg) (dt : Bool) : Statement (.vmod v a b k dt) :=
  some_lt (encV_lt _ _ _ _ _ _ _ (by omega) (by omega) (by omega) b.code_lt.1 b.code_lt.2)
theorem vmodu (v a : VReg) (b : VSrc) (k : KReg) (dt : Bool) : Statement (.vmodu v a b k dt) :=
  some_lt (encV_lt _ _ _ _ _ _ _ (by omega) (by omega) (by omega) b.code_lt.1 b.code_lt.2)
theorem vfdiv (v a : VReg) (b : VSrc) (k : KReg) (dt : Bool) : Statement (.vfdiv v a b k dt) :=
  some_lt (encV_lt _ _ _ _ _ _ _ (by omega) (by omega) (by omega) b.code_lt.1 b.code_lt.2)
theorem vfsqrt (v a : VReg) (k : KReg) (dt : Bool) : Statement (.vfsqrt v a k dt) :=
  some_lt (encV_lt _ _ _ _ _ _ _ (by omega) (by omega) (by omega) (by omega) (by omega))
theorem vfrec (v a : VReg) (k : KReg) (dt : Bool) : Statement (.vfrec v a k dt) :=
  some_lt (encV_lt _ _ _ _ _ _ _ (by omega) (by omega) (by omega) (by omega) (by omega))
theorem vfrsq (v a : VReg) (k : KReg) (dt : Bool) : Statement (.vfrsq v a k dt) :=
  some_lt (encV_lt _ _ _ _ _ _ _ (by omega) (by omega) (by omega) (by omega) (by omega))
theorem vfexp (v a : VReg) (k : KReg) (dt : Bool) : Statement (.vfexp v a k dt) :=
  some_lt (encV_lt _ _ _ _ _ _ _ (by omega) (by omega) (by omega) (by omega) (by omega))
theorem vflog (v a : VReg) (k : KReg) (dt : Bool) : Statement (.vflog v a k dt) :=
  some_lt (encV_lt _ _ _ _ _ _ _ (by omega) (by omega) (by omega) (by omega) (by omega))
theorem vceq (kd : KReg) (a : VReg) (b : VSrc) (k : KReg) (dt : Bool) : Statement (.vceq kd a b k dt) :=
  some_lt (encV_lt _ _ _ _ _ _ _ (by omega) (by omega) (by omega) b.code_lt.1 b.code_lt.2)
theorem vcne (kd : KReg) (a : VReg) (b : VSrc) (k : KReg) (dt : Bool) : Statement (.vcne kd a b k dt) :=
  some_lt (encV_lt _ _ _ _ _ _ _ (by omega) (by omega) (by omega) b.code_lt.1 b.code_lt.2)
theorem vclt (kd : KReg) (a : VReg) (b : VSrc) (k : KReg) (dt : Bool) : Statement (.vclt kd a b k dt) :=
  some_lt (encV_lt _ _ _ _ _ _ _ (by omega) (by omega) (by omega) b.code_lt.1 b.code_lt.2)
theorem vcle (kd : KReg) (a : VReg) (b : VSrc) (k : KReg) (dt : Bool) : Statement (.vcle kd a b k dt) :=
  some_lt (encV_lt _ _ _ _ _ _ _ (by omega) (by omega) (by omega) b.code_lt.1 b.code_lt.2)
theorem vcltu (kd : KReg) (a : VReg) (b : VSrc) (k : KReg) (dt : Bool) : Statement (.vcltu kd a b k dt) :=
  some_lt (encV_lt _ _ _ _ _ _ _ (by omega) (by omega) (by omega) b.code_lt.1 b.code_lt.2)
theorem vcleu (kd : KReg) (a : VReg) (b : VSrc) (k : KReg) (dt : Bool) : Statement (.vcleu kd a b k dt) :=
  some_lt (encV_lt _ _ _ _ _ _ _ (by omega) (by omega) (by omega) b.code_lt.1 b.code_lt.2)
theorem vfceq (kd : KReg) (a : VReg) (b : VSrc) (k : KReg) (dt : Bool) : Statement (.vfceq kd a b k dt) :=
  some_lt (encV_lt _ _ _ _ _ _ _ (by omega) (by omega) (by omega) b.code_lt.1 b.code_lt.2)
theorem vfcne (kd : KReg) (a : VReg) (b : VSrc) (k : KReg) (dt : Bool) : Statement (.vfcne kd a b k dt) :=
  some_lt (encV_lt _ _ _ _ _ _ _ (by omega) (by omega) (by omega) b.code_lt.1 b.code_lt.2)
theorem vfclt (kd : KReg) (a : VReg) (b : VSrc) (k : KReg) (dt : Bool) : Statement (.vfclt kd a b k dt) :=
  some_lt (encV_lt _ _ _ _ _ _ _ (by omega) (by omega) (by omega) b.code_lt.1 b.code_lt.2)
theorem vfcle (kd : KReg) (a : VReg) (b : VSrc) (k : KReg) (dt : Bool) : Statement (.vfcle kd a b k dt) :=
  some_lt (encV_lt _ _ _ _ _ _ _ (by omega) (by omega) (by omega) b.code_lt.1 b.code_lt.2)
theorem vsel (v a : VReg) (b : VSrc) (k : KReg) (dt : Bool) : Statement (.vsel v a b k dt) :=
  some_lt (encV_lt _ _ _ _ _ _ _ (by omega) (by omega) (by omega) b.code_lt.1 b.code_lt.2)
theorem vmove (v : VReg) (b : VSrc) (k : KReg) (dt : Bool) : Statement (.vmove v b k dt) :=
  some_lt (encV_lt _ _ _ _ _ _ _ (by omega) (by omega) b.moveS1_lt b.moveCode_lt.1 b.moveCode_lt.2)
theorem vcvt (v a : VReg) (k : KReg) (dt : Bool) : Statement (.vcvt v a k dt) :=
  some_lt (encV_lt _ _ _ _ _ _ _ (by omega) (by omega) (by omega) (by omega) (by omega))
theorem vfsetsign (v a : VReg) (b : VSrc) (k : KReg) (dt : Bool) : Statement (.vfsetsign v a b k dt) :=
  some_lt (encV_lt _ _ _ _ _ _ _ (by omega) (by omega) (by omega) b.code_lt.1 b.code_lt.2)
theorem vfnegsign (v a : VReg) (b : VSrc) (k : KReg) (dt : Bool) : Statement (.vfnegsign v a b k dt) :=
  some_lt (encV_lt _ _ _ _ _ _ _ (by omega) (by omega) (by omega) b.code_lt.1 b.code_lt.2)
theorem vfxorsign (v a : VReg) (b : VSrc) (k : KReg) (dt : Bool) : Statement (.vfxorsign v a b k dt) :=
  some_lt (encV_lt _ _ _ _ _ _ _ (by omega) (by omega) (by omega) b.code_lt.1 b.code_lt.2)
theorem vquant (v a : VReg) (e : EReg) (k : KReg) (dt : Bool) : Statement (.vquant v a e k dt) :=
  some_lt (encV_lt _ _ _ _ _ _ _ (by omega) (by omega) (by omega) (by omega) (by omega))
theorem vpack (v a : VReg) (ty : BitVec 2) (e : EReg) (k : KReg) (dt : Bool) : Statement (.vpack v a ty e k dt) :=
  some_lt (encV_lt _ _ _ _ _ _ _ (by omega) (by omega) (by omega) (by omega) (by omega))
theorem vdequant (v a : VReg) (e : EReg) (k : KReg) (dt : Bool) : Statement (.vdequant v a e k dt) :=
  some_lt (encV_lt _ _ _ _ _ _ _ (by omega) (by omega) (by omega) (by omega) (by omega))
theorem vbdot (v a b : VReg) (k : KReg) (dt : Bool) : Statement (.vbdot v a b k dt) :=
  some_lt (encV_lt _ _ _ _ _ _ _ (by omega) (by omega) (by omega) (by omega) (by omega))
theorem vfcun (kd : KReg) (a : VReg) (b : VSrc) (k : KReg) (dt : Bool) : Statement (.vfcun kd a b k dt) :=
  some_lt (encV_lt _ _ _ _ _ _ _ (by omega) (by omega) (by omega) b.code_lt.1 b.code_lt.2)
theorem vlift (v a : VReg) (b : VSrc) (k : KReg) (dt : Bool) : Statement (.vlift v a b k dt) :=
  some_lt (encV_lt _ _ _ _ _ _ _ (by omega) (by omega) (by omega) b.code_lt.1 b.code_lt.2)
theorem vdrop (v a : VReg) (b : VSrc) (k : KReg) (dt : Bool) : Statement (.vdrop v a b k dt) :=
  some_lt (encV_lt _ _ _ _ _ _ _ (by omega) (by omega) (by omega) b.code_lt.1 b.code_lt.2)
theorem vpick (v a : VReg) (b : VSrc) (k : KReg) (dt : Bool) : Statement (.vpick v a b k dt) :=
  some_lt (encV_lt _ _ _ _ _ _ _ (by omega) (by omega) (by omega) b.code_lt.1 b.code_lt.2)
theorem vindex (v : VReg) (k : KReg) (dt : Bool) : Statement (.vindex v k dt) :=
  some_lt (encV_lt _ _ _ _ _ _ _ (by omega) (by omega) (by omega) (by omega) (by omega))
theorem vsqueeze (v a : VReg) (k : KReg) (dt : Bool) : Statement (.vsqueeze v a k dt) :=
  some_lt (encV_lt _ _ _ _ _ _ _ (by omega) (by omega) (by omega) (by omega) (by omega))
theorem vspread (v a : VReg) (k : KReg) (dt : Bool) : Statement (.vspread v a k dt) :=
  some_lt (encV_lt _ _ _ _ _ _ _ (by omega) (by omega) (by omega) (by omega) (by omega))
theorem vconf (v a : VReg) (k : KReg) (dt : Bool) : Statement (.vconf v a k dt) :=
  some_lt (encV_lt _ _ _ _ _ _ _ (by omega) (by omega) (by omega) (by omega) (by omega))
theorem vconfm (kd : KReg) (a : VReg) (k : KReg) (dt : Bool) : Statement (.vconfm kd a k dt) :=
  some_lt (encV_lt _ _ _ _ _ _ _ (by omega) (by omega) (by omega) (by omega) (by omega))
theorem kand (kd ka kb : KReg) : Statement (.kand kd ka kb) :=
  some_lt (encV_lt _ _ _ _ _ _ _ (by omega) (by omega) (by omega) (by omega) (by omega))
theorem kor (kd ka kb : KReg) : Statement (.kor kd ka kb) :=
  some_lt (encV_lt _ _ _ _ _ _ _ (by omega) (by omega) (by omega) (by omega) (by omega))
theorem kxor (kd ka kb : KReg) : Statement (.kxor kd ka kb) :=
  some_lt (encV_lt _ _ _ _ _ _ _ (by omega) (by omega) (by omega) (by omega) (by omega))
theorem kandn (kd ka kb : KReg) : Statement (.kandn kd ka kb) :=
  some_lt (encV_lt _ _ _ _ _ _ _ (by omega) (by omega) (by omega) (by omega) (by omega))
theorem kpop (d : GReg) (ks : KReg) : Statement (.kpop d ks) :=
  some_lt (encV_lt _ _ _ _ _ _ _ (by omega) (by omega) (by omega) (by omega) (by omega))
theorem kfirst (d : GReg) (ks : KReg) : Statement (.kfirst d ks) :=
  some_lt (encV_lt _ _ _ _ _ _ _ (by omega) (by omega) (by omega) (by omega) (by omega))
theorem vrsum (v a : VReg) (k : KReg) (dt : Bool) : Statement (.vrsum v a k dt) :=
  some_lt (encV_lt _ _ _ _ _ _ _ (by omega) (by omega) (by omega) (by omega) (by omega))
theorem vrmin (v a : VReg) (k : KReg) (dt : Bool) : Statement (.vrmin v a k dt) :=
  some_lt (encV_lt _ _ _ _ _ _ _ (by omega) (by omega) (by omega) (by omega) (by omega))
theorem vrmax (v a : VReg) (k : KReg) (dt : Bool) : Statement (.vrmax v a k dt) :=
  some_lt (encV_lt _ _ _ _ _ _ _ (by omega) (by omega) (by omega) (by omega) (by omega))
theorem vrminu (v a : VReg) (k : KReg) (dt : Bool) : Statement (.vrminu v a k dt) :=
  some_lt (encV_lt _ _ _ _ _ _ _ (by omega) (by omega) (by omega) (by omega) (by omega))
theorem vrmaxu (v a : VReg) (k : KReg) (dt : Bool) : Statement (.vrmaxu v a k dt) :=
  some_lt (encV_lt _ _ _ _ _ _ _ (by omega) (by omega) (by omega) (by omega) (by omega))
theorem vrand (v a : VReg) (k : KReg) (dt : Bool) : Statement (.vrand v a k dt) :=
  some_lt (encV_lt _ _ _ _ _ _ _ (by omega) (by omega) (by omega) (by omega) (by omega))
theorem vror (v a : VReg) (k : KReg) (dt : Bool) : Statement (.vror v a k dt) :=
  some_lt (encV_lt _ _ _ _ _ _ _ (by omega) (by omega) (by omega) (by omega) (by omega))
theorem vrxor (v a : VReg) (k : KReg) (dt : Bool) : Statement (.vrxor v a k dt) :=
  some_lt (encV_lt _ _ _ _ _ _ _ (by omega) (by omega) (by omega) (by omega) (by omega))
theorem vfrsum (v a : VReg) (k : KReg) (dt : Bool) : Statement (.vfrsum v a k dt) :=
  some_lt (encV_lt _ _ _ _ _ _ _ (by omega) (by omega) (by omega) (by omega) (by omega))
theorem vfrosum (v a : VReg) (k : KReg) (dt : Bool) : Statement (.vfrosum v a k dt) :=
  some_lt (encV_lt _ _ _ _ _ _ _ (by omega) (by omega) (by omega) (by omega) (by omega))
theorem vfrmin (v a : VReg) (k : KReg) (dt : Bool) : Statement (.vfrmin v a k dt) :=
  some_lt (encV_lt _ _ _ _ _ _ _ (by omega) (by omega) (by omega) (by omega) (by omega))
theorem vfrmax (v a : VReg) (k : KReg) (dt : Bool) : Statement (.vfrmax v a k dt) :=
  some_lt (encV_lt _ _ _ _ _ _ _ (by omega) (by omega) (by omega) (by omega) (by omega))
theorem tld (t : TReg) (a : GReg) : Statement (.tld t a) :=
  some_lt (encM_lt _ _ _ _ _ _ _ _ (by omega) (by omega) (by omega) (by omega))
theorem tlds (t : TReg) (a b : GReg) : Statement (.tlds t a b) :=
  some_lt (encM_lt _ _ _ _ _ _ _ _ (by omega) (by omega) (by omega) (by omega))
theorem tldc (t : TReg) (a b : GReg) : Statement (.tldc t a b) :=
  some_lt (encM_lt _ _ _ _ _ _ _ _ (by omega) (by omega) (by omega) (by omega))
theorem tst (t : TReg) (a : GReg) : Statement (.tst t a) :=
  some_lt (encM_lt _ _ _ _ _ _ _ _ (by omega) (by omega) (by omega) (by omega))
theorem tsts (t : TReg) (a b : GReg) : Statement (.tsts t a b) :=
  some_lt (encM_lt _ _ _ _ _ _ _ _ (by omega) (by omega) (by omega) (by omega))
theorem tstc (t : TReg) (a b : GReg) : Statement (.tstc t a b) :=
  some_lt (encM_lt _ _ _ _ _ _ _ _ (by omega) (by omega) (by omega) (by omega))
theorem mmul (v a : VReg) (t : TReg) : Statement (.mmul v a t) :=
  some_lt (encT_lt _ _ _ _ _ _ _ _ (by omega) (by omega) (by omega) (by omega) (by omega))
theorem mmac (v a : VReg) (t : TReg) : Statement (.mmac v a t) :=
  some_lt (encT_lt _ _ _ _ _ _ _ _ (by omega) (by omega) (by omega) (by omega) (by omega))
theorem mmulb (v a : VReg) (t : TReg) (ea eb : EReg) : Statement (.mmulb v a t ea eb) :=
  some_lt (encT_lt _ _ _ _ _ _ _ _ (by omega) (by omega) (by omega) (by omega) (by omega))
theorem mmacb (v a : VReg) (t : TReg) (ea eb : EReg) : Statement (.mmacb v a t ea eb) :=
  some_lt (encT_lt _ _ _ _ _ _ _ _ (by omega) (by omega) (by omega) (by omega) (by omega))
theorem tmv (t : TReg) (a : VReg) : Statement (.tmv t a) :=
  some_lt (encT_lt _ _ _ _ _ _ _ _ (by omega) (by omega) (by omega) (by omega) (by omega))
theorem vmvt (v : VReg) (t : TReg) : Statement (.vmvt v t) :=
  some_lt (encT_lt _ _ _ _ _ _ _ _ (by omega) (by omega) (by omega) (by omega) (by omega))
theorem ocopy (a : GReg) (s : Scope) (acq : Bool) (rel : Bool) : Statement (.ocopy a s acq rel) :=
  some_lt (encY_lt _ _ _ _ _ _ _ _ (by omega) (by omega) (by omega))
theorem ogather (a : GReg) (s : Scope) (acq : Bool) (rel : Bool) : Statement (.ogather a s acq rel) :=
  some_lt (encY_lt _ _ _ _ _ _ _ _ (by omega) (by omega) (by omega))
theorem vsave (a : GReg) (s : Scope) (acq : Bool) (rel : Bool) : Statement (.vsave a s acq rel) :=
  some_lt (encY_lt _ _ _ _ _ _ _ _ (by omega) (by omega) (by omega))
theorem vrest (a : GReg) (s : Scope) (acq : Bool) (rel : Bool) : Statement (.vrest a s acq rel) :=
  some_lt (encY_lt _ _ _ _ _ _ _ _ (by omega) (by omega) (by omega))
theorem vxcore (a : GReg) (s : Scope) (acq : Bool) (rel : Bool) : Statement (.vxcore a s acq rel) :=
  some_lt (encY_lt _ _ _ _ _ _ _ _ (by omega) (by omega) (by omega))
theorem sopen (d a : GReg) (s : Scope) (acq : Bool) (rel : Bool) : Statement (.sopen d a s acq rel) :=
  some_lt (encY_lt _ _ _ _ _ _ _ _ (by omega) (by omega) (by omega))
theorem sclose (d a : GReg) : Statement (.sclose d a) :=
  some_lt (encY_lt _ _ _ _ _ _ _ _ (by omega) (by omega) (by omega))
theorem sadv (d a b : GReg) : Statement (.sadv d a b) :=
  some_lt (encY_lt _ _ _ _ _ _ _ _ (by omega) (by omega) (by omega))
theorem scloseDrained (n : StrandId) : Statement (.scloseDrained n) := none_lt
theorem lturn (a : GReg) (s : Scope) (acq : Bool) (rel : Bool) : Statement (.lturn a s acq rel) :=
  some_lt (encY_lt _ _ _ _ _ _ _ _ (by omega) (by omega) (by omega))
theorem ltile (a : GReg) (s : Scope) (acq : Bool) (rel : Bool) : Statement (.ltile a s acq rel) :=
  some_lt (encY_lt _ _ _ _ _ _ _ _ (by omega) (by omega) (by omega))
theorem ltrans (a : GReg) (s : Scope) (acq : Bool) (rel : Bool) : Statement (.ltrans a s acq rel) :=
  some_lt (encY_lt _ _ _ _ _ _ _ _ (by omega) (by omega) (by omega))
theorem lconv (a : GReg) (s : Scope) (acq : Bool) (rel : Bool) : Statement (.lconv a s acq rel) :=
  some_lt (encY_lt _ _ _ _ _ _ _ _ (by omega) (by omega) (by omega))
theorem lconvo (a : GReg) (s : Scope) (acq : Bool) (rel : Bool) : Statement (.lconvo a s acq rel) :=
  some_lt (encY_lt _ _ _ _ _ _ _ _ (by omega) (by omega) (by omega))
theorem lscale (a : GReg) (s : Scope) (acq : Bool) (rel : Bool) : Statement (.lscale a s acq rel) :=
  some_lt (encY_lt _ _ _ _ _ _ _ _ (by omega) (by omega) (by omega))
theorem lrepl (a : GReg) (s : Scope) (acq : Bool) (rel : Bool) : Statement (.lrepl a s acq rel) :=
  some_lt (encY_lt _ _ _ _ _ _ _ _ (by omega) (by omega) (by omega))
theorem binit (a b : GReg) (s : Scope) (rel : Bool) : Statement (.binit a b s rel) :=
  some_lt (encY_lt _ _ _ _ _ _ _ _ (by omega) (by omega) (by omega))
theorem barrive (a : GReg) (s : Scope) : Statement (.barrive a s) :=
  some_lt (encY_lt _ _ _ _ _ _ _ _ (by omega) (by omega) (by omega))
theorem bwait (d a : GReg) (s : Scope) : Statement (.bwait d a s) :=
  some_lt (encY_lt _ _ _ _ _ _ _ _ (by omega) (by omega) (by omega))
theorem btest (d a : GReg) (s : Scope) (acq : Bool) : Statement (.btest d a s acq) :=
  some_lt (encY_lt _ _ _ _ _ _ _ _ (by omega) (by omega) (by omega))
theorem bfail (a b : GReg) (s : Scope) : Statement (.bfail a b s) :=
  some_lt (encY_lt _ _ _ _ _ _ _ _ (by omega) (by omega) (by omega))
theorem alaunch (a : GReg) (s : Scope) (acq : Bool) (rel : Bool) : Statement (.alaunch a s acq rel) :=
  some_lt (encY_lt _ _ _ _ _ _ _ _ (by omega) (by omega) (by omega))
theorem alock (d a b : GReg) : Statement (.alock d a b) :=
  some_lt (encY_lt _ _ _ _ _ _ _ _ (by omega) (by omega) (by omega))
theorem aunlock (a : GReg) : Statement (.aunlock a) :=
  some_lt (encY_lt _ _ _ _ _ _ _ _ (by omega) (by omega) (by omega))
theorem afence : Statement .afence :=
  some_lt (encY_lt _ _ _ _ _ _ _ _ (by omega) (by omega) (by omega))
theorem coll (a : GReg) (s : Scope) (acq : Bool) (rel : Bool) : Statement (.coll a s acq rel) :=
  some_lt (encY_lt _ _ _ _ _ _ _ _ (by omega) (by omega) (by omega))
theorem cpoll (d a : GReg) (s : Scope) (acq : Bool) : Statement (.cpoll d a s acq) :=
  some_lt (encY_lt _ _ _ _ _ _ _ _ (by omega) (by omega) (by omega))
theorem farm (d a : GReg) (s : Scope) (rel : Bool) : Statement (.farm d a s rel) :=
  some_lt (encY_lt _ _ _ _ _ _ _ _ (by omega) (by omega) (by omega))
theorem oinv (d a b : GReg) : Statement (.oinv d a b) :=
  some_lt (encY_lt _ _ _ _ _ _ _ _ (by omega) (by omega) (by omega))
theorem cwb (a b : GReg) : Statement (.cwb a b) :=
  some_lt (encY_lt _ _ _ _ _ _ _ _ (by omega) (by omega) (by omega))
theorem cinv (a b : GReg) : Statement (.cinv a b) :=
  some_lt (encY_lt _ _ _ _ _ _ _ _ (by omega) (by omega) (by omega))
theorem icinv (a b : GReg) (s : Scope) : Statement (.icinv a b s) :=
  some_lt (encY_lt _ _ _ _ _ _ _ _ (by omega) (by omega) (by omega))
theorem fbar : Statement .fbar :=
  some_lt (encY_lt _ _ _ _ _ _ _ _ (by omega) (by omega) (by omega))
theorem mside (a : GReg) (s : Scope) (acq : Bool) (rel : Bool) : Statement (.mside a s acq rel) :=
  some_lt (encY_lt _ _ _ _ _ _ _ _ (by omega) (by omega) (by omega))
theorem sprefix (a b : GReg) : Statement (.sprefix a b) :=
  some_lt (encY_lt _ _ _ _ _ _ _ _ (by omega) (by omega) (by omega))
theorem tret : Statement .tret :=
  some_lt (encY_lt _ _ _ _ _ _ _ _ (by omega) (by omega) (by omega))
theorem spark (d a : GReg) : Statement (.spark d a) :=
  some_lt (encY_lt _ _ _ _ _ _ _ _ (by omega) (by omega) (by omega))
theorem sstart (d a b : GReg) : Statement (.sstart d a b) :=
  some_lt (encY_lt _ _ _ _ _ _ _ _ (by omega) (by omega) (by omega))
theorem preq (d a : GReg) : Statement (.preq d a) :=
  some_lt (encY_lt _ _ _ _ _ _ _ _ (by omega) (by omega) (by omega))
theorem rcopy (x : BitVec 10) (y : BitVec 10) (b : BitVec 3) : Statement (.rcopy x y b) :=
  some_lt (encR_lt _ _ _ _ _ (by omega) (by omega) (by omega) (by omega) (by omega))
theorem rnot (x : BitVec 10) (y : BitVec 10) (b : BitVec 3) (n : Bool) : Statement (.rnot x y b n) :=
  have := boolToNat_lt n
  some_lt (encR_lt _ _ _ _ _ (by omega) (by omega) (by omega) (by omega) (by omega))
theorem rmaj (x : BitVec 10) (b : BitVec 3) (tri : BitVec 4) : Statement (.rmaj x b tri) :=
  some_lt (encR_lt _ _ _ _ _ (by omega) (by omega) (by omega) (by omega) (by omega))
theorem rset (x : BitVec 10) (b : BitVec 3) (v : Bool) : Statement (.rset x b v) :=
  have := boolToNat_lt v
  some_lt (encR_lt _ _ _ _ _ (by omega) (by omega) (by omega) (by omega) (by omega))
theorem rbcst (x : BitVec 10) (y : BitVec 10) (b : BitVec 3) (q : BitVec 4) : Statement (.rbcst x y b q) :=
  some_lt (encR_lt _ _ _ _ _ (by omega) (by omega) (by omega) (by omega) (by omega))
theorem rmwr (x : BitVec 10) (y : BitVec 10) (b : BitVec 3) (m : Bool) : Statement (.rmwr x y b m) :=
  have := boolToNat_lt m
  some_lt (encR_lt _ _ _ _ _ (by omega) (by omega) (by omega) (by omega) (by omega))
theorem rshl (x : BitVec 10) (y : BitVec 10) (b : BitVec 3) (dist : BitVec 2) : Statement (.rshl x y b dist) :=
  some_lt (encR_lt _ _ _ _ _ (by omega) (by omega) (by omega) (by omega) (by omega))
theorem rshr (x : BitVec 10) (y : BitVec 10) (b : BitVec 3) (dist : BitVec 2) : Statement (.rshr x y b dist) :=
  some_lt (encR_lt _ _ _ _ _ (by omega) (by omega) (by omega) (by omega) (by omega))
theorem rpcaAdd (hi : Bool) (x : BitVec 10) (y : BitVec 10) (b : BitVec 3) (sh : BitVec 3) : Statement (.rpcaAdd hi x y b sh) :=
  have := boolToNat_lt hi
  some_lt (encR_lt _ _ _ _ _ (by omega) (by omega) (by omega) (by omega) (by omega))
theorem rpcaSub (hi : Bool) (x : BitVec 10) (y : BitVec 10) (b : BitVec 3) (sh : BitVec 3) : Statement (.rpcaSub hi x y b sh) :=
  have := boolToNat_lt hi
  some_lt (encR_lt _ _ _ _ _ (by omega) (by omega) (by omega) (by omega) (by omega))
theorem raclr : Statement .raclr :=
  some_lt (encR_lt _ _ _ _ _ (by omega) (by omega) (by omega) (by omega) (by omega))
theorem raccw (x : BitVec 10) (b : BitVec 3) (clr : Bool) : Statement (.raccw x b clr) :=
  have := boolToNat_lt clr
  some_lt (encR_lt _ _ _ _ _ (by omega) (by omega) (by omega) (by omega) (by omega))
theorem raccb (y : BitVec 10) (b : BitVec 3) (clr : Bool) : Statement (.raccb y b clr) :=
  have := boolToNat_lt clr
  some_lt (encR_lt _ _ _ _ _ (by omega) (by omega) (by omega) (by omega) (by omega))
theorem rldl (y : BitVec 10) (l : BitVec 2) : Statement (.rldl y l) :=
  some_lt (encR_lt _ _ _ _ _ (by omega) (by omega) (by omega) (by omega) (by omega))
theorem rldlQ (q : BitVec 4) (l : BitVec 2) : Statement (.rldlQ q l) :=
  some_lt (encR_lt _ _ _ _ _ (by omega) (by omega) (by omega) (by omega) (by omega))
theorem rloop (x : BitVec 10) (l : BitVec 2) : Statement (.rloop x l) :=
  some_lt (encR_lt _ _ _ _ _ (by omega) (by omega) (by omega) (by omega) (by omega))
theorem rbtSet (x : BitVec 10) (bit : BitVec 5) (q : BitVec 4) : Statement (.rbtSet x bit q) :=
  some_lt (encR_lt _ _ _ _ _ (by omega) (by omega) (by omega) (by omega) (by omega))
theorem rbtClr (x : BitVec 10) (bit : BitVec 5) (q : BitVec 4) : Statement (.rbtClr x bit q) :=
  some_lt (encR_lt _ _ _ _ _ (by omega) (by omega) (by omega) (by omega) (by omega))
theorem rbset (k : BitVec 10) (b : BitVec 3) (op : BitVec 2) : Statement (.rbset k b op) :=
  some_lt (encR_lt _ _ _ _ _ (by omega) (by omega) (by omega) (by omega) (by omega))
theorem rbsetK (k : BitVec 10) (b : BitVec 3) : Statement (.rbsetK k b) :=
  some_lt (encR_lt _ _ _ _ _ (by omega) (by omega) (by omega) (by omega) (by omega))
theorem rbstep (k : BitVec 10) (b : BitVec 3) : Statement (.rbstep k b) :=
  some_lt (encR_lt _ _ _ _ _ (by omega) (by omega) (by omega) (by omega) (by omega))
theorem rseal (x : BitVec 10) (b : BitVec 3) (cnt : BitVec 4) : Statement (.rseal x b cnt) :=
  some_lt (encR_lt _ _ _ _ _ (by omega) (by omega) (by omega) (by omega) (by omega))
theorem rcheck (x : BitVec 10) (b : BitVec 3) (cnt : BitVec 4) : Statement (.rcheck x b cnt) :=
  some_lt (encR_lt _ _ _ _ _ (by omega) (by omega) (by omega) (by omega) (by omega))
theorem rwait : Statement .rwait :=
  some_lt (encR_lt _ _ _ _ _ (by omega) (by omega) (by omega) (by omega) (by omega))
theorem rend : Statement .rend :=
  some_lt (encR_lt _ _ _ _ _ (by omega) (by omega) (by omega) (by omega) (by omega))
theorem rraise (k : BitVec 8) : Statement (.rraise k) :=
  some_lt (encR_lt _ _ _ _ _ (by omega) (by omega) (by omega) (by omega) (by omega))
theorem sprefixPerformed (d : Die) (c : Nat) : Statement (.sprefixPerformed d c) := none_lt
theorem queueAgentPreemptionRequest (n : StrandId) : Statement (.queueAgentPreemptionRequest n) := none_lt

end Sys2Proof.Laws.Words
end

