-- ==== Sys2Proof/Tests/Slice0.lean ====
section
/-! SUPPORT. Tests: words of the spec's worked examples, ill-formed terms, single steps on small states with results of the
spec's own examples and tables, and for each statement a state and operands that meet its hypotheses. -/

open Sys2Proof Sys2Proof.Machine

namespace Sys2Proof.Tests

set_option Elab.async false

/-! ## States -/

/-- Strand 0 running in supervisor mode with TM 0 and pc 4,096, its core's lane groups 0 to 3 held, then changed by `f`. -/
def running (f : Strand → Strand) : State :=
  { State.reset with
    boot := .started
    strands := [(0, f { Strand.reset with st := .run, sstat := 1, pc := 4096 })]
    cores := [(0, { Core.reset with own0 := 0x0F })] }

/-- The object address of byte `n` of the scratchpad window of core 0 (R80). -/
def window (n : Nat) : Word := BitVec.ofNat 64 (0xFFFFE0 * 2 ^ 40 + n)

/-- Bytes of core 0's scratchpad. -/
def withPad (s : State) (a : Nat) (bs : List Byte) : State := { s with mem := putBytes s.mem (scratchAddr 0 a) bs }

/-- Words of core 0's scratchpad. -/
def withWords (s : State) (a : Nat) (ws : List Word) : State := withPad s a (ofWords ws)

/-- A run of a test reads its outcome by `p`. -/
def after (o : Host.Outcome State Fault Refusal) (p : State → Bool) : Bool :=
  match o with
  | .next t => p t
  | .fault _ => false
  | .refused _ => false

/-! ## Decoding: words written out from R146 to R151 and R127 to R131 -/

theorem test_decode_alu : decodeNat 0x02C63400 = .ok (.add 12 12 13) := rfl
theorem test_decode_mul : decodeNat 0x05068010 = .ok (.quot 16 13 0) := rfl
theorem test_decode_bits : decodeNat 0x06C6B848 = .ok (.fshr 12 13 14 8) := rfl
theorem test_decode_immediate : decodeNat 0x08D6FFFF = .ok (.addi 13 13 0x7FFF) := rfl
theorem test_decode_field : decodeNat 0x16F711C0 = .ok (.bfx 15 14 7 0) := rfl
theorem test_decode_lmid : decodeNat 0x1CE00300 = .ok (.lmid 14 0x300) := rfl
theorem test_decode_load : decodeNat 0x26E28000 = .ok (.ldd 14 5 0) := rfl
theorem test_decode_store : decodeNat 0x34570000 = .ok (.std 5 14 0) := rfl
theorem test_decode_branch : decodeNat 0x38D07FFE = .ok (.bne 13 0 0x7FFE) := rfl
theorem test_decode_jump : decodeNat 0x40008000 = .ok (.jalr 0 1 0) := rfl
theorem test_decode_control_register : decodeNat 0x42C69009 = .ok (.crw 12 13 0x009) := rfl
theorem test_decode_atomic : decodeNat 0x50C23549 = .ok (.casW 12 4 13 .die true false) := rfl
theorem test_decode_release : decodeNat 0x54020126 = .ok (.stlW 4 0 .die) := rfl
theorem test_decode_fence : decodeNat 0x56003D0F = .ok (.fence 15 .die 15) := rfl
theorem test_decode_vector_length : decodeNat 0x60C20000 = .ok (.vsetl 12 4) := rfl
theorem test_decode_vector_load : decodeNat 0x6419C948 = .ok (.vldx 3 7 9 2 false) := rfl
theorem test_decode_vector_store : decodeNat 0x66124A80 = .ok (.vstc 2 9 10 0 false) := rfl
theorem test_decode_vector_atomic : decodeNat 0x6C2A0640 = .ok (.vatadd 5 8 6 0 false) := rfl
theorem test_decode_vector_float : decodeNat 0x80204193 = .ok (.vfadd 4 2 (.vv 3) 1 true) := rfl
theorem test_decode_permute : decodeNat 0xC0204189 = .ok (.vdrop 4 2 (.vi 3) 0 false) := rfl
theorem test_decode_conflict : decodeNat 0xC6090001 = .ok (.vconfm 1 8 0 false) := rfl
theorem test_decode_mask : decodeNat 0xCC386000 = .ok (.kpop 7 3) := rfl
theorem test_decode_matrix : decodeNat 0xD4404517 = .ok (.mmacb 8 2 1 4 5) := rfl
/-- Major 0x70, ga 4, scope 2, acq, fn 1 (R151). -/
theorem test_decode_copy : decodeNat 0xE0020141 = .ok (.ogather 4 .die true false) := rfl
/-- Major 0x71, ga 4, fn 6 (R151). -/
theorem test_decode_layout : decodeNat 0xE2020006 = .ok (.lrepl 4 .strand false false) := rfl
/-- Major 0x72, gd 3, ga 4, scope 3, acq, fn 2 (R151, R257). -/
theorem test_decode_barrier : decodeNat 0xE43201C2 = .ok (.bwait 3 4 .module) := rfl
/-- Major 0x73, gd 3, ga 4, gb 5, fn 1 (R151). -/
theorem test_decode_array : decodeNat 0xE6321401 = .ok (.alock 3 4 5) := rfl
/-- Major 0x74, ga 4, scope 4, rel, fn 0 (R151). -/
theorem test_decode_collective : decodeNat 0xE8020220 = .ok (.coll 4 .system false true) := rfl
/-- Major 0x75, gd 3, ga 4, scope 2, rel, fn 0 (R151). -/
theorem test_decode_farm : decodeNat 0xEA320120 = .ok (.farm 3 4 .die true) := rfl
/-- Major 0x76, ga 4, gb 5, fn 5 (R151). -/
theorem test_decode_cache : decodeNat 0xEC021405 = .ok (.sprefix 4 5) := rfl
/-- Major 0x77, fn 0 (R151). -/
theorem test_decode_return : decodeNat 0xEE000000 = .ok .tret := rfl
/-- R127, R129: OP 0x08, X 5, Y 6, B 2, AUX 0xB: a subtraction shifted by 3. -/
theorem test_decode_rpca : decodeMicroNat 0x400A032B = some (.rpcaSub false 5 6 2 3) := rfl
/-- R129: OP 0x0E, X 3, AUX 1. -/
theorem test_decode_rloop : decodeMicroNat 0x70060001 = some (.rloop 3 1) := rfl
/-- R152: the words the spec names as trapping. -/
theorem test_decode_reserved : decodeNat 0x60C20004 = .error .reserved ∧ decodeNat 0x6419C9C8 = .error .reserved
    ∧ decodeNat 0x6C2A0641 = .error .reserved ∧ decodeNat 0xCD386000 = .error .reserved := ⟨rfl, rfl, rfl, rfl⟩
theorem test_decode_illegal : decodeNat 0 = .error .illegal ∧ decodeNat 0xFFFFFFFF = .error .illegal := ⟨rfl, rfl⟩

/-! ## Ill-formed terms, one for each check of WellFormed -/

theorem test_ill_control_register : Instr.wellFormed (.crr 1 0x00A) = false := by decide +kernel
theorem test_ill_order : Instr.wellFormed (.casW 1 2 3 .die false false) = false := by decide +kernel
theorem test_ill_barrier_scope : Instr.wellFormed (.binit 1 2 .core false) = false := by decide +kernel
theorem test_ill_fence : Instr.wellFormed (.fence 0 .die 1) = false ∧ Instr.wellFormed (.fence 1 .die 0) = false := by decide +kernel
theorem test_ill_float_immediate : Instr.wellFormed (.vfadd 1 2 (.vi 3) 0 false) = false := by decide +kernel
theorem test_ill_select_mask : Instr.wellFormed (.vsel 1 2 (.vv 3) 0 false) = false := by decide +kernel
theorem test_ill_lift_vector : Instr.wellFormed (.vlift 1 2 (.vv 3) 0 false) = false := by decide +kernel
theorem test_ill_row_written : Instr.wellFormed (.rcopy 1018 5 0) = false ∧ Instr.wellFormed (.rset 1022 0 true) = false := by
  decide +kernel
theorem test_ill_row_read : Instr.wellFormed (.rcopy 5 1023 0) = false := by decide +kernel
theorem test_ill_rnot_dual : Instr.wellFormed (.rnot 1016 5 0 false) = false := by decide +kernel
theorem test_ill_rmaj_triple : Instr.wellFormed (.rmaj 5 0 3) = false := by decide +kernel
theorem test_ill_rbcst_bit : Instr.wellFormed (.rbcst 5 33 0 1) = false := by decide +kernel
theorem test_ill_shift_distance : Instr.wellFormed (.rshl 5 6 0 3) = false := by decide +kernel
theorem test_well_formed : Instr.wellFormed (.casW 1 2 3 .die true false) = true ∧ Instr.wellFormed (.rcopy 5 1019 0) = true := by
  decide +kernel

/-! ## Single steps -/

/-- The state of worked example 1 of Scalar instructions: g13 = 0xAB and g14 = 0x1122334455667788. -/
def scalarExample : State := running fun x => { x with g := [(13, 0xAB), (14, 0x1122334455667788)] }

theorem test_fshr : after (exec (.fshr 12 13 14 8) scalarExample) (fun t => t.me.getG 12 == 0xAB11223344556677) = true := by
  decide +kernel
theorem test_bfx : after (exec (.bfx 15 14 7 0) scalarExample) (fun t => t.me.getG 15 == 0xFFFFFFFFFFFFFF88) = true := by
  decide +kernel
theorem test_quot_by_zero : after (exec (.quot 16 13 0) scalarExample) (fun t => t.me.getG 16 == 0x7FFFFFFFFFFFFFFF) = true := by
  decide +kernel
theorem test_crw_vcap : after (exec (.crw 12 13 0x009) scalarExample)
    (fun t => t.me.getG 12 == 64 && t.crRead 0x009 == 43) = true := by decide +kernel
theorem test_lui_sign : after (exec (.lui 3 0x80000) scalarExample) (fun t => t.me.getG 3 == 0xFFFFFFFF80000000) = true := by
  decide +kernel
theorem test_lmid_lhi : after (exec (.lmid 13 0x300) scalarExample) (fun t => t.me.getG 13 == 0x30000000000 + 0xAB) = true
    ∧ after (exec (.lhi 13 0x12) scalarExample) (fun t => t.me.getG 13 == 0x12 * 2 ^ 44 + 0xAB) = true := by decide +kernel
theorem test_g0_is_zero : after (exec (.addi 0 13 1) scalarExample) (fun t => t.me.getG 0 == 0 && t.me.pc == 4100) = true := by
  decide +kernel
theorem test_mod_sign : after (exec (.mod 3 1 2) (running fun x => { x with g := [(1, BitVec.ofInt 64 (-7)), (2, 2)] }))
    (fun t => t.me.getG 3 == BitVec.ofInt 64 (-1)) = true := by decide +kernel
theorem test_quot_saturates : after (exec (.quot 3 1 2) (running fun x => { x with g := [(1, 2 ^ 63), (2, BitVec.ofInt 64 (-1))] }))
    (fun t => t.me.getG 3 == 0x7FFFFFFFFFFFFFFF) = true := by decide +kernel
theorem test_bne_taken : after (exec (.bne 13 0 0x7FFE) scalarExample) (fun t => t.me.pc == 4088) = true := by decide +kernel
theorem test_jal_links : after (exec (.jal 2) scalarExample) (fun t => t.me.pc == 4104 && t.me.getG 1 == 4100) = true := by
  decide +kernel
theorem test_jalr_misaligned : after (exec (.jalr 0 13 0) scalarExample)
    (fun t => t.me.tcause == 5 && t.me.tval == 0xAB && t.me.tpc == 4096) = true := by decide +kernel
theorem test_svc_behind : after (exec (.svc 13) scalarExample)
    (fun t => t.me.tcause == 0x0C && t.me.tval == 0xAB && t.me.tpc == 4100 && t.me.instret == 1) = true := by decide +kernel
theorem test_user_sret_traps : after (exec (.sret 13) (running fun x => { x with sstat := 0 }))
    (fun t => t.me.tcause == 3 && t.me.sstat == 5) = true := by decide +kernel
theorem test_load_sign : after (exec (.ldb 3 4 0) (withPad (running fun x => { x with g := [(4, window 5)] }) 5 [0x80]))
    (fun t => t.me.getG 3 == 0xFFFFFFFFFFFFFF80) = true := by decide +kernel
theorem test_store_low_byte_first : after (exec (.stw 4 13 0) (running fun x => { x with g := [(4, window 8), (13, 0x11223344)] }))
    (fun t => t.readBytes (scratchAddr 0 8) 4 == [0x44, 0x33, 0x22, 0x11]) = true := by decide +kernel
theorem test_load_misaligned : after (exec (.ldd 3 4 0) (running fun x => { x with g := [(4, window 4)] }))
    (fun t => t.me.tcause == 5 && t.me.tval == window 4) = true := by decide +kernel
theorem test_cas_fails : after (exec (.casW 3 4 5 .strand false false)
      (withPad (running fun x => { x with g := [(3, 9), (4, window 0), (5, 7)] }) 0 [1]))
    (fun t => t.me.getG 3 == 1 && t.readNum (scratchAddr 0 0) 4 == 1) = true := by decide +kernel
theorem test_atmax_signed : after (exec (.atmaxW 3 4 5 .strand false false)
      (withPad (running fun x => { x with g := [(4, window 0), (5, 7)] }) 0 [0xFF, 0xFF, 0xFF, 0xFF]))
    (fun t => t.me.getG 3 == BitVec.allOnes 64 && t.readNum (scratchAddr 0 0) 4 == 7) = true := by decide +kernel
/-- R26: half of VLMAX at four of eight lane groups, 32-bit elements: the lane share binds. -/
theorem test_vsetl_share : after (exec (.vsetl 12 4) (running fun x => { x with g := [(4, 100000)], vtype := 0x888 }))
    (fun t => t.me.getG 12 == 4096 && t.me.vgrant == 3) = true := by decide +kernel
theorem test_vadd_wraps : after (exec (.vadd 1 2 (.vi 1) 0 false) (running fun x =>
      { x with vtype := 0x000, vl := 2, v := [(65536, 0xFF), (65537, 0x7F)] }))
    (fun t => t.me.elem 1 0 0 == 0 && t.me.elem 1 0 1 == 0x80 && t.me.elem 1 0 2 == 0) = true := by decide +kernel
theorem test_vaddsat_clamps : after (exec (.vaddsat 1 2 (.vi 1) 0 false) (running fun x =>
      { x with vtype := 0x000, vl := 2, v := [(65536, 0xFF), (65537, 0x7F)] }))
    (fun t => t.me.elem 1 0 0 == 0 && t.me.elem 1 0 1 == 0x7F) = true := by decide +kernel
/-- 1.5 + 2.25 = 3.75 in FP32. -/
theorem test_vfadd : after (exec (.vfadd 1 2 (.vv 3) 0 false) (running fun x =>
      { x with vtype := 0x888, vl := 1, v := [(65538, 0xC0), (65539, 0x3F), (98306, 0x10), (98307, 0x40)] }))
    (fun t => t.me.elem 1 8 0 == 0x40700000) = true := by decide +kernel
theorem test_vceq_masks : after (exec (.vceq 1 2 (.vi 3) 0 false) (running fun x =>
      { x with vtype := 0x000, vl := 2, v := [(65536, 3)] })) (fun t => t.me.getK 1 0 && !t.me.getK 1 1) = true := by decide +kernel
/-- R104, R257: binit writes EXPECT and nothing has arrived. -/
theorem test_binit : after (exec (.binit 4 5 .strand false) (running fun x => { x with g := [(4, window 64), (5, 3)] }))
    (fun t => parseBar (t.readNum (scratchAddr 0 64) 64) == ⟨3, 0, false, 0, 0, 0⟩) = true := by decide +kernel
theorem test_wake_both : after (exec (.wake 0) (running id)) (fun t => (t.strand 0).wakes == 1 && (t.strand 1).wakes == 1) = true := by
  decide +kernel
theorem test_reset_boot_fails : after (step State.reset) (fun t => t.boot == .failed && t.out == [.bootFailed]) = true := by
  decide +kernel
theorem test_placed_word_runs : after (step (State.reset.withFetchWord 32 0x08D00003)) (fun t => (t.strand 0).getG 13 == 3) = true := by
  decide +kernel

/-! ## Witnesses: states and operands that meet the hypotheses of the statements -/

theorem clean_of (x : Strand) (h1 : x.vp = []) (h2 : x.tp = []) : x.Clean :=
  ⟨fun n => by rw [h1]; rfl, fun n => by rw [h2]; rfl⟩

theorem ready_of (s : State) (fs : List Nat) (h1 : s.me.vp = []) (h2 : s.me.tp = [])
    (h : (!s.tooLong fs && decide (s.me.vstart.toNat < s.me.vl.toNat) && s.me.upsets.isEmpty) = true) : s.VectorReady fs := by
  simp only [Bool.and_eq_true, Bool.not_eq_true', decide_eq_true_eq, List.isEmpty_iff] at h
  exact ⟨h.1.1, h.1.2, clean_of _ h1 h2, fun c => by simp [Strand.mismatches, h.2]⟩

theorem healthy_of (s : State) (h1 : s.badChannels = []) (h2 : s.hostUp = true) (h3 : s.dies = []) : s.Healthy :=
  ⟨h1, h2, fun g => by simp [State.die, h3]; rfl⟩

/-- A check that passes, with `p` of what it reaches. -/
theorem ok_of {x : Chk α} (p : α → Bool) (h : (match x with | .ok a => p a | .fail _ => false | .wait _ => false) = true) :
    ∃ a, x = .ok a ∧ p a = true := by
  cases x with
  | ok a => exact ⟨a, rfl, h⟩
  | fail f => simp at h
  | wait w => simp at h

/-- What a walk into the scratchpad of core 0 reaches. -/
def padHit (a n : Nat) : Hit := ⟨.bytes (bytePieces (scratchAddr 0 a) n), [], [], []⟩

/-- The base of most witnesses. -/
def plain : State := running fun x => { x with g := [(4, window 0), (5, 3)] }

theorem plain_healthy : plain.Healthy := healthy_of _ rfl rfl rfl
theorem plain_settled : plain.Settled := by decide +kernel

theorem witness_RegisterArithmetic : plain.Settled ∧ plain.OwnTrap 2 := by decide +kernel
theorem witness_MultiplyDivide : plain.Settled ∧ plain.OwnTrap 2 := by decide +kernel
theorem witness_BitOperations : plain.Settled ∧ plain.OwnTrap 2 := by decide +kernel

theorem witness_LoadsComplete : plain.Settled ∧ plain.walk (plain.agentOf 0) .scalarLoad plain.myHolds (window 0) 8 0 64 = .ok (padHit 0 8)
    ∧ plain.piecesWait (bytePieces (scratchAddr 0 0) 8) (some 0) = false
    ∧ (plain.eccPieces (bytePieces (scratchAddr 0 0) 8)).piecesPoisoned (bytePieces (scratchAddr 0 0) 8) = false := by decide +kernel

/-- A table of 16 records at the start of LPDDR-6 with `r` as record 1, and residency entries behind it. -/
def withTable (s : State) (r es : List Word) : State :=
  { s with mem := putBytes (putBytes s.mem (loadBase + 64) (ofWords r)) (loadBase + 4096) (ofWords es) }

/-- A strand with that table. -/
def tabled (f : Strand → Strand) (r es : List Word) : State :=
  withTable (running fun x => f { x with ortb := BitVec.ofNat 64 (4 * 2 ^ 56 + loadBase) }) r es

/-- The control register object of die 0 (R300): KIND 10, U64, 131,072 elements, R and W. -/
def ctrlObject : List Word := [BitVec.ofNat 64 (2 ^ 63 + 2 * 2 ^ 22 + 2 ^ 14 + 0xD * 2 ^ 8 + 3), 131072, 0, 0, 0, 0, 0, 0]

/-- A strand at a control register object, whose offset 0x20000 is ABUDGET. -/
def atControl : State := tabled (fun x => { x with g := [(4, 0x10000020000)] }) ctrlObject []

theorem witness_LoadsComplete_control : atControl.Settled
    ∧ atControl.walk (atControl.agentOf 0) .scalarLoad atControl.myHolds 0x10000020000 8 0 64 = .ok ⟨.ctrl 0 0x20000, [], [], []⟩
    ∧ after (exec (.ldd 3 4 0) atControl) (fun t => t.me.getG 3 == 560) = true := by decide +kernel

theorem witness_WindowAccesses : plain.Settled ∧ plain.InWindow (window 0) 8 ∧ plain.poisoned (plain.windowAt (window 0)) = false := by
  decide +kernel

theorem witness_StoresComplete : plain.Settled ∧ plain.Healthy
    ∧ plain.walk (plain.agentOf 0) .scalarStore plain.myHolds (window 0) 8 0 64 = .ok (padHit 0 8)
    ∧ plain.piecesWait (bytePieces (scratchAddr 0 0) 8) (some 0) = false ∧ plain.me.posted = 0 :=
  ⟨plain_settled, plain_healthy, by decide +kernel⟩

theorem witness_AtomicsComplete : plain.Settled ∧ plain.me.posted = 0 ∧ plain.poisoned (plain.windowAt (window 0)) = false
    ∧ plain.InWindow (window 0) 4 ∧ plain.InWindow (window 0) 8 := by decide +kernel

/-- g4 one byte behind the scratchpad. -/
def outside : State := running fun x => { x with g := [(4, window 2097152)] }
/-- g4 misaligned in a window. -/
def skewed : State := running fun x => { x with g := [(4, window 1)] }
/-- g4 at object 0. -/
def nowhere : State := running fun x => { x with g := [(4, 5)] }

theorem witness_AccessTraps : outside.Settled ∧ (Fail.plain 6).recorded = false ∧ outside.OwnTrap 6
    ∧ outside.walk (outside.agentOf 0) .scalarLoad outside.myHolds (window 2097152) 8 0 64 = .fail (.plain 6)
    ∧ outside.walk (outside.agentOf 0) .scalarStore outside.myHolds (window 2097152) 8 0 64 = .fail (.plain 6)
    ∧ objNum (nowhere.me.getG 4) = 0 ∧ nowhere.OwnTrap 8
    ∧ isWindow (skewed.me.getG 4) = true ∧ objOff (skewed.me.getG 4) % 8 ≠ 0 ∧ skewed.OwnTrap 5 := by decide +kernel

/-- The window's first line carries poison. -/
def spoilt : State := { plain with poison := [(scratchAddr 0 0 / 64, true)] }
def poisonFound (acc : Acc) : Bool :=
  match spoilt.walk (spoilt.agentOf 0) acc spoilt.myHolds (window 0) 8 0 64 with
  | .ok h => match h.reach with
    | .bytes ps => !spoilt.piecesWait ps (some 0) && ((spoilt.allocateAll h.allocs).eccPieces ps).piecesPoisoned ps
    | _ => false
  | _ => false

theorem witness_AccessTraps_poisoned : spoilt.Settled ∧ spoilt.me.posted = 0 ∧ spoilt.OwnTrap 9 ∧ poisonFound .scalarLoad = true
    ∧ poisonFound .scalarAtomic = true
    ∧ after (exec (.ldd 3 4 0) spoilt) (fun t => t.me.tcause == 9 && t.me.tval == window 0) = true
    ∧ after (exec (.ataddD 3 4 5 .die false false) spoilt) (fun t => t.me.tcause == 9 && t.me.tval == window 0) = true := by
  decide +kernel

/-- A farm strand of context 0 at pc 0. -/
def farming (f : Strand → Strand) : State := running fun x => f { x with pc := 0, vfarm := 0x8000000000000000 }

theorem witness_BranchesAndJumps : plain.Settled ∧ plain.me.inFarm = false ∧ (window 0).toNat % 4 = 0
    ∧ skewed.Settled ∧ (skewed.me.getG 4).toNat % 4 ≠ 0 ∧ skewed.OwnTrap 5
    ∧ (farming id).Settled ∧ (farming id).me.inFarm = true ∧ (farming id).me.pc + 4 * (0 : BitVec 15).signExtend 64 = 0
    ∧ (farming id).me.getG 4 = 0 ∧ (farming id).me.supervisor = true ∧ (farming id).me.tpc = 0
    ∧ (farming fun x => { x with g := [(4, 1)] }).me.getG 4 ≠ (farming fun x => { x with g := [(4, 1)] }).me.getG 0 := by decide +kernel

theorem witness_ControlRegisters : plain.Settled ∧ plain.me.supervisor = true ∧ crAssigned 0x040 = true ∧ crMask 0x040 = some 0x8E
    ∧ plain.crRead 0x040 &&& ~~~ ((0x8E : Word) ||| crKept 0x040) = 0 := by decide +kernel

/-- A strand in user mode. -/
def user : State := running fun x => { x with sstat := 0, g := [(4, window 0)] }

theorem witness_Privileges : user.Settled ∧ crAssigned 0x00A = false ∧ user.OwnTrap 1 ∧ user.me.supervisor = false ∧ user.OwnTrap 3
    ∧ after (exec (.crw 3 4 0x045) user) (fun t => t.me.tcause == 3 && t.me.tvec == 0) = true := by decide +kernel

/-- A strand in supervisor mode with TM set. -/
def masked : State := running fun x => { x with sstat := 7 }

theorem witness_CallsAndReturns : plain.Settled ∧ plain.OwnTrap 0x0C ∧ plain.OwnTrap 0x0D
    ∧ masked.Settled ∧ masked.me.supervisor = true ∧ masked.me.tm = true ∧ masked.me.inFarm = false
    ∧ (plain.me.getG 4).toNat % 4 = 0 ∧ (skewed.me.getG 4).toNat % 4 ≠ 0 ∧ skewed.OwnTrap 5 ∧ plain.me.tpc.toNat % 4 = 0
    ∧ (running fun x => { x with tpc := 2 }).me.tpc.toNat % 4 ≠ 0 ∧ (running fun x => { x with tpc := 2 }).OwnTrap 5
    ∧ after (exec .brk masked) (fun t => t.me.st == .idle && (t.die 0).dmseq == 1) = true := by decide +kernel

/-- A waiting doze with a limit that has passed, an unmasked request, and a raise. -/
def dozing : State := { running fun x => { x with g := [(4, 5)], st := .wait, held := true } with now := 5 }
def asked : State := running fun x => { x with preq := true }
def woken : State := running fun x => { x with wakes := 2 }

theorem witness_EventsOfStrands : plain.Settled ∧ (plain.me.getG 5).toNat < 4 ∧ ¬ (plain.me.getG 4).toNat < 4 ∧ plain.OwnTrap 6
    ∧ asked.Settled ∧ asked.me.preq = true ∧ asked.me.tm = false ∧ woken.Settled ∧ woken.me.preq = false ∧ 0 < woken.me.wakes
    ∧ dozing.Settled ∧ dozing.me.preq = false ∧ dozing.me.wakes = 0 ∧ dozing.me.held = true ∧ dozing.me.getG 4 ≠ 0
    ∧ dozing.me.heldAt + (dozing.me.getG 4).toNat ≤ dozing.now ∧ plain.me.wakes = 0 ∧ plain.me.held = false := by decide +kernel

theorem witness_StrandControl : plain.Settled ∧ plain.me.supervisor = true ∧ 64 ≤ (plain.me.getG 4).toNat ∧ plain.OwnTrap 6
    ∧ (plain.me.getG 5).toNat < 64 ∧ (plain.strand 3).st = .idle ∧ 3 ≠ plain.cur ∧ (plain.strand 3).inFarm = false
    ∧ (plain.me.getG 0).toNat % 4 = 0 ∧ plain.me.st ≠ .idle ∧ plain.me.st ≠ .svcwait
    ∧ after (exec (.sstart 1 5 4) plain) (fun t => (t.strand 3).st == .run && t.me.getG 1 == 0) = true := by decide +kernel


/-! ### Accesses behind a table -/

theorem lpddr_region (s : State) (a : Nat) (h1 : 2199023255552 ≤ a) (h2 : a < 2199023255552 + 2048000000000) : s.region a ≠ none := by
  unfold State.region
  rw [if_neg (by omega), if_pos ⟨h1, h2⟩]
  simp

/-- An object of two linear sub-tiles of 4,096 bytes (R299), and where its first one may be put in LPDDR-6. -/
def twoTiles : List Word :=
  [BitVec.ofNat 64 (2 ^ 63 + 12 * 2 ^ 17 + 2 ^ 14 + 0xA * 2 ^ 8 + 3), 8192, 0, 0, 0, 0, BitVec.ofNat 64 (loadBase + 4096), 0]
def place0 : Nat := loadBase + 0x200000
/-- A strand whose g4 names byte 8 of it, its first entry as given. -/
def filling (state : Nat) : State :=
  tabled (fun x => { x with g := [(4, 0x10000000008), (5, 3)] }) twoTiles
    [BitVec.ofNat 64 (if state = 0 then 0 else place0 * 2 ^ 16 + state), 0]
/-- What a store there reaches, the sub-tile's fill with it. -/
def fillAlloc : Alloc := ⟨loadBase + 4096, parseRec twoTiles, place0⟩

theorem healthy_running (s : State) (h1 : s.badChannels = []) (h2 : s.hostUp = true) (h3 : s.dies = []) : s.Healthy := healthy_of s h1 h2 h3

theorem witness_StoresComplete_fill : (filling 1).Settled ∧ (filling 1).Healthy
    ∧ (match (filling 1).walk ((filling 1).agentOf 0) .scalarStore (filling 1).myHolds 0x10000000008 8 0 64 with
        | .ok h => decide (h.reach = .bytes (bytePieces (place0 + 8) 8)) && decide (h.allocs = [fillAlloc])
        | _ => false) = true
    ∧ (filling 1).piecesWait (bytePieces (place0 + 8) 8) (some 0) = false ∧ ((filling 1).readEnt (loadBase + 4096)).state = 1
    ∧ fillAlloc.record.ranges place0 = [(place0, 4096)] ∧ (∀ i, i < 4096 → (filling 1).region (place0 + i) ≠ none)
    ∧ ∀ i, i < 16 → (filling 1).region (loadBase + 4096 + i) ≠ none
      ∧ (bytePieces (place0 + 8) 8).all (fun q => !q.reaches (loadBase + 4096 + i)) = true
      ∧ (loadBase + 4096 + i < place0 ∨ place0 + 4096 ≤ loadBase + 4096 + i) :=
  ⟨by decide +kernel, healthy_of _ rfl rfl rfl, by decide +kernel, by decide +kernel, by decide +kernel, by decide +kernel,
    fun i hi => lpddr_region _ _ (by unfold place0 loadBase; omega) (by unfold place0 loadBase; omega),
    fun i hi => ⟨lpddr_region _ _ (by simp [loadBase]; omega) (by simp [loadBase]; omega), by
      revert i; decide +kernel, by unfold place0 loadBase; omega⟩⟩

/-- An ABSENT sub-tile: the failure leaves a fault record. -/
theorem witness_AccessTraps_recorded : (filling 0).Settled ∧ (filling 0).Healthy ∧ (filling 0).OwnTrap 7
    ∧ (match (filling 0).walk ((filling 0).agentOf 0) .scalarLoad (filling 0).myHolds 0x10000000008 8 0 64 with
        | .fail f => f.recorded && f.cause == 7 && decide (f.flags < 256)
        | _ => false) = true
    ∧ after (exec (.ldd 3 4 0) (filling 0)) (fun t => t.me.tcause == 7 && t.me.tval == 0x10000000008 && (t.die 0).fqseq == 1
        && (t.die 0).fqovf == false && t.readNum 0 1 == 7) = true :=
  ⟨by decide +kernel, healthy_of _ rfl rfl rfl, by decide +kernel⟩

/-- A farm strand about to leave with a strip, worked to its end at `e` or not. -/
def leaving (e : Word) : State :=
  { farming fun x => { x with strip := true, vbase := 100, vl := 10, vsend := e } with
    dies := [(0, { DieState.reset with
      farms := [(0, some { newFarm 1000 0 1 0 0 0 .die (State.reset.agentOf 0) [] with next := 130, out := 1 })] })] }
def farmZero (s : State) (p : Farm → Bool) : Bool := ((s.die 0).farms.get none 0).any p

theorem witness_BranchesAndJumps_strip : (leaving 130).Settled ∧ (leaving 130).me.inFarm = true ∧ (leaving 130).me.strip = true
    ∧ (leaving 130).me.stripOf = (leaving 130).me.fctx ∧ farmZero (leaving 130) (fun f => !f.arrived) = true
    ∧ (leaving 130).me.pc + 4 * (0 : BitVec 15).signExtend 64 = 0
    ∧ after (exec (.beq 0 0 0) (leaving 130)) (fun t => t.me.st == .idle
        && farmZero t fun f => f.out == 0 && f.returned == [(100, 130)]) = true
    ∧ after (exec (.beq 0 0 0) (leaving 110)) (fun t => farmZero t fun f => f.out == 0 && f.returned == []) = true := by decide +kernel

/-- Register `n` written with `w` by crw from g4, in supervisor mode or not. -/
def writing (sstat w : Word) : State := running fun x => { x with sstat := sstat, g := [(4, w)], t := [(0, 5)], tp := [(0, true)] }

theorem witness_ControlRegisters_rules : (writing 0 0x888).me.supervisor = false ∧ crAssigned 1 = true ∧ crMask 1 = some 0x3FFFF
    ∧ (writing 0 0x888).crRead 1 &&& ~~~ ((0x3FFFF : Word) ||| crKept 1) = 0 ∧ (writing 0 1).me.tcfg.get 0 0 ≠ 1 &&& 0xF01FFFF
    ∧ after (exec (.crw 3 4 0x001) (writing 0 0x888)) (fun t => t.me.vtype == 0x888) = true
    ∧ after (exec (.crw 3 4 0x030) (writing 0 1)) (fun t => t.me.t.get 0 0 == 0 && !t.me.tp.get false 0) = true
    ∧ after (exec (.crw 3 4 0x000) (writing 1 65537)) (fun t => t.me.vl == 65536) = true
    ∧ after (exec (.crw 3 4 0x009) (writing 1 65)) (fun t => t.crRead 9 == 64) = true
    ∧ after (exec (.crw 3 4 0x006) (writing 1 0x0F)) (fun t => t.crRead 6 == 0x0F0F || wbits (t.crRead 6) 0 8 == 0x0F) = true := by
  decide +kernel
/-! ### Vector instructions -/

/-- A strand with formats `t`, `n` elements and addresses in its scratchpad. -/
def vec (t : Word) (n : Nat) : State := running fun x =>
  { x with vtype := t, vl := BitVec.ofNat 64 n, vspace := 1, g := [(4, 64), (5, 4), (6, 0xE)] }

theorem vec_clean (t : Word) (n : Nat) : (vec t n).me.Clean := clean_of _ rfl rfl

/-- A farm of 1,000 strips on core 0, 130 of them taken, changed by `f`, and a strand in it with the strip [100, `e`), of which
it has worked [100, 110). -/
def farmOn (f : Farm → Farm) : Farm := f { newFarm 1000 0 1 0 0 0 .die (State.reset.agentOf 0) [] with next := 130, out := 1 }
def stripOn (n : Word) (e : Word) (f : Farm → Farm) : State :=
  { running fun x => { x with vfarm := 0x8000000000000000, vtype := 0x888, vl := 10, vbase := 100, vsend := e, strip := true, g := [(4, n)] } with
    dies := [(0, { DieState.reset with farms := [(0, some (farmOn f))] })] }
def strip : State := stripOn 1000 130 id

theorem witness_SetLength : (vec 0x888 4).Settled ∧ (vec 0x888 4).me.preq = false ∧ (vec 0x888 4).me.inFarm = false
    ∧ (0x888 : Word).toNat % 16 ≠ 0xE ∧ (0x888 : Word).toNat % 16 ≠ 0xF
    ∧ asked.Settled ∧ asked.me.preq = true ∧ asked.me.tm = false ∧ asked.OwnTrap 0x0B
    ∧ (vec 0x88E 4).Settled ∧ (vec 0x88E 4).me.preq = false ∧ (vec 0x88E 4).OwnTrap 4 ∧ (vec 0x88E 4).me.vtype.toNat % 16 = 0xE
    ∧ ((vec 0x888 4).me.getG 6).toNat % 16 = 0xE := by decide +kernel

/-- The farm a strand is in, and its first words after a vsetl. -/
def farmIs (t : State) (f : Farm → Farm) : Bool := (t.die 0).farms.get none 0 == some (farmOn f)

abbrev farmReady (s : State) : Prop := s.Settled ∧ s.me.preq = false ∧ s.me.inFarm = true ∧ s.me.df ≠ 0xE ∧ s.me.df ≠ 0xF
    ∧ s.me.vtype.toNat < 2 ^ 18 ∧ (s.core 0).heldAfter 0 = (s.core 0).own 0 ∧ s.me.strip = true ∧ s.me.stripOf = s.me.fctx

theorem witness_SetLength_farm : farmReady strip ∧ strip.me.vbase.toNat + strip.me.vl.toNat < strip.me.vsend.toNat
    ∧ farmReady (stripOn 1000 110 id) ∧ farmReady (stripOn 0 110 id) ∧ (farmOn id).next < (farmOn id).total
    ∧ after (exec (.vsetl 12 4) strip) (fun t => t.me.vl == 20 && t.me.vbase == 110 && farmIs t id) = true
    ∧ after (exec (.vsetl 12 4) (stripOn 1000 110 id)) (fun t => t.me.vl == 870 && t.me.vbase == 130 && t.me.vsend == 1000
        && farmIs t fun f => { f with next := 1000 }) = true
    ∧ after (exec (.vsetl 12 4) (stripOn 1000 110 fun f => { f with returned := [(5, 9), (20, 30)] })) (fun t => t.me.vl == 4
        && t.me.vbase == 5 && farmIs t fun f => { f with returned := [(20, 30)] }) = true
    ∧ after (exec (.vsetl 12 4) (stripOn 0 110 id)) (fun t => t.me.vl == 0 && !t.me.strip && t.me.vgrant == 1
        && farmIs t fun f => { f with out := 0 }) = true
    ∧ after (exec (.vsetl 12 4) (stripOn 1000 110 fun f => { f with next := 1000 })) (fun t => t.me.vl == 0 && !t.me.strip
        && t.me.vgrant == 5 && farmIs t fun f => { f with next := 1000, out := 0 }) = true
    ∧ (farmOn id).cleared.getLsbD 0 = false
    ∧ after (exec (.vsetl 12 4) (stripOn 1000 110 fun f => { f with cleared := 1 })) (fun t => t.me.vl == 0 && t.me.vgrant == 5
        && farmIs t fun f => { f with cleared := 1, out := 0 }) = true
    ∧ after (exec (.vsetl 12 4) (stripOn 1000 110 fun f => { f with mask := 2 })) (fun t => t.me.vl == 870) = true
    ∧ after (exec (.vsetl 12 4) { strip with dies := [] }) (fun t => t.me.vl == 0 && t.me.vgrant == 5 && t.me.vbase == 130
        && t.me.strip) = true := by decide +kernel

/-- The places of an access's elements and their checks, judged by `p`. -/
def scanned (s : State) (m : VMode) (a : GReg) (writes : Bool) (p : List Passed → Bool) : Bool :=
  match s.places m a 0 writes with
  | .error _ => false
  | .ok l =>
    let w := fmtBits s.me.df
    let c := scanElems (s.checkElem (accVec writes m.ordered) (if w < 8 then 1 else w / 8) w) [] l
    c.2.isNone && p c.1

theorem witness_VectorLoads : (vec 0x888 4).Settled ∧ (vec 0x888 4).me.vstart.toNat < (vec 0x888 4).me.vl.toNat
    ∧ ∀ m ∈ ([.unit false, .unit true, .strided 5] : List VMode), (vec 0x888 4).vmemChecks m = none
      ∧ scanned (vec 0x888 4) m 4 false (fun l => l.length == 4 && !(vec 0x888 4).piecesWait (l.flatMap Passed.pieces) (some 0)
        && l.all fun e => !((vec 0x888 4).eccAll l).piecesPoisoned e.pieces) = true := by decide +kernel

theorem witness_VectorLoads_indexed : ∀ m ∈ ([.indexed 2 false, .indexed 2 true] : List VMode), (vec 0x228 4).vmemChecks m = none
    ∧ scanned (vec 0x228 4) m 4 false (fun l => l.length == 4 && !(vec 0x228 4).piecesWait (l.flatMap Passed.pieces) (some 0)
      && l.all fun e => !((vec 0x228 4).eccAll l).piecesPoisoned e.pieces) = true := by decide +kernel

/-- A linear FP32 object of 64 elements, a physical window behind its record (R299, R300). -/
def gridObject : List Word := [BitVec.ofNat 64 (2 ^ 63 + 3 * 2 ^ 22 + 2 ^ 14 + 8 * 2 ^ 8 + 0x17), 64, 0, 0, 0, 0, BitVec.ofNat 64 (loadBase + 4096), 0]
def vecGrid : State := tabled (fun x => { x with vtype := 0x888, vl := 3, g := [(4, 0x10000000000), (5, 3)] }) gridObject []

theorem witness_VectorLoads_coordinate : vecGrid.Settled ∧ vecGrid.vmemChecks (.coord 5) = none
    ∧ scanned vecGrid (.coord 5) 4 false (fun l => l.length != 0 && !vecGrid.piecesWait (l.flatMap Passed.pieces) (some 0)
      && l.all fun e => !(vecGrid.eccAll l).piecesPoisoned e.pieces) = true := by decide +kernel

theorem witness_VectorStores : (vec 0x888 4).Settled ∧ (vec 0x888 4).Healthy ∧ (vec 0x888 4).me.Clean
    ∧ (vec 0x888 4).me.vstart.toNat < (vec 0x888 4).me.vl.toNat ∧ ∀ m ∈ ([.unit false, .unit true, .strided 5] : List VMode),
      (vec 0x888 4).vmemChecks m = none ∧ scanned (vec 0x888 4) m 4 true (fun l => l.length == 4
        && !(vec 0x888 4).piecesWait (l.flatMap Passed.pieces) (some 0) && l.all fun e => e.allocs.isEmpty) = true :=
  ⟨by decide +kernel, healthy_of _ rfl rfl rfl, vec_clean _ _, by decide +kernel⟩

theorem witness_ScaleMoves : (vec 0x888 4).Settled ∧ (vec 0x888 4).me.space = 1
    ∧ (vec 0x888 4).me.vstart.toNat < (vec 0x888 4).me.scaleCount ∧ (vec 0x888 4).me.scaleCount = 1
    ∧ ((vec 0x888 4).me.getG 4 + BitVec.ofNat 64 0 * 1).toNat < 2097152
    ∧ (vec 0x888 4).poisoned (scratchAddr 0 ((vec 0x888 4).me.getG 4).toNat) = false := by decide +kernel

theorem witness_VectorAtomics : (vec 0x222 1).Settled ∧ (vec 0x222 1).me.space = 1 ∧ (vec 0x222 1).me.df = 2 ∧ (vec 0x222 1).me.bf = 2
    ∧ (vec 0x222 1).tooLong [2] = false ∧ (vec 0x222 1).me.vstart.toNat < (vec 0x222 1).me.vl.toNat
    ∧ (let q := ((vec 0x222 1).me.getG 4 + BitVec.ofInt 64 (intValue 2 ((vec 0x222 1).me.elem 2 2 0) * 4)).toNat
       q % 4 = 0 ∧ q + 4 ≤ 2097152 ∧ (vec 0x222 1).poisoned (scratchAddr 0 q) = false) := by decide +kernel

/-- A strand with `n` FP32 elements and scratchpad address `a` in g4, changed by `f`. -/
def vecAt (a : Word) (n : Nat) (f : Strand → Strand) : State := running fun x =>
  f { x with vtype := 0x888, vl := BitVec.ofNat 64 n, vspace := 1, g := [(4, a), (5, 4)] }
/-- The check of a unit-stride access stops at element `j`, behind it or at the first. -/
def stopsAt (s : State) (writes : Bool) (j n : Nat) : Bool :=
  match s.places (.unit false) 4 0 writes with
  | .error _ => false
  | .ok l =>
    let c := scanElems (s.checkElem (accVec writes false) 4 32) [] l
    c.1.length == n && !s.piecesWait (c.1.flatMap Passed.pieces) (some 0) && match c.2 with
      | some (.fail i f u) => i == j && !f.recorded && f.cause == 6 && u == BitVec.ofNat 64 2097152
      | _ => false

/-- Trims behind the second element, traps at the first, and poison from and to lines. -/
theorem witness_VectorLoads_trims : (vecAt 2097144 4 id).vmemChecks (.unit false) = none ∧ (vecAt 2097144 4 id).preemptDue 0 = false
    ∧ stopsAt (vecAt 2097144 4 id) false 2 2 = true ∧ stopsAt (vecAt 2097152 4 id) false 0 0 = true ∧ (vecAt 2097152 4 id).OwnTrap 6
    ∧ (vecAt 64 0 id).me.vl.toNat ≤ (vecAt 64 0 id).me.vstart.toNat
    ∧ after (exec (.vld 1 4 0 false false) (vecAt 2097144 4 id)) (fun t => t.me.vl == 2 && t.me.pc == 4100) = true
    ∧ after (exec (.vld 1 4 0 false false) (vecAt 2097152 4 id)) (fun t => t.me.tcause == 6 && t.me.tval == 2097152) = true
    ∧ after (exec (.vld 1 4 0 false false) (vecAt 64 0 fun x => { x with vstart := 3 })) (fun t => t.me.vstart == 0 && t.me.pc == 4100) = true
    ∧ after (exec (.vld 1 4 0 false false) (vecAt 64 4 fun x => { x with failAt := some 3 })) (fun t => t.me.vl == 3 && t.me.failAt.isNone) = true
    ∧ after (exec (.vld 1 4 0 false false) { vecAt 64 4 id with poison := [(scratchAddr 0 64 / 64, true)] })
        (fun t => t.me.vp.get false 64) = true := by decide +kernel

theorem witness_VectorStores_trims : (vecAt 2097144 4 id).Settled ∧ stopsAt (vecAt 2097144 4 id) true 2 2 = true
    ∧ stopsAt (vecAt 2097152 4 id) true 0 0 = true ∧ (vecAt 2097152 4 id).OwnTrap 6 ∧ (vecAt 64 4 fun x => { x with vp := [(64, true)] }).me.elemPoison 1 8 0 = true
    ∧ after (exec (.vst 1 4 0 false false) (vecAt 2097144 4 fun x => { x with v := [(32768, 7)] }))
        (fun t => t.me.vl == 2 && t.readByte (scratchAddr 0 2097144) == 7) = true
    ∧ after (exec (.vst 1 4 0 false false) (vecAt 64 4 fun x => { x with vp := [(64, true)] }))
        (fun t => t.poison.get false (scratchAddr 0 64 / 64)) = true := by decide +kernel

theorem witness_ScaleMoves_trims : (vecAt 2097151 16 id).me.scaleCount = 2 ∧ (vecAt 2097151 16 id).me.bl = 8
    ∧ (vecAt 2097151 16 id).me.vstart.toNat < 1 ∧ ((vecAt 2097151 16 id).me.getG 4 + BitVec.ofNat 64 0 * 1).toNat < 2097152
    ∧ 2097152 ≤ ((vecAt 2097151 16 id).me.getG 4 + BitVec.ofNat 64 1 * 1).toNat ∧ (vecAt 2097151 16 id).preemptDue 0 = false
    ∧ 2097152 ≤ ((vecAt 2097152 16 id).me.getG 4 + BitVec.ofNat 64 (vecAt 2097152 16 id).me.vstart.toNat * 1).toNat
    ∧ (vecAt 64 0 id).me.scaleCount ≤ (vecAt 64 0 id).me.vstart.toNat
    ∧ after (exec (.vlde 3 4) (vecAt 2097151 16 id)) (fun t => t.me.vl == 8 && t.me.pc == 4100) = true
    ∧ after (exec (.vste 3 4) (vecAt 2097152 16 id)) (fun t => t.me.tcause == 6 && t.me.tval == 2097152) = true := by decide +kernel

/-- Element `i` of v2 names word 2^19, the first one beyond the scratchpad. -/
def atomAt (n i : Nat) : State := running fun x =>
  { x with vtype := 0x222, vl := BitVec.ofNat 64 n, vspace := 1, v := [(65536 + 4 * i + 2, 8)] }

theorem witness_VectorAtomics_trims : (atomAt 2 1).Settled ∧ (atomAt 2 1).me.Active 0 0 ∧ (atomAt 2 1).me.Active 0 1 ∧ (atomAt 2 1).preemptDue 0 = false
    ∧ ((atomAt 2 1).me.getG 4 + BitVec.ofInt 64 (intValue 2 ((atomAt 2 1).me.elem 2 2 1) * 4)).toNat = 2097152
    ∧ (atomAt 1 0).me.Active 0 0 ∧ (atomAt 1 0).OwnTrap 6
    ∧ ((atomAt 1 0).me.getG 4 + BitVec.ofInt 64 (intValue 2 ((atomAt 1 0).me.elem 2 2 0) * 4)).toNat = 2097152
    ∧ after (exec (.vatadd 1 4 2 0 false) (atomAt 2 1)) (fun t => t.me.vl == 1 && t.me.pc == 4100) = true
    ∧ after (exec (.vatadd 1 4 2 0 false) (atomAt 1 0)) (fun t => t.me.tcause == 6 && t.me.tval == 2097152) = true := by decide +kernel

theorem witness_VectorIntegers : (vec 0x222 4).Settled ∧ (vec 0x222 4).me.intFormats = true
    ∧ (vec 0x222 4).VectorReady (fmts2 (vec 0x222 4).me (.vv 3) true) :=
  ⟨by decide +kernel, by decide +kernel, ready_of _ _ rfl rfl (by decide +kernel)⟩
theorem witness_VectorBits : (vec 0x222 4).Settled ∧ (vec 0x222 4).VectorReady (fmts2 (vec 0x222 4).me (.vs 5) true)
    ∧ (vec 0x222 4).me.bitFormats = true ∧ (vec 0x222 4).me.shiftFormats = true :=
  ⟨by decide +kernel, ready_of _ _ rfl rfl (by decide +kernel), by decide +kernel⟩
theorem witness_VectorFloats : (vec 0x888 4).Settled ∧ (vec 0x888 4).me.floatFormats = true
    ∧ (vec 0x888 4).VectorReady (fmts2 (vec 0x888 4).me (.vv 3) true) ∧ (vec 0x888 4).me.float1Formats = true
    ∧ (vec 0x888 4).VectorReady [(vec 0x888 4).me.af, (vec 0x888 4).me.df] ∧ (vec 0x888 4).me.signFormats = true :=
  ⟨by decide +kernel, by decide +kernel, ready_of _ _ rfl rfl (by decide +kernel), by decide +kernel,
    ready_of _ _ rfl rfl (by decide +kernel), by decide +kernel⟩
theorem witness_VectorCompares : (vec 0x222 4).VectorReady (fmts2 (vec 0x222 4).me (.vi 3) false) ∧ (vec 0x222 4).me.intCompare = true
    ∧ (vec 0x888 4).VectorReady (fmts2 (vec 0x888 4).me (.vv 3) false) ∧ (vec 0x888 4).me.floatCompare = true :=
  ⟨ready_of _ _ rfl rfl (by decide +kernel), by decide +kernel, ready_of _ _ rfl rfl (by decide +kernel), by decide +kernel⟩
theorem witness_VectorMoves : (vec 0x888 4).me.moveFormats = true ∧ (vec 0x888 4).VectorReady [8]
    ∧ (vec 0x868 4).me.convertFormats = true ∧ (vec 0x868 4).VectorReady [6, 8]
    ∧ (vec 0x889 4).me.quantFormats = true ∧ (vec 0x889 4).me.scalesFit = true ∧ (vec 0x889 4).VectorReady [8, 9]
    ∧ (vec 0x898 4).me.dequantFormats = true ∧ (vec 0x898 4).me.scalesFit = true ∧ (vec 0x898 4).VectorReady [9, 8] :=
  ⟨by decide +kernel, ready_of _ _ rfl rfl (by decide +kernel), by decide +kernel, ready_of _ _ rfl rfl (by decide +kernel),
    by decide +kernel, by decide +kernel, ready_of _ _ rfl rfl (by decide +kernel), by decide +kernel, by decide +kernel,
    ready_of _ _ rfl rfl (by decide +kernel)⟩
theorem witness_BlockFormats : (vec 0x889 4).me.vstart = 0 ∧ (vec 0x889 4).me.quantFormats = true ∧ (vec 0x889 4).VectorReady [8, 9]
    ∧ dotPair 0 10 = true ∧ (vec 0xA02 4).VectorReady [0, 10] ∧ (vec 0xA02 4).me.actives 0 ≠ [] ∧ (vec 0xA02 4).me.df = 2
    ∧ dotPair 4 5 = true ∧ (vec 0x548 4).VectorReady [4, 5] ∧ (vec 0x548 4).me.df = 8 ∧ (vec 0x548 4).me.scalesFit = true :=
  ⟨by decide +kernel, by decide +kernel, ready_of _ _ rfl rfl (by decide +kernel), by decide +kernel,
    ready_of _ _ rfl rfl (by decide +kernel), by decide +kernel, by decide +kernel, by decide +kernel,
    ready_of _ _ rfl rfl (by decide +kernel), by decide +kernel⟩
theorem witness_Permutations : (vec 0x222 4).Settled ∧ (vec 0x222 4).me.moveFormats = true ∧ (vec 0x222 4).VectorReady [2]
    ∧ isInt (vec 0x222 4).me.bf = true ∧ (vec 0x222 4).VectorReady [2, 2] ∧ isInt (vec 0x222 4).me.df = true
    ∧ (vec 0x222 4).me.vstart = 0 :=
  ⟨by decide +kernel, by decide +kernel, ready_of _ _ rfl rfl (by decide +kernel), by decide +kernel,
    ready_of _ _ rfl rfl (by decide +kernel), by decide +kernel⟩
theorem witness_MaskInstructions : (vec 0xCCC 4).me.vstart = 0 ∧ isInt (vec 0xCCC 4).me.bf = true ∧ (vec 0xCCC 4).VectorReady [12, 12]
    ∧ (vec 0xCCC 4).me.df ∈ [2, 3, 0xC, 0xD] ∧ (vec 0xCCC 4).VectorReady [12] ∧ (vec 0xCCC 4).me.moveFormats = true
    ∧ (vec 0xCCC 4).tooLong [12] = false :=
  ⟨by decide +kernel, by decide +kernel, ready_of _ _ rfl rfl (by decide +kernel), by decide +kernel,
    ready_of _ _ rfl rfl (by decide +kernel), by decide +kernel⟩
theorem witness_Reductions : (vec 0x222 4).me.vstart = 0 ∧ (vec 0x222 4).me.actives 0 ≠ [] ∧ (vec 0x222 4).VectorReady [2]
    ∧ isInt (vec 0x222 4).me.af = true ∧ isInt (vec 0x222 4).me.df = true ∧ (vec 0x888 4).VectorReady [8]
    ∧ (vec 0x888 4).me.float1Formats = true
    ∧ (treeOf (ExactNum.pick true) 16 ((List.range 4).map fun _ => some (decodeFloat 8 0))).isSome = true :=
  ⟨by decide +kernel, by decide +kernel, ready_of _ _ rfl rfl (by decide +kernel), by decide +kernel, by decide +kernel,
    ready_of _ _ rfl rfl (by decide +kernel), by decide +kernel⟩

/-- Element group 0 of v2 carries poison. -/
def tainted : State := running fun x => { x with vtype := 0x222, vl := 4, vp := [(128, true)] }

theorem witness_PoisonConsumed : tainted.Settled ∧ tainted.me.intFormats = true
    ∧ tainted.tooLong [tainted.me.af, tainted.me.df] = false ∧ tainted.me.Active 0 0 ∧ tainted.me.elemPoison 2 tainted.me.af 0 = true
    ∧ tainted.OwnTrap 9 ∧ (tainted.die 0).dmLog = none
    ∧ after (exec (.vadd 1 2 (.vs 3) 0 false) tainted) (fun t => t.me.tcause == 9 && t.me.tval == 0 && (t.die 0).dmseq == 1) = true := by
  decide +kernel

/-- g4 with an uncorrectable error, and the scalar recheck on with the lanes wrong once, or twice, at candidate 1 of 4. -/
def badG4 : State := running fun x => { x with g := [(4, 7)], badRegs := [.g 4] }
def rechecking (n : Nat) : State :=
  { running fun x => { x with vtype := 0x222, vl := 4, upsets := List.replicate n [1], upsetGroup := 2 } with
    cores := [(0, { Core.reset with own0 := 0x0F, recheck := true })] }

theorem witness_PoisonConsumed_register : badG4.Settled ∧ badG4.me.held = false ∧ RegName.g 4 ∈ badG4.me.badRegs ∧ badG4.OwnTrap 9
    ∧ (badG4.die 0).dmLog = none ∧ after (execWord (BitVec.ofNat 32 (encA 0x01 3 4 0 0x000)) badG4) (fun t => t.me.tcause == 9
        && t.me.getG 4 == 0 && t.me.badRegs.isEmpty && (t.die 0).dmseq == 1 && (t.die 0).memerrU == 1) = true := by decide +kernel

theorem rechecking_clean (n : Nat) : (rechecking n).me.Clean := clean_of _ rfl rfl
theorem witness_PoisonConsumed_recheck : (rechecking 1).Settled ∧ (rechecking 1).me.intFormats = true
    ∧ (rechecking 1).tooLong [(rechecking 1).me.af, (rechecking 1).me.df] = false ∧ (rechecking 1).me.actives 0 ≠ []
    ∧ ((rechecking 1).core 0).recheck = true
    ∧ (rechecking 1).me.mismatches (((rechecking 1).core 0).y.toNat % ((rechecking 1).me.actives 0).length) = 1
    ∧ (rechecking 2).me.mismatches (((rechecking 2).core 0).y.toNat % ((rechecking 2).me.actives 0).length) = 2
    ∧ (rechecking 2).OwnTrap 0x13 ∧ ((rechecking 2).die 0).dmLog = none
    ∧ after (exec (.vadd 1 2 (.vs 3) 0 false) (rechecking 1)) (fun t => t.me.pc == 4100 && (t.die 0).mism == 1
        && (t.core 0).y == 0x80200003) = true
    ∧ after (exec (.vadd 1 2 (.vs 3) 0 false) (rechecking 2)) (fun t => t.me.tcause == 0x13 && (t.die 0).mism == 2 && (t.die 0).quars == 1
        && (t.core 0).quar == 4 && (t.core 0).own0 == 0x0B && t.me.elemPoison 1 2 0) = true := by decide +kernel

/-! ### Tiles -/

/-- A strand with t1 of 2 rows of 4 FP16 elements. -/
def tiled : State := running fun x =>
  { x with vtype := 0x668, vl := 4, tcfg := [(1, 0x6000203)], g := [(4, window 0), (5, 16)] }

theorem witness_TileTransfers : tiled.Settled ∧ tiled.me.Clean ∧ tileValid (tiled.me.tile 1) = true
    ∧ (∀ m ∈ ([.unit, .strided 5] : List TMode), ∀ b : Bool, (match tiled.tilePlaces m 1 4 b with
        | .error _ => false
        | .ok l =>
          let e := scanElems (tiled.checkTile b 16) [] l
          e.2.isNone && e.1.length == 8 && !tiled.piecesWait (e.1.flatMap Passed.pieces) (some 0)
            && e.1.all fun p => p.allocs.isEmpty && !(tiled.eccAll e.1).piecesPoisoned p.pieces) = true)
    ∧ tiled.preemptDue 0 = false ∧ tiled.Healthy ∧ tileRows (tiled.me.tile 1) * tileCols (tiled.me.tile 1) ≤ tiled.share 0 (tileFmt (tiled.me.tile 1)) :=
  ⟨by decide +kernel, clean_of _ rfl rfl, by decide +kernel, by decide +kernel, by decide +kernel, healthy_of _ rfl rfl rfl, by decide +kernel⟩

/-- The same with only one row left of the scratchpad: row 1 fails. -/
def tiledEnd (n : Nat) : State := { tiled with strands := tiled.strands.map fun p => (p.1, { p.2 with g := [(4, window n)], tp := [(257, true)] }) }

theorem witness_TileTransfers_fails : (∀ b : Bool, (match (tiledEnd 2097144).tilePlaces .unit 1 4 b with
      | .error _ => false
      | .ok l =>
        let e := scanElems ((tiledEnd 2097144).checkTile b 16) [] l
        let done := e.1.filter fun p => p.idx / 4 < 4 / 4
        done.length == 4 && !(tiledEnd 2097144).piecesWait (done.flatMap Passed.pieces) (some 0) && match e.2 with
          | some (.fail j f _) => j == 4 && !f.recorded && f.cause == 6
          | _ => false) = true)
    ∧ (tiledEnd 2097144).OwnTrap 6 ∧ (tiledEnd 2097144).preemptDue 0 = false ∧ ((tiledEnd 2097144).core 0).svcmode.getLsbD 0 = false ∧ (tiledEnd 0).me.rowPoisoned 1 1 = true
    ∧ after (exec (.tld 1 4) (withPad (tiledEnd 2097144) 2097144 [9])) (fun t => t.me.tcause == 6 && t.me.vstart == 1
        && t.me.tileElem 1 0 == 9) = true
    ∧ after (exec (.tst 1 4) (tiledEnd 56)) (fun t => t.me.pc == 4100 && t.poison.get false (scratchAddr 0 64 / 64)
        && !t.poison.get false (scratchAddr 0 56 / 64)) = true := by decide +kernel

theorem witness_MatrixProducts : tiled.Settled ∧ tiled.me.Clean ∧ (∀ c, tiled.me.mismatches c ≤ 1) ∧ tiled.preemptDue 0 = false ∧ tiled.matrixLegal 1 false = true
    ∧ tiled.me.vstart.toNat < tiled.me.vl.toNat / tileRows (tiled.me.tile 1) ∧ 0 < tileCols (tiled.me.tile 1) :=
  ⟨by decide +kernel, clean_of _ rfl rfl, fun _ => Nat.zero_le 1, by decide +kernel⟩

/-- The same with t1 of 8 rows of 4 E4M3 elements, for block forms with BL = 8. -/
def tiledBlock : State := running fun x => { x with vtype := 0x448, vl := 8, tcfg := [(1, 0x4000803)] }

theorem witness_MatrixProducts_block : tiledBlock.Settled ∧ tiledBlock.preemptDue 0 = false ∧ tiledBlock.matrixLegal 1 true = true
    ∧ tiledBlock.me.vstart.toNat < tiledBlock.me.vl.toNat / tileRows (tiledBlock.me.tile 1) := by decide +kernel

/-! ### Engine commands, barriers, locks -/

/-- A strand whose g4 names a descriptor of the words `ws` at the start of its scratchpad. -/
def describing (ws : List Word) : State := withWords (running fun x => { x with g := [(4, window 0), (5, 64)] }) 0 ws

theorem described_of (s : State) (ws : List Word)
    (hi : s.me.issued = []) (h : (decide (s.walk (s.agentOf s.cur) .descriptor s.myHolds (window 0) 64 0 512 = .ok (padHit 0 64))
      && !s.piecesWait (bytePieces (scratchAddr 0 0) 64) (some s.cur)
      && !(s.eccPieces (bytePieces (scratchAddr 0 0) 64)).piecesPoisoned (bytePieces (scratchAddr 0 0) 64)
      && decide (ws = toWords 8 (toBytes 64 ((s.eccPieces (bytePieces (scratchAddr 0 0) 64)).readPieces
          (bytePieces (scratchAddr 0 0) 64))))) = true) :
    s.Described (window 0) ws (s.eccPieces (bytePieces (scratchAddr 0 0) 64)) := by
  simp only [Bool.and_eq_true, Bool.not_eq_true', decide_eq_true_eq] at h
  exact .inl ⟨hi, _, _, h.1.1.1, rfl, h.1.1.2, rfl, h.1.2, h.2⟩

theorem tail_none (s : State) (ws : List Word) (h : wordAt ws 3 = 0 ∧ wordAt ws 4 = 0) : s.TailPasses ws :=
  .inr ⟨.inl h.1, .inl h.2⟩

theorem allHold_nil : AllHold [] := fun _ h => absurd h (List.not_mem_nil)
theorem allHold_cons {p : Prop} {ps : List Prop} (h : p) (hs : AllHold ps) : AllHold (p :: ps) := by
  intro q hq
  cases hq with
  | head => exact h
  | tail _ m => exact hs q m
theorem allHold_map (l : List Bool) (h : l.all id = true) : AllHold (l.map (· = true)) := by
  intro p hp
  obtain ⟨b, hb, rfl⟩ := List.mem_map.mp hp
  exact List.all_eq_true.mp h b hb

/-- An ocopy of 64 bytes within the scratchpad (R248). -/
def copyWords : List Word := [window 0x1000, window 0x2000, 64, 0, 0, 0, 0, 0]
/-- Its queue with 64 commands. -/
def copyCmd : Cmd := ⟨0, .ocopy, 0, State.reset.agentOf 0, .strand, false, false, copyWords, 0, 0, 0, 0, 0, 0, 0, false, [], [], [], [], false⟩
def copyFull : State := { describing copyWords with cores := [(0, { Core.reset with own0 := 0x0F, copyQ := List.replicate 64 copyCmd })] }

theorem witness_CopyCommands : (describing copyWords).Settled ∧ (describing copyWords).me.getG 4 = window 0
    ∧ (describing copyWords).Described (window 0) copyWords ((describing copyWords).eccPieces (bytePieces (scratchAddr 0 0) 64))
    ∧ AllHold [True, True, 1 ≤ (wordAt copyWords 2).toNat ∧ (wordAt copyWords 2).toNat ≤ 2 ^ 40, True, True, (wordAt copyWords 5).toNat < 2,
        wordAt copyWords 6 = 0, wordAt copyWords 7 = 0]
    ∧ (describing copyWords).TailPasses copyWords ∧ ((describing copyWords).core 0).copyQ.length < 64
    ∧ copyFull.Settled ∧ copyFull.Described (window 0) copyWords (copyFull.eccPieces (bytePieces (scratchAddr 0 0) 64))
    ∧ 64 ≤ (copyFull.core 0).copyQ.length :=
  ⟨by decide +kernel, by decide +kernel, described_of _ _ rfl (by decide +kernel),
    allHold_cons trivial (allHold_cons trivial (allHold_cons (by decide +kernel) (allHold_cons trivial (allHold_cons trivial
      (allHold_cons (by decide +kernel) (allHold_cons (by decide +kernel) (allHold_cons (by decide +kernel) allHold_nil))))))),
    tail_none _ _ (by decide +kernel), by decide +kernel, by decide +kernel, described_of _ _ rfl (by decide +kernel), by decide +kernel⟩

/-- The same with LEN 0, the first field out of range. -/
def copyBad : List Word := [window 0x1000, window 0x2000, 0, 0, 0, 0, 0, 0]

theorem witness_CopyCommands_field : (describing copyBad).Described (window 0) copyBad
      ((describing copyBad).eccPieces (bytePieces (scratchAddr 0 0) 64))
    ∧ FirstFails [True, True, 1 ≤ (wordAt copyBad 2).toNat ∧ (wordAt copyBad 2).toNat ≤ 2 ^ 40, True] 2
    ∧ ((describing copyBad).eccPieces (bytePieces (scratchAddr 0 0) 64)).OwnTrap 6
    ∧ after (exec (.ocopy 4 .strand false false) (describing copyBad))
        (fun t => t.me.tcause == 6 && t.me.tval == window 16) = true :=
  ⟨described_of _ _ rfl (by decide +kernel), ⟨⟨_, rfl, by decide +kernel⟩, fun i p hi hp => by
      match i, hi with
      | 0, _ => cases hp; trivial
      | 1, _ => cases hp; trivial⟩, by decide +kernel⟩

/-- An lturn (R255) and a layout queue of 256. -/
def turnWords : List Word := [0x10000000000, 0x20000000000, 0, 0, 0, 0, 0, 0]
def layoutFull : State := { describing turnWords with
  dies := [(0, { DieState.reset with layoutQ := List.replicate 256 { copyCmd with kind := .lturn } })] }

theorem witness_LayoutCommands : (describing turnWords).Settled
    ∧ (describing turnWords).Described (window 0) turnWords ((describing turnWords).eccPieces (bytePieces (scratchAddr 0 0) 64))
    ∧ AllHold [True, True, True, True, True, wordAt turnWords 5 = 0, wordAt turnWords 6 = 0, wordAt turnWords 7 = 0]
    ∧ (describing turnWords).TailPasses turnWords
    ∧ (((describing turnWords).eccPieces (bytePieces (scratchAddr 0 0) 64)).die 0).layoutQ.length < 256
    ∧ 256 ≤ ((layoutFull.eccPieces (bytePieces (scratchAddr 0 0) 64)).die 0).layoutQ.length :=
  ⟨by decide +kernel, described_of _ _ rfl (by decide +kernel),
    allHold_cons trivial (allHold_cons trivial (allHold_cons trivial (allHold_cons trivial (allHold_cons trivial
      (allHold_cons (by decide +kernel) (allHold_cons (by decide +kernel) (allHold_cons (by decide +kernel) allHold_nil))))))),
    tail_none _ _ (by decide +kernel), by decide +kernel⟩

/-- Stream 0 open and inbound with 16 bytes available, its ring the 4,096 bytes at 4,096. -/
def inbound : Stream := ⟨true, false, false, 16, 0, 0, 4096, 4096, 8192, 16, 0, []⟩
def streaming (t : Stream) (f : Strand → Strand) : State :=
  { running fun x => f { x with g := [(4, 0), (5, 8), (6, 100), (7, 4096)], vspace := 1, vtype := 0xAAA, vl := 4 } with
    cores := [(0, { Core.reset with own0 := 0x0F, streams := [(0, t)] })] }

theorem witness_Streams : (streaming inbound id).Settled ∧ ((streaming inbound id).me.getG 4).toNat < 8
    ∧ inbound.isOpen = true ∧ ((streaming inbound id).me.getG 5).toNat ≤ inbound.count
    ∧ inbound.count < ((streaming inbound id).me.getG 6).toNat ∧ (streaming inbound id).OwnTrap 6 ∧ inbound.outbound = false
    ∧ 8 ≤ ((streaming inbound id).me.getG 6).toNat ∧ (streaming inbound id).OwnTrap 8
    ∧ after (exec (.sadv 3 4 5) (streaming inbound id)) (fun t => t.me.getG 3 == 8) = true
    ∧ after (exec (.sclose 3 4) (streaming inbound id)) (fun t => t.me.getG 3 == 16) = true := by decide +kernel

/-- An sopen of an inbound stream (R252). -/
def openWords : List Word := [0x10000000000, 0, 8192, 0, 0, 8192, 4096, 0]

theorem witness_Streams_open : (describing openWords).Described (window 0) openWords
      ((describing openWords).eccPieces (bytePieces (scratchAddr 0 0) 64))
    ∧ AllHold ((sopenOk openWords).map (· = true)) ∧ (describing openWords).TailPasses openWords
    ∧ (((describing openWords).core 0).streams.get Stream.closed 0).isOpen = false ∧ ((describing openWords).core 0).copyQ.length < 64
    ∧ after (exec (.sopen 3 4 .strand false false) (describing openWords)) (fun t => t.me.getG 3 == 0) = true :=
  ⟨described_of _ _ rfl (by decide +kernel), allHold_map _ (by decide +kernel), tail_none _ _ (by decide +kernel), by decide +kernel⟩

/-- A strand of an empty stream, and of a failed one. -/
def drained : State := streaming { inbound with count := 0, moved := 0 } id
def broken : State := streaming { inbound with count := 0, fail := true } id

theorem witness_Streams_trim : drained.Settled ∧ drained.me.space = 1 ∧ drained.me.vstart.toNat < drained.me.vl.toNat
    ∧ drained.tooLong [drained.me.df] = false ∧ drained.me.df ≠ 0xE ∧ drained.me.df ≠ 0xF
    ∧ (drained.core 0).streamAt (drained.me.getG 7 + BitVec.ofNat 64 0).toNat = some 0
    ∧ (broken.core 0).streamAt (broken.me.getG 7 + BitVec.ofNat 64 0).toNat = some 0 ∧ broken.OwnTrap 0x0F
    ∧ after (exec (.vld 1 7 0 false true) drained) (fun t => t.me.held) = true
    ∧ after (exec (.vld 1 7 0 false true) broken) (fun t => t.me.tcause == 0x0F && t.me.tval == 0) = true := by decide +kernel

/-- A barrier word at byte 64 of the scratchpad: EXPECT 2, ARRIVED `n`, failed or not, two waiters. -/
def barred (n : Nat) (fail : Bool) (f : Strand → Strand) : State :=
  let s := running fun x => f { x with g := [(4, window 64), (5, 7)] }
  withPad s 64 (toBytes 64 (Bar.word ⟨2, n, fail, 7, 2, 0⟩))

theorem witness_BarrierInstructions : (barred 1 false id).Settled ∧ (barred 1 false id).Healthy
    ∧ (barred 1 false id).walkBarrier ((barred 1 false id).agentOf 0) (barred 1 false id).myHolds (window 64) = .ok (padHit 64 64)
    ∧ (barred 1 false id).piecesWait (bytePieces (scratchAddr 0 64) 64) (some 0) = false
    ∧ 1 ≤ ((barred 1 false id).me.getG 5).toNat ∧ ((barred 1 false id).me.getG 5).toNat ≤ 255
    ∧ (parseBar ((barred 2 false id).readNum (scratchAddr 0 64) 64)).expect = 2
    ∧ (parseBar ((barred 2 false id).readNum (scratchAddr 0 64) 64)).arrived = 2
    ∧ 0 < (parseBar ((barred 2 false fun x => { x with st := .wait }).readNum (scratchAddr 0 64) 64)).waiters
    ∧ (parseBar ((barred 1 true id).readNum (scratchAddr 0 64) 64)).failed = true ∧ (barred 1 true id).OwnTrap 0x0F
    ∧ (barred 1 true id).eccPieces (bytePieces (scratchAddr 0 64) 64) = barred 1 true id
    ∧ after (exec (.bwait 3 4 .die) (barred 2 false id)) (fun t => t.me.getG 3 == 1) = true
    ∧ after (exec (.bwait 0 4 .die) (barred 1 true id)) (fun t => t.me.tcause == 0x0F) = true
    ∧ after (exec (.bwait 3 4 .die) (barred 1 false id))
        (fun t => t.me.st == .wait && (parseBar (t.readNum (scratchAddr 0 64) 64)).waiters == 3) = true :=
  ⟨by decide +kernel, healthy_of _ rfl rfl rfl, by decide +kernel⟩

theorem witness_BarrierInstructions_traps : plain.me.getG 0 = 0 ∧ plain.OwnTrap 6
    ∧ outside.walkBarrier (outside.agentOf 0) outside.myHolds (outside.me.getG 4) = .fail (.plain 6) ∧ (Fail.plain 6).recorded = false
    ∧ outside.me.posted = 0 := by decide +kernel

/-- An integer fill of 4,096 bytes (R272), and a launch of one run with a barrier at byte 128 (R120). -/
def sideWords : List Word := [0, window 0x1000, 4096, 0, 0, 0, 0, 0]
def launchWords : List Word := [0x10000000000, 1, BitVec.ofNat 64 (2 ^ 40 + 2 ^ 38), 0, 0, 0, window 128, 0]
def busy (ws : List Word) : State := { describing ws with strands := (describing ws).strands.map fun p => (p.1, { p.2 with posted := 256 }) }

theorem witness_PostedCommands : (describing sideWords).Settled ∧ (describing sideWords).Described (window 0) sideWords
      ((describing sideWords).eccPieces (bytePieces (scratchAddr 0 0) 64))
    ∧ wbits (wordAt sideWords 5) 0 2 = 0 ∧ (wordAt sideWords 1).toNat % 8 = 0 ∧ (wordAt sideWords 2).toNat % 8 = 0
    ∧ (describing sideWords).TailPasses sideWords ∧ (describing sideWords).me.posted < 256 ∧ 256 ≤ (busy sideWords).me.posted
    ∧ after (exec (.mside 4 .strand false false) (describing sideWords)) (fun t => t.me.posted == 1) = true :=
  ⟨by decide +kernel, described_of _ _ rfl (by decide +kernel), by decide +kernel, by decide +kernel, by decide +kernel,
    tail_none _ _ (by decide +kernel), by decide +kernel⟩

theorem witness_PostedCommands_launch : (describing launchWords).Described (window 0) launchWords
      ((describing launchWords).eccPieces (bytePieces (scratchAddr 0 0) 64))
    ∧ AllHold ((launchOk launchWords).map (· = true))
    ∧ ((describing launchWords).eccPieces (bytePieces (scratchAddr 0 0) 64)).walkBarrier
        (((describing launchWords).eccPieces (bytePieces (scratchAddr 0 0) 64)).agentOf 0) [] (wordAt launchWords 6) = .ok (padHit 128 64)
    ∧ (((describing launchWords).eccPieces (bytePieces (scratchAddr 0 0) 64)).die 0).queuedLaunches < 1024
    ∧ (describing launchWords).me.Clean
    ∧ after (exec (.alaunch 4 .strand false false) (describing launchWords)) (fun t => (t.die 0).launches.length == 1) = true :=
  ⟨described_of _ _ rfl (by decide +kernel), allHold_map _ (by decide +kernel), by decide +kernel, by decide +kernel, clean_of _ rfl rfl,
    by decide +kernel⟩

theorem witness_PostedCommands_prefix : (describing []).InWindow ((describing []).me.getG 4) 64 ∧ ((describing []).me.getG 5).toNat = 64
    ∧ objOff ((describing []).me.getG 4) + 64 ≤ 2097152 ∧ skewed.OwnTrap 5 ∧ (skewed.me.getG 4).toNat % 64 ≠ 0 := by decide +kernel

/-- A linear object of one 32 KiB sub-tile in tier 1 of stack 0 that array launches may use (R116, R299). -/
def rowObject : List Word :=
  [BitVec.ofNat 64 (2 ^ 63 + 15 * 2 ^ 17 + 2 ^ 14 + 0xA * 2 ^ 8 + 0xF), 32768, 0, 0, 0, 0, BitVec.ofNat 64 (loadBase + 4096), 0]
def rowEntry : List Word := [BitVec.ofNat 64 (32768 * 2 ^ 16 + 2), 0]
def atRows : State := tabled (fun x => { x with g := [(4, 0x10000000000), (5, 1)] }) rowObject rowEntry
/-- The same with entry 3 of stack 0 locked by strand 0 in generation 9, its handle in g4. -/
def locked : State :=
  { tabled (fun x => { x with g := [(4, BitVec.ofNat 64 (3 + 9 * 65536))] }) rowObject rowEntry with
    dies := [(0, { DieState.reset with alocks := [(3, ⟨9, some 0, 0, [(0, 1)], []⟩)] })] }

/-- Its row held by strand 2, and no entry left. -/
def rowTaken : State := { atRows with dies := [(0, { DieState.reset with alocks := [(0, ⟨1, some 2, 0, [(1, 0)], []⟩)] })] }
def noEntry : State :=
  { atRows with dies := [(0, { DieState.reset with alocks := (List.range 256).map fun i => (i, ⟨1, some 2, 5, [(5, 0)], []⟩) })] }
/-- What alock's checks of one sub-tile in g4 give. -/
def lockChecked (s : State) (p : Except (Except Await (Fail × Word)) (Nat × List (Nat × Nat)) → Bool) : Bool :=
  match s.lockRec (s.me.getG 4) with
  | .ok r => p (s.lockSubs r (objNum (s.me.getG 4)) (r.subOf (s.me.getG 4)) 1 none)
  | _ => false
def rowsAre (s : State) (held : Bool) (e : Except (Except Await (Fail × Word)) (Nat × List (Nat × Nat))) : Bool :=
  match e with
  | .ok (k, rows) => k == 0 && rows == [(1, 0)] && rows.any (s.rowHeld k) == held
  | .error _ => false

theorem witness_ArrayLocks : atRows.Settled ∧ 1 ≤ (atRows.me.getG 5).toNat ∧ (atRows.me.getG 5).toNat ≤ 16
    ∧ lockChecked atRows (rowsAre atRows false) = true ∧ atRows.alockEntry 0 = some (0, 1) ∧ atRows.me.held = false
    ∧ lockChecked rowTaken (rowsAre rowTaken true) = true ∧ rowTaken.alockEntry 0 = some (1, 1)
    ∧ lockChecked noEntry (fun e => rowsAre noEntry false e || rowsAre noEntry true e) = true ∧ noEntry.alockEntry 0 = none
    ∧ after (exec (.alock 3 4 5) atRows) (fun t => t.me.getG 3 == 0x10000 && ((t.die 0).alock 0).holder == some 0) = true
    ∧ after (exec (.alock 3 4 5) rowTaken) (fun t => t.me.held && ((t.die 0).alock 1).holder == some 0) = true
    ∧ after (exec (.alock 3 4 5) noEntry) (fun t => t.me.st == .wait) = true := by decide +kernel

theorem witness_ArrayLocks_traps : outside.Settled ∧ outside.OwnTrap 6 ∧ outside.lockRec (outside.me.getG 4) = .fail (.plain 6)
    ∧ (match atRows.lockRec (atRows.me.getG 4) with
        | .ok r => (match atRows.lockSubs r 1 0 2 none with
          | .error (.ok (f, v)) => !f.recorded && f.cause == 6 && v == 0x10000008000
          | _ => false)
        | _ => false) = true ∧ atRows.OwnTrap 6 := by decide +kernel

theorem witness_ArrayLocks_release : locked.Settled ∧ ((locked.die 0).alock 3).holder = some locked.cur
    ∧ ((locked.die 0).alock 3).gen.toNat = wbits (locked.me.getG 4) 16 32 ∧ wbits (locked.me.getG 4) 11 5 = 0
    ∧ wbits (locked.me.getG 4) 48 16 = 0 ∧ plain.OwnTrap 0x10 ∧ ((plain.die (wbits (plain.me.getG 5) 8 3)).alock 3).holder ≠ some plain.cur
    ∧ plain.OwnTrap 6 ∧ (plain.me.getG 0).toNat = 0 ∧ (plain.die 0).launches = []
    ∧ after (exec (.aunlock 4) locked) (fun t => ((t.die 0).alock 3).holder == none) = true := by decide +kernel


/-! ### Collectives, farms, caches -/

/-- An all-reduce of one FP32 value on roster 5 of devices 0 and 1, its record at byte 0x3000 (R264). -/
def collWords : List Word := [window 0x1000, window 0x2000, 1, window 128, window 0x3000, 5, 0x10888, 0]
def pair : Roster := ⟨5, [0, 1], false, 0, 0⟩
def rostered (ws : List Word) : State := { describing ws with dies := [(0, { DieState.reset with rosters := [(0, some pair)] })] }
def rosteredU : State := (rostered collWords).eccPieces (bytePieces (scratchAddr 0 0) 64)
/-- The collective `coll` leaves there, in flight. -/
def inFlight : Coll := newColl 0 rosteredU .module false false collWords (window 0) pair 0 []
def polling : State := { running fun x => { x with g := [(4, window 0x3000)] } with
  dies := [(0, { DieState.reset with rosters := [(0, some { pair with issued := 1, total := 1 })], colls := [inFlight] })] }

theorem firstFails_map (l : List Bool) (j : Nat) (h : (l[j]? == some false && (l.take j).all id) = true) :
    FirstFails (l.map (· = true)) j := by
  simp only [Bool.and_eq_true, beq_iff_eq] at h
  refine ⟨⟨_, by rw [List.getElem?_map, h.1]; rfl, by simp⟩, fun i p hi hp => ?_⟩
  rw [List.getElem?_map, Option.map_eq_some_iff] at hp
  obtain ⟨b, hb, rfl⟩ := hp
  exact List.all_eq_true.mp h.2 b (List.mem_of_getElem? (by rw [List.getElem?_take, if_pos hi]; exact hb))

theorem witness_CollectivesAndFarms : (rostered collWords).Settled ∧ (rostered collWords).Described (window 0) collWords rosteredU
    ∧ rosteredU.me.issued = [] ∧ AllHold ((collOk collWords (some pair.members.length)).map (· = true)) ∧ rosteredU.collRoster (wbits (wordAt collWords 5) 0 48) = some (0, pair)
    ∧ wbits (wordAt collWords 5) 48 3 = 0
    ∧ rosteredU.walkBarrier (rosteredU.agentOf rosteredU.cur) rosteredU.myHolds (wordAt collWords 3) = .ok (padHit 128 64)
    ∧ (∃ h, rosteredU.walk (rosteredU.agentOf rosteredU.cur) .engWrite rosteredU.myHolds (wordAt collWords 4) 64 0
        (8 * (parseColl collWords).recordBytes 2) = .ok h ∧ true = true)
    ∧ (rosteredU.die 0).colls.length < 256
    ∧ (∀ e ∈ (rosteredU.die 0).early, e.w.digest = pair.digest → e.w.nth ≠ pair.total)
    ∧ (∀ c ∈ (rosteredU.die 0).colls, (c.sid == 0 && wordAt c.desc 4 == window 0) = false)
    ∧ ((polling.die 0).colls.filter fun c => c.sid == 0 && wordAt c.desc 4 == window 0x3000).getLast? = some inFlight
    ∧ after (exec (.coll 4 .module false false) (rostered collWords)) (fun t => (t.die 0).colls.length == 1) = true
    ∧ after (exec (.cpoll 3 4 .die false) polling) (fun t => t.me.getG 3 == 0) = true
    ∧ after (exec (.cpoll 3 0 .die false) polling) (fun t => t.me.getG 3 == 0x100000000) = true :=
  ⟨by decide +kernel, described_of _ _ rfl (by decide +kernel), rfl, allHold_map _ (by decide +kernel), by decide +kernel, by decide +kernel,
    by decide +kernel, ok_of (fun _ => true) (by decide +kernel), by decide +kernel⟩

/-- A bit pattern whose word 7 is out of range, and one that names no roster and, or not, has a length of 0. -/
def collWords7 : List Word := [window 0x1000, window 0x2000, 1, window 128, window 0x3000, 5, 0x10888, 1]
def collUnknown (len : Word) : List Word := [window 0x1000, window 0x2000, len, window 128, window 0x3000, 9, 0x10888, 1]
def collUnknownU (len : Word) : State := (rostered (collUnknown len)).eccPieces (bytePieces (scratchAddr 0 0) 64)

theorem witness_CollectivesAndFarms_traps :
    (rostered collWords7).Described (window 0) collWords7 ((rostered collWords7).eccPieces (bytePieces (scratchAddr 0 0) 64))
    ∧ FirstFails ((collOk collWords7 (some pair.members.length)).map (· = true)) 7
    ∧ ((rostered collWords7).eccPieces (bytePieces (scratchAddr 0 0) 64)).OwnTrap 6
    ∧ (rostered (collUnknown 1)).Described (window 0) (collUnknown 1) (collUnknownU 1)
    ∧ (collUnknownU 1).collRoster (wbits (wordAt (collUnknown 1) 5) 0 48) = none
    ∧ AllHold (((collOk (collUnknown 1) none).take 6).map (· = true)) ∧ (collUnknownU 1).OwnTrap 8
    ∧ (rostered (collUnknown 0)).Described (window 0) (collUnknown 0) (collUnknownU 0)
    ∧ FirstFails ((collOk (collUnknown 0) none).map (· = true)) 2 :=
  ⟨described_of _ _ rfl (by decide +kernel), firstFails_map _ _ (by decide +kernel), by decide +kernel,
    described_of _ _ rfl (by decide +kernel), by decide +kernel, allHold_map _ (by decide +kernel), by decide +kernel,
    described_of _ _ rfl (by decide +kernel), firstFails_map _ _ (by decide +kernel)⟩

/-- A farm of 8 strips entered at 4096 on core 1, and a die with no context left (R268). -/
def farmWords : List Word := [4096, 8, 0x200000001, 7, window 128, 0, 0, 0]
def farmOf (total next : Nat) (f : Nat) : Farm :=
  { newFarm total 1 2 4096 7 (window 128) .die ((running id).agentOf 0) [] with next := next, order := f }
def farmFull : State := { describing farmWords with
  dies := [(0, { DieState.reset with farms := (List.range 64).map fun f => (f, some (farmOf 8 0 f)) })] }

theorem witness_CollectivesAndFarms_farm : (describing farmWords).Settled
    ∧ (describing farmWords).Described (window 0) farmWords ((describing farmWords).eccPieces (bytePieces (scratchAddr 0 0) 64))
    ∧ (wordAt farmWords 0).toNat % 4 = 0 ∧ wbits (wordAt farmWords 1) 48 16 = 0 ∧ wbits (wordAt farmWords 2) 32 32 ≠ 0
    ∧ (wordAt farmWords 5).toNat < 5
    ∧ ((describing farmWords).eccPieces (bytePieces (scratchAddr 0 0) 64)).walkBarrier
        (((describing farmWords).eccPieces (bytePieces (scratchAddr 0 0) 64)).agentOf 0) ((describing farmWords).eccPieces (bytePieces (scratchAddr 0 0) 64)).myHolds (wordAt farmWords 4) = .ok (padHit 128 64)
    ∧ (describing farmWords).me.posted = 0
    ∧ (((describing farmWords).eccPieces (bytePieces (scratchAddr 0 0) 64)).die 0).freeCtx = some 0
    ∧ farmFull.Described (window 0) farmWords (farmFull.eccPieces (bytePieces (scratchAddr 0 0) 64))
    ∧ ((farmFull.eccPieces (bytePieces (scratchAddr 0 0) 64)).die 0).freeCtx = none
    ∧ (farmFull.eccPieces (bytePieces (scratchAddr 0 0) 64)).walkBarrier
        ((farmFull.eccPieces (bytePieces (scratchAddr 0 0) 64)).agentOf 0) (farmFull.eccPieces (bytePieces (scratchAddr 0 0) 64)).myHolds (wordAt farmWords 4) = .ok (padHit 128 64)
    ∧ after (exec (.farm 3 4 .die true) (describing farmWords)) (fun t => t.me.getG 3 == 0 && ((t.die 0).farm 0).isSome) = true
    ∧ after (exec (.farm 3 4 .die true) farmFull) (fun t => t.me.st == .wait && t.me.held) = true :=
  ⟨by decide +kernel, described_of _ _ rfl (by decide +kernel), by decide +kernel, by decide +kernel, by decide +kernel, by decide +kernel,
    by decide +kernel, by decide +kernel, by decide +kernel, described_of _ _ rfl (by decide +kernel), by decide +kernel⟩

/-- A strand of the die that issued a farm before and waits, and arbitration that keeps the last context for a packet. -/
def farmSecond : State :=
  { describing farmWords with now := 9, strands := (describing farmWords).strands ++ [(2, { Strand.reset with farmWait := true, held := true, heldAt := 3, st := .wait })] }
def farmKept : State := { farmFull with
  dies := [(0, { DieState.reset with farms := (List.range 63).map fun f => (f, some (farmOf 8 0 f)), queues := [(0, some ⟨true, 0, 0, 0, 0, 0, 0, 0, 0, 0, false, 0, false, true⟩)] })] }
theorem witness_CollectivesAndFarms_waits :
    farmSecond.Described (window 0) farmWords (farmSecond.eccPieces (bytePieces (scratchAddr 0 0) 64))
    ∧ ((farmSecond.eccPieces (bytePieces (scratchAddr 0 0) 64)).strands.any fun p =>
        dieOf p.1 == 0 && p.1 != 0 && p.2.farmWait && p.2.held && decide (p.2.heldAt < 9)) = true
    ∧ farmKept.Described (window 0) farmWords (farmKept.eccPieces (bytePieces (scratchAddr 0 0) 64))
    ∧ 64 ≤ (farmKept.die 0).farmsUsed + (farmKept.die 0).farmsChosen
    ∧ ((farmKept.eccPieces (bytePieces (scratchAddr 0 0) 64)).die 0).freeCtx = some 63
    ∧ after (exec (.farm 3 4 .die true) farmSecond) (fun t => t.me.farmWait && t.me.st == .wait) = true
    ∧ after (exec (.farm 3 4 .die true) farmKept) (fun t => t.me.farmWait && t.me.st == .wait) = true :=
  ⟨described_of _ _ rfl (by decide +kernel), by decide +kernel, described_of _ _ rfl (by decide +kernel), by decide +kernel⟩

/-- A record of one sub-tile whose entry is in use by an alock, named by an oinv of all of its entries. -/
def pinnedRow : State := { atRows with dies := [(0, { DieState.reset with alocks := [(0, ⟨1, some 2, 0, [], [⟨loadBase + 4096, 0⟩]⟩)] })] }

theorem witness_CacheInstructions : plain.Settled ∧ plain.me.supervisor = true ∧ isWindow (plain.me.getG 4) = true
    ∧ user.me.supervisor = false ∧ user.OwnTrap 3
    ∧ atRows.Settled ∧ atRows.me.supervisor = true ∧ isWindow (atRows.me.getG 4) = false
    ∧ recAddr atRows.me.ortb (objNum (atRows.me.getG 4)) = some (loadBase + 64)
    ∧ atRows.anyPinned (atRows.namedEnts (parseRec (toWords 8 (atRows.readBytes (loadBase + 64) 64))) (atRows.me.getG 5)) = false
    ∧ pinnedRow.anyPinned (pinnedRow.namedEnts (parseRec (toWords 8 (pinnedRow.readBytes (loadBase + 64) 64))) (pinnedRow.me.getG 0)) = true
    ∧ recAddr pinnedRow.me.ortb (objNum (pinnedRow.me.getG 4)) = some (loadBase + 64)
    ∧ 1 ≤ (plain.me.getG 5).toNat ∧ objOff (plain.me.getG 4) + (plain.me.getG 5).toNat ≤ 2097152
    ∧ (match atRows.walkRec (atRows.agentOf 0) (atRows.me.getG 4) false atRows.myHolds with
        | .ok r => decide (objOff (atRows.me.getG 4) + 1 ≤ r.size) && decide (objOff (atRows.me.getG 4) + 1 ≤ ceilDiv (r.count * r.bits) 8)
            && bit r.perm 0 && decide (r.kind < 2)
        | _ => false) = true
    ∧ plain.OwnTrap 6 ∧ (plain.me.getG 0).toNat = 0
    ∧ after (exec (.oinv 3 4 0) pinnedRow) (fun t => t.me.held && t.marks.any fun m => m.addr == loadBase + 4096) = true
    ∧ after (exec (.oinv 3 4 0) atRows) (fun t => t.me.getG 3 == 0 && t.me.pc == 4100) = true
    ∧ after (exec (.cinv 4 5) plain) (fun t => t.me.pc == 4100) = true := by decide +kernel

/-! ### Ends of waits, traps, pre-emption -/

/-- Strand 0 waiting in the instruction of word `w`, in WAIT or not. -/
def waiting (st : StrandState) (w : Code) (f : Strand → Strand) : State := running fun x => f { x with iw := w, st := st, held := true }

theorem witness_WaitEnds : (waiting .wait 0 id).Settled ∧ ((waiting .wait 0 id).strand 0).held = true
    ∧ ((waiting .wait 0 id).strand 0).st = .wait ∧ ((waiting .wait 0 id).strand 0).posted < 256
    ∧ (let s := waiting .wait (BitVec.ofNat 32 ((encodeNat (.doze 3 4)).getD 0)) fun x => { x with g := [(4, 5)] }
       let x := s.strand 0
       x.waitsIn 0x22 2 = true ∧ x.preq = false ∧ x.wakes = 0 ∧ x.getG x.waitA ≠ 0
       ∧ ({ s with now := 5 } : State).now ≥ x.heldAt + (x.getG x.waitA).toNat
       ∧ after (exec (.dozeTimeout 0) { s with now := 5 }) (fun t => t.me.pc == 4100 && t.me.st == .run) = true)
    ∧ (let x := (waiting .wait (BitVec.ofNat 32 ((encodeNat (.doze 3 4)).getD 0)) fun x => { x with preq := true, sstat := 1 }).strand 0
       x.waitsIn 0x22 2 = true ∧ x.preq = true ∧ x.tm = false)
    ∧ (let x := (waiting .wait (BitVec.ofNat 32 ((encodeNat (.doze 3 4)).getD 0)) fun x => { x with wakes := 1 }).strand 0
       x.waitsIn 0x22 2 = true ∧ x.preq = false ∧ 0 < x.wakes) := by decide +kernel

/-- An outbound stream with everything drained, and its sclose waiting. -/
noncomputable def closing : State :=
  { waiting .run (BitVec.ofNat 32 ((encodeNat (.sclose 3 4)).getD 0)) fun x => { x with g := [(4, 0)] } with
    cores := [(0, { Core.reset with own0 := 0x0F, streams := [(0, ⟨true, false, true, 0, 0, 0, 4096, 4096, 8192, 16, 16, []⟩)] })] }

theorem witness_WaitEnds_sclose : closing.Settled ∧ (closing.strand 0).waitsIn 0x70 6 = true
    ∧ ((closing.strand 0).getG (closing.strand 0).waitA).toNat = 0
    ∧ ((closing.core 0).streams.get Stream.closed 0).isOpen = true
    ∧ ((closing.core 0).streams.get Stream.closed 0).passed ≤ ((closing.core 0).streams.get Stream.closed 0).moved
    ∧ after (exec (.scloseDrained 0) closing) (fun t => t.me.getG 3 == 16) = true := by decide +kernel

/-- A bwait that waits at a barrier already released, and a farm that waits with a context free. -/
noncomputable def bwaiting : State := barred 2 false fun x => { x with st := .wait, held := true, iw := BitVec.ofNat 32 ((encodeNat (.bwait 3 4 .die)).getD 0) }
noncomputable def farmWaiting : State :=
  let s := describing farmWords
  { s with strands := s.strands.map fun p => (p.1, { p.2 with st := .wait, held := true, iw := BitVec.ofNat 32 ((encodeNat (.farm 3 4 .die false)).getD 0) }) }

theorem witness_WaitEnds_barrier : bwaiting.Settled ∧ (bwaiting.strand 0).inBwait = true
    ∧ ({ bwaiting with cur := 0 } : State).walkBarrier (({ bwaiting with cur := 0 } : State).agentOf 0) ({ bwaiting with cur := 0 } : State).myHolds
        ((bwaiting.strand 0).getG (bwaiting.strand 0).waitA) = .ok (padHit 64 64)
    ∧ bwaiting.piecesWait (bytePieces (scratchAddr 0 64) 64) (some 0) = false
    ∧ (parseBar (bwaiting.readNum (scratchAddr 0 64) 64)).released = true
    ∧ (parseBar (bwaiting.readNum (scratchAddr 0 64) 64)).failed = false
    ∧ after (exec (.bwaitRelease 0) bwaiting) (fun t => t.me.getG 3 == 1 && t.me.st == .run) = true := by decide +kernel

theorem witness_WaitEnds_farm : farmWaiting.Settled ∧ (farmWaiting.strand 0).st = .wait ∧ (farmWaiting.strand 0).waitsIn 0x75 0 = true
    ∧ (farmWaiting.strand 0).posted = 0
    ∧ farmWaiting.Described (window 0) farmWords (farmWaiting.eccPieces (bytePieces (scratchAddr 0 0) 64))
    ∧ AllHold ((farmOk farmWords).map (· = true))
    ∧ (farmWaiting.eccPieces (bytePieces (scratchAddr 0 0) 64)).walkBarrier
        ((farmWaiting.eccPieces (bytePieces (scratchAddr 0 0) 64)).agentOf 0) (farmWaiting.eccPieces (bytePieces (scratchAddr 0 0) 64)).myHolds (wordAt farmWords 4) = .ok (padHit 128 64)
    ∧ ((farmWaiting.eccPieces (bytePieces (scratchAddr 0 0) 64)).die 0).freeCtx = some 0
    ∧ (farmWaiting.strand 0).issued = [] ∧ ((farmWaiting.die 0).farmsUsed + (farmWaiting.die 0).farmsChosen < 64)
    ∧ (farmWaiting.strands.any fun p => p.1 != 0 && p.2.farmWait) = false
    ∧ after (exec (.farmContextWaitEnd 0) farmWaiting) (fun t => t.me.st == .run && ((t.die 0).farm 0).isSome) = true :=
  ⟨by decide +kernel, by decide +kernel, by decide +kernel, by decide +kernel, described_of _ _ rfl (by decide +kernel),
    allHold_map _ (by decide +kernel), by decide +kernel⟩

/-- A strand with a decided trap. -/
def trapping : State := running fun x => { x with pend := some ⟨6, 7, 4096, 0x14, false, false⟩, tvec := 0x8000 }
/-- A user strand with one, on a core whose service strand is strand 1 and whose service queue lies at byte 4096. -/
def serviced (f : Strand → Strand) : State :=
  { running fun x => f { x with sstat := 0, tvec := 0x8000 } with
    cores := [(0, { Core.reset with own0 := 0x0F, svcmode := 3, svcq := 0x201000 })] }
def forwarding : State := serviced fun x => { x with pend := some ⟨6, 7, 4096, 0x14, false, false⟩ }
/-- A strand in SVCWAIT whose record asks for ACT `a`. -/
def served (a : Word) : State :=
  withWords (serviced fun x => { x with st := .svcwait, svcRec := some (scratchAddr 0 4160) }) 4160 [6, 7, 4096, 0x14, 8192, 1, 2, a]

/-- What the statement supposes of such a strand. -/
abbrev servedOk (a : Word) : Prop :=
  (served a).Settled ∧ ((served a).strand 0).st = .svcwait
    ∧ ((served a).strand 0).svcRec = some (scratchAddr 0 4160) ∧ ((served a).recWord (scratchAddr 0 4160) 0).getLsbD 9 = false
    ∧ wbits ((served a).recWord (scratchAddr 0 4160) 7) 0 3 = a.toNat % 8
    ∧ wbits ((served a).recWord (scratchAddr 0 4160) 4) 0 2 = 0 ∧ ((served a).strand 0).inFarm = false ∧ (served a).saving 0 = false

theorem witness_TrapsAndPreemption : trapping.Settled ∧ (trapping.strand 0).pend = some ⟨6, 7, 4096, 0x14, false, false⟩
    ∧ trapping.saving 0 = false ∧ forwarding.Settled ∧ (forwarding.strand 0).pend = some ⟨6, 7, 4096, 0x14, false, false⟩
    ∧ forwarding.forwards 0 6 = true ∧ forwarding.svcSlot 0 = some (scratchAddr 0 4160)
    ∧ servedOk 1 ∧ servedOk 9 ∧ servedOk 2 ∧ servedOk 3
    ∧ after (exec (.trapEntry 0) trapping) (fun t => t.me.tcause == 6 && t.me.pc == 0x8000 && t.me.sstat == 7) = true
    ∧ after (exec (.serviceForward 0) forwarding) (fun t => t.me.st == .svcwait && (t.strand 1).wakes == 1
        && t.readNum (scratchAddr 0 4104) 8 == 1 && t.recWord (scratchAddr 0 4160) 0 == 6 && t.recWord (scratchAddr 0 4160) 3 == 0x14) = true
    ∧ after (exec (.serviceResume 0) (served 9)) (fun t => t.me.pc == 8192 && t.me.getG 4 == 1 && t.me.getG 5 == 2) = true
    ∧ after (exec (.serviceReflect 0) (served 2)) (fun t => t.me.tcause == 6 && t.me.tval == 7 && t.me.pc == 0x8000) = true
    ∧ after (exec (.servicePark 0) (served 3)) (fun t => t.me.st == .idle && (t.core 0).own0 == 0) = true := by decide +kernel

/-- A request that has stood for PTMO's 50 us, the strand in a farm or not. -/
def due (f : Strand → Strand) : State := { running fun x => f { x with preq := true, tvec := 0x8000 } with now := 100000 }

theorem witness_TrapsAndPreemption_requests : (due id).Settled ∧ (due id).preemptDue 0 = true ∧ ((due id).strand 0).st ≠ .idle
    ∧ ((due id).strand 0).inBwait = false ∧ ((due id).strand 0).inFarm = false ∧ (due id).saving 0 = false
    ∧ (due id).saveAddr 0 = 0 ∧ ((due id).strand 0).svcRec = none
    ∧ (due fun x => { x with vfarm := 0x8000000000000000 }).preemptDue 0 = true
    ∧ ((due fun x => { x with vfarm := 0x8000000000000000 }).strand 0).inFarm = true
    ∧ (due fun x => { x with vfarm := 0x8000000000000000 }).saving 0 = false
    ∧ after (exec (.hardPreemption 0) (due id)) (fun t => t.me.tcause == 0x0B && t.me.pc == 0x8000 && t.me.sstat.getLsbD 7
        && !t.me.preq) = true
    ∧ after (exec (.hardPreemption 0) (due fun x => { x with vfarm := 0x8000000000000000 })) (fun t => t.me.st == .idle) = true
    ∧ after (exec (.psetWrite 0 1) (running id)) (fun t => t.me.preq && !(t.strand 1).preq) = true := by decide +kernel

/-- One with a decided trap, one whose service record is withdrawn, one in a bwait that two wait in, and one with a save image
in LPDDR-6. -/
def duePend : State := due fun x => { x with pend := some ⟨6, 7, 4096, 0x14, false, false⟩ }
def dueServed : State := due fun x => { x with st := .svcwait, svcRec := some (scratchAddr 0 4160) }
noncomputable def dueWaits : State :=
  withPad (due fun x => { x with g := [(4, window 64)], st := .wait, held := true, iw := BitVec.ofNat 32 ((encodeNat (.bwait 3 4 .die)).getD 0) })
    64 (toBytes 64 (Bar.word ⟨9, 1, false, 0, 2, 0⟩))
def dueImage : State := { due id with dies := [(0, { DieState.reset with psave := [(0, BitVec.ofNat 64 (loadBase + 0x400000))] })] }

theorem witness_TrapsAndPreemption_stops : duePend.Settled ∧ duePend.preemptDue 0 = true ∧ (duePend.strand 0).inFarm = false
    ∧ duePend.saving 0 = false ∧ duePend.saveAddr 0 = 0 ∧ duePend.waiterBlocked 0 = false ∧ (duePend.strand 0).inBwait = false
    ∧ dueServed.preemptDue 0 = true ∧ (dueServed.strand 0).svcRec = some (scratchAddr 0 4160) ∧ dueServed.waiterBlocked 0 = false
    ∧ dueWaits.preemptDue 0 = true ∧ (dueWaits.strand 0).inBwait = true ∧ dueWaits.waiterBlocked 0 = false ∧ dueWaits.saving 0 = false
    ∧ dueWaits.walkBarrier (dueWaits.agentOf 0) [] ((dueWaits.strand 0).getG (dueWaits.strand 0).waitA) = .ok (padHit 64 64)
    ∧ 0 < (parseBar (dueWaits.readNum (scratchAddr 0 64) 64)).waiters
    ∧ after (exec (.hardPreemption 0) duePend) (fun t => t.me.tcause == 0x0B && t.me.tpc == 0x8000 && t.me.pc == 0x8000
        && t.me.tinst == 0 && t.me.sstat == 0x8F) = true
    ∧ after (exec (.hardPreemption 0) dueServed) (fun t => t.me.tcause == 0x0B && (t.recWord (scratchAddr 0 4160) 0).getLsbD 9) = true
    ∧ after (exec (.hardPreemption 0) dueWaits) (fun t => t.me.tcause == 0x0B
        && (parseBar (t.readNum (scratchAddr 0 64) 64)).waiters == 1) = true := by decide +kernel

theorem witness_TrapsAndPreemption_image : dueImage.Settled ∧ dueImage.preemptDue 0 = true ∧ (dueImage.strand 0).st ≠ .idle
    ∧ dueImage.waiterBlocked 0 = false ∧ (dueImage.strand 0).inFarm = false ∧ dueImage.saving 0 = false
    ∧ dueImage.saveAddr 0 = loadBase + 0x400000 ∧ dueImage.badChannels = [] ∧ dueImage.hostUp = true ∧ dueImage.groups 0 < 9
    ∧ (∀ a ∈ dueImage.saveRows 0, dueImage.rowWaits a none = false)
    ∧ ∀ i, i < 4160 + 270336 * dueImage.groups 0 + 196608 → dueImage.region (loadBase + 0x400000 + i) ≠ none :=
  ⟨by decide +kernel, by decide +kernel, by decide +kernel, by decide +kernel, by decide +kernel, by decide +kernel, by decide +kernel, rfl,
    rfl, by decide +kernel, by decide +kernel, fun i hi => lpddr_region _ _ (by unfold loadBase; omega) (by
      have : dueImage.groups 0 < 9 := by decide +kernel
      unfold loadBase; omega)⟩

/-! ### Farms and queues -/

/-- Die 0 with one farm in context 3, whose 8 strips are all untaken, or retired. -/
def farmed (n : Nat) : State := withPad { running id with dies := [(0, { DieState.reset with farms := [(3, some (farmOf 8 n 0))] })] }
  128 (toBytes 64 (Bar.word ⟨1, 0, false, 0, 0, 0⟩))

theorem healthy_die (s : State) (d : DieState) (h1 : s.badChannels = []) (h2 : s.hostUp = true) (h3 : s.dies = [(0, d)])
    (h4 : d.port.linkLost = false) : s.Healthy :=
  ⟨h1, h2, fun g => by
    by_cases hg : g = 0 <;> simp [State.die, h3, Sparse.get, hg, h4] <;> (try split) <;> (try rfl) <;> simp_all⟩

theorem witness_FarmEvents : (farmed 0).Settled ∧ (farmed 0).boot ≠ .failed ∧ ((farmed 0).die 0).farm 3 = some (farmOf 8 0 0) ∧ (farmOf 8 0 0).hasStrip = true
    ∧ (farmed 0).eligible (farmOf 8 0 0) 2 = true ∧ (farmed 0).oldestFor 0 (farmOf 8 0 0) 2 = true ∧ (farmOf 8 0 0).scan ≤ 64
    ∧ ((List.range 64).all fun i => !((farmed 0).eligible (farmOf 8 0 0) i && (farmed 0).oldestFor 0 (farmOf 8 0 0) i) || decide (2 ≤ i)) = true
    ∧ ((farmed 8).die 0).farm 3 = some (farmOf 8 8 0) ∧ (farmOf 8 8 0).total ≤ (farmOf 8 8 0).next ∧ (farmOf 8 8 0).out = 0 ∧ (farmOf 8 8 0).arrived = false
    ∧ (farmed 8).members 0 3 = 0
    ∧ (farmed 8).walkBarrier (farmOf 8 8 0).agent ((farmOf 8 8 0).pins.map (·.entry)) (window 128) = .ok (padHit 128 64)
    ∧ after (exec (.farmStart 0 3 2) (farmed 0)) (fun t => (t.strand 2).pc == 4096 && (t.strand 2).getG 4 == 7
        && (t.strand 2).getG 5 == 8 && (t.strand 2).inFarm && (t.strand 2).fctx == 3 && (t.strand 2).st == .run) = true
    ∧ after (exec (.farmCompletionArrival 0 3) (farmed 8)) (fun t => (parseBar (t.readNum (scratchAddr 0 128) 64)).arrived == 1
        && ((t.die 0).farm 3).isNone) = true := by decide +kernel

theorem witness_FarmEvents_healthy : (farmed 8).Healthy := healthy_die _ _ rfl rfl rfl rfl

/-- Queue 2 of die 0: its context, tail word, head word and ring in LPDDR-6, `t` packets written and the first one `p`. -/
def queueBase : Nat := loadBase
def farmPacket : List Word := [BitVec.ofNat 64 (1 + 2 ^ 16), 4096, 8, 1, 7, window 128, 0, 0]
def arrivePacket : List Word := [2, 0, 0, 0, 0, window 128, 0, 0]
def waitPacket : List Word := [BitVec.ofNat 64 (2 + 2 ^ 11), 0, 0, 0, 0, window 128, window 192, 0]
def queueWith (waited chosen : Bool) : Queue :=
  ⟨true, 3, 5, queueBase + 0x20000, 4, queueBase + 0x10000, queueBase + 0x10040, 1, 0, 0, false, 0, waited, chosen⟩
def queued (p : List Word) (qs : Sparse (Option Queue)) : State :=
  let s : State := { running id with dies := [(0, { DieState.reset with qcbase := BitVec.ofNat 64 queueBase, queues := qs })] }
  let put (m : Sparse Byte) (a : Nat) (ws : List Word) : Sparse Byte := putBytes m a (ofWords ws)
  let m1 := put s.mem (queueBase + 128) [BitVec.ofNat 64 (2 ^ 63 + 3 * 2 ^ 60 + 5 * 2 ^ 48 + (queueBase + 0x20000) + 4),
    BitVec.ofNat 64 (queueBase + 0x10000), BitVec.ofNat 64 (queueBase + 0x10040), 0, 0, 0, 0, 0]
  let m2 := put (put m1 (queueBase + 0x10000) [1]) (queueBase + 0x20000) p
  withPad (withPad { s with mem := m2 } 128 (toBytes 64 (Bar.word ⟨1, 0, false, 0, 0, 0⟩))) 192
    (toBytes 64 (Bar.word ⟨1, 1, false, 0, 0, 0⟩))
def headIs (s : State) (x : Queue) (ws : List Word) : Bool :=
  match s.headPacket x with
  | .ok p => p == parsePacket ws
  | .error _ => false
def theQueue (s : State) : Option Queue := (s.die 0).queue 2

theorem witness_QueueEvents_enable :
    let s := queued farmPacket []
    let none3 := s.contextAddr 0 3
    let w (i : Nat) := wordAt (toWords 8 (s.readBytes (s.contextAddr 0 2) 64)) i
    s.Settled ∧ s.physFail (s.contextAddr 0 2) 64 = none ∧ (w 0).getLsbD 63 = true ∧ wbits (w 0) 0 6 = 4
    ∧ wbits (w 1) 48 16 = 0 ∧ wbits (w 1) 0 6 = 0 ∧ wbits (w 2) 48 16 = 0 ∧ wbits (w 2) 0 6 = 0 ∧ wbits (w 3) 9 23 = 0 ∧ w 4 = 0
    ∧ w 5 = 0 ∧ w 6 = 0 ∧ w 7 = 0
    ∧ s.piecesWait (s.enablePlaces 0 2) none = false ∧ s.physFail (queueBase + 0x10000) 8 = none ∧ s.physFail (queueBase + 0x10040) 8 = none
    ∧ s.piecesWait (s.enablePlaces 0 3) none = false ∧ s.physFail none3 64 = none ∧ (wordAt (toWords 8 (s.readBytes none3 64)) 0).getLsbD 63 = false
    ∧ after (exec (.queueEnable 0 3) s) (fun t => (t.die 0).msix == 1 && ((t.die 0).queue 3).any fun x => x.err && x.errc == 2) = true
    ∧ after (exec (.queueEnable 0 2) s) (fun t => theQueue t == some (queueWith false false)) = true := by decide +kernel

theorem witness_QueueEvents :
    let s := queued farmPacket [(2, some (queueWith false false))]
    let chosen := queued farmPacket [(2, some (queueWith false true))]
    let waits := queued waitPacket [(2, some (queueWith false false))]
    let arrives := queued arrivePacket [(2, some (queueWith false false))]
    s.Settled ∧ theQueue s = some (queueWith false false) ∧ (queueWith false false).enabled = true ∧ (queueWith false false).ready = true
    ∧ s.waitingFarms 0 = [(2, queueWith false false)] ∧ (s.die 0).farmsUsed = 0
    ∧ ([(2, queueWith false false)].find? fun p => [(2, queueWith false false)].all fun r => s.before 0 p r)
        = some (2, queueWith false false)
    ∧ headIs chosen (queueWith false true) farmPacket = true ∧ (parsePacket farmPacket).valid = true
    ∧ (parsePacket farmPacket).kind = 1 ∧ (parsePacket farmPacket).waitf = false ∧ (chosen.die 0).freeCtx = some 0
    ∧ chosen.walkBarrier (chosen.packetAgent 0 5) [] (window 128) = .ok (padHit 128 64)
    ∧ headIs waits (queueWith false false) waitPacket = true ∧ (parsePacket waitPacket).valid = true
    ∧ (parsePacket waitPacket).waitf = true
    ∧ waits.walkBarrier (waits.packetAgent 0 5) [] (window 192) = .ok (padHit 192 64)
    ∧ (parseBar (waits.readPieces (bytePieces (scratchAddr 0 192) 64))).released = true
    ∧ (parseBar (waits.readPieces (bytePieces (scratchAddr 0 192) 64))).failed = false
    ∧ headIs arrives (queueWith false false) arrivePacket = true ∧ (parsePacket arrivePacket).valid = true
    ∧ (parsePacket arrivePacket).kind = 2 := by decide +kernel

theorem test_queue_events :
    after (exec (.farmArbitration 0) (queued farmPacket [(2, some (queueWith false false))]))
      (fun t => theQueue t == some (queueWith false true)) = true
    ∧ after (exec (.packetFarm 0 2) (queued farmPacket [(2, some (queueWith false true))]))
      (fun t => theQueue t == some { queueWith false false with head := 1 } && ((t.die 0).farm 0).any fun x => x.total == 8) = true
    ∧ after (exec (.waitbarRelease 0 2) (queued waitPacket [(2, some (queueWith false false))]))
      (fun t => theQueue t == some (queueWith true false)) = true
    ∧ after (exec (.packetArrive 0 2) (queued arrivePacket [(2, some (queueWith false false))]))
      (fun t => theQueue t == some { queueWith false false with head := 1 }
        && (parseBar (t.readNum (scratchAddr 0 128) 64)).arrived == 1) = true
    ∧ after (exec (.queueTailSnoop 0 2) (queued arrivePacket [(2, some { queueWith false false with tail := 0 })]))
      (fun t => theQueue t == some (queueWith false false)) = true := by decide +kernel

/-- A queue whose head packet or tail line is poisoned, and packets whose BAR is no object's or whose kind is none. -/
def spoiled (a : Nat) : State := { queued arrivePacket [(2, some (queueWith false false))] with poison := [(a / 64, true)] }
def lostPacket : List Word := [2, 0, 0, 0, 0, 5, 0, 0]
def oddPacket : List Word := [3, 0, 0, 0, 0, window 128, 0, 0]
def failedBar : State :=
  withPad (queued waitPacket [(2, some (queueWith false false))]) 192 (toBytes 64 (Bar.word ⟨1, 0, true, 7, 0, 0⟩))
def stopsWith (s : State) (i : Instr) (c : Nat) : Bool :=
  after (exec i s) fun t => t.out.head? == some (.msix 0) && (theQueue t).any fun x => x.err && x.errc == c
def failsAt (s : State) (i : Instr) (c : Nat) : Bool :=
  after (exec i s) fun t => (theQueue t).any (fun x => x.head == 1 && !x.err)
    && parseBar (t.readNum (scratchAddr 0 128) 64) == ⟨1, 0, true, c, 0, 0⟩ && t.readNum (queueBase + 0x10040) 8 == 1

theorem witness_QueueEvents_stops :
    let lost := queued lostPacket [(2, some (queueWith false false))]
    (queueWith false false).ready = true ∧ (match (spoiled (queueBase + 0x20000)).headPacket (queueWith false false) with
      | .error c => c == 9
      | .ok _ => false) = true
    ∧ (spoiled (queueBase + 0x10000)).physFail (queueBase + 0x10000) 8 = some 9
    ∧ (match lost.walkBarrier (lost.packetAgent 0 5) [] 5 with
      | .fail f => !f.recorded && f.cause == 8
      | _ => false) = true
    ∧ stopsWith (spoiled (queueBase + 0x20000)) (.packetArrive 0 2) 9 = true ∧ stopsWith lost (.packetArrive 0 2) 8 = true
    ∧ stopsWith (spoiled (queueBase + 0x10000)) (.queueTailSnoop 0 2) 9 = true := by decide +kernel

theorem witness_QueueEvents_fails :
    let odd := queued oddPacket [(2, some (queueWith false false))]
    (parsePacket oddPacket).valid = false ∧ headIs odd (queueWith false false) oddPacket = true
    ∧ odd.walkBarrier (odd.packetAgent 0 5) [] (window 128) = .ok (padHit 128 64)
    ∧ odd.piecesWait (bytePieces (scratchAddr 0 128) 64) none = false ∧ odd.physLost (queueBase + 0x10040) = none
    ∧ odd.piecesWait (bytePieces (queueBase + 0x10040) 8) none = false
    ∧ (parseBar (failedBar.readPieces (bytePieces (scratchAddr 0 192) 64))).failed = true
    ∧ failsAt odd (.packetArrive 0 2) 2 = true ∧ failsAt failedBar (.waitbarRelease 0 2) 0x0F = true := by decide +kernel

/-! ### Engines' steps -/

/-- An engine command of 64 bytes from byte 4096 to byte 8192 of the window, in the copy queue of core 0. -/
def moving (c : Cmd) : State :=
  withPad { running id with cores := [(0, { Core.reset with own0 := 0x0F, copyQ := [c] })] } 4096 (toBytes 8 0x1122334455667788)
def sided (c : Cmd) : State :=
  { running fun x => { x with posted := 1 } with dies := [(0, { DieState.reset with sideQ := [c] })] }
/-- The command with a record at byte 256. -/
def recorded : Cmd := { copyCmd with desc := [window 0x1000, window 0x2000, 64, 0, window 256, 0, 0, 0] }

theorem witness_EngineEvents : (moving copyCmd).Settled ∧ (moving copyCmd).cmd (.copy 0) 0 = some copyCmd
    ∧ copyCmd.kind = .ocopy ∧ copyCmd.finished = false ∧ copyCmd.after = [] ∧ copyCmd.pos = 0 ∧ copyCmd.progress = 0 ∧ copyCmd.wrote = 0
    ∧ copyCmd.cause = 0 ∧ 1 ≤ (wordAt copyCmd.desc 2).toNat
    ∧ isWindow (wordAt copyCmd.desc 0) = true ∧ objOff (wordAt copyCmd.desc 0) + 64 ≤ 2097152
    ∧ isWindow (wordAt copyCmd.desc 1) = true ∧ objOff (wordAt copyCmd.desc 1) + 64 ≤ 2097152
    ∧ windowByte copyCmd.agent.die (wordAt copyCmd.desc 0) + 64 ≤ windowByte copyCmd.agent.die (wordAt copyCmd.desc 1)
    ∧ (moving { recorded with finished := true }).cmd (.copy 0) 0 = some { recorded with finished := true }
    ∧ wordAt recorded.desc 3 = 0 ∧ isWindow (wordAt recorded.desc 4) = true ∧ (wordAt recorded.desc 4).toNat % 32 = 0
    ∧ (sided { copyCmd with kind := .sprefix }).cmd (.mside 0) 0 = some { copyCmd with kind := .sprefix }
    ∧ (sided { copyCmd with kind := .fill, finished := true }).cmd (.mside 0) 0 = some { copyCmd with kind := .fill, finished := true } := by
  decide +kernel

/-- A command to the null object, and one with a barrier word that has failed or not. -/
def nullCmd : Cmd := { copyCmd with desc := [window 0x1000, 5, 64, 0, 0, 0, 0, 0] }
def barCmd (c : Nat) : Cmd := { copyCmd with desc := [window 0x1000, window 0x2000, 64, window 128, 0, 0, 0, 0], finished := true, cause := c, wrote := 64 }

theorem witness_EngineEvents_ends : (moving nullCmd).cmd (.copy 0) 0 = some nullCmd ∧ nullCmd.cause = 0 ∧ objNum (wordAt nullCmd.desc 1) = 0
    ∧ (wordAt nullCmd.desc 5).getLsbD 0 = false ∧ ((moving (barCmd 0)).endChks (barCmd 0)).any (moving (barCmd 0)).chkWaits = false
    ∧ wordAt (barCmd 0).desc 4 = 0 ∧ wordAt (barCmd 0).desc 3 ≠ 0
    ∧ (moving (barCmd 0)).walkBarrier (barCmd 0).agent ((barCmd 0).pins.map (·.entry)) (window 128) = .ok (padHit 128 64)
    ∧ after (exec (.engineFragment (.copy 0) 0) (moving nullCmd))
        (fun t => (t.cmd (.copy 0) 0).any fun y => y.finished && y.cause == 8 && y.faddr == window 0x1000) = true
    ∧ after (exec (.engineCommandDone (.copy 0) 0) (moving (barCmd 0)))
        (fun t => parseBar (t.readNum (scratchAddr 0 128) 64) == ⟨0, 1, false, 0, 0, 64⟩) = true
    ∧ after (exec (.engineCommandDone (.copy 0) 0) (moving (barCmd 7)))
        (fun t => parseBar (t.readNum (scratchAddr 0 128) 64) == ⟨0, 0, true, 7, 0, 64⟩) = true := by decide +kernel

theorem test_engine_events :
    after (exec (.engineFragment (.copy 0) 0) (moving copyCmd)) (fun t => t.readNum (scratchAddr 0 8192) 8 == 0x1122334455667788
        && (t.cmd (.copy 0) 0).any fun y => y.finished && y.progress == 64 && y.wrote == 64) = true
    ∧ after (exec (.engineCommandDone (.copy 0) 0) (moving { recorded with finished := true, progress := 64 }))
        (fun t => (t.cmd (.copy 0) 0).isNone && t.readNum (scratchAddr 0 256) 8 == 1 && t.readNum (scratchAddr 0 264) 8 == 64) = true
    ∧ after (exec (.engineCommandDone (.mside 0) 0) (sided { copyCmd with kind := .fill, finished := true }))
        (fun t => t.me.posted == 0 && t.me.wakes == 1) = true
    ∧ after (exec (.sprefixPerformed 0 0) (sided { copyCmd with kind := .sprefix }))
        (fun t => t.me.posted == 0 && t.me.wakes == 1 && (t.cmd (.mside 0) 0).isNone) = true := by decide +kernel

/-- Stream 0 with its command in the queue: 64 bytes of the window at byte 4096 to or from a ring of 4,096 bytes at byte 8192. -/
def streamCmd : Cmd := { copyCmd with kind := .stream, desc := [window 4096, window 4096, 64, 0, 0, 8192, 4096, 0] }
def flowing (out : Bool) : State :=
  withPad { running id with cores := [(0, { Core.reset with
      own0 := 0x0F, copyQ := [streamCmd]
      streams := [(0, ⟨true, false, out, 0, 0, 0, 8192, 4096, 64, 0, if out then 16 else 0, []⟩)] })] }
    (if out then 8192 else 4096) (toBytes 8 0x1122334455667788)

theorem witness_EngineEvents_streams : (flowing false).Settled ∧ (flowing false).cmd (.copy 0) 0 = some streamCmd
    ∧ streamCmd.finished = false ∧ ((flowing false).core 0).streams.get Stream.closed 0 = ⟨true, false, false, 0, 0, 0, 8192, 4096, 64, 0, 0, []⟩
    ∧ ((flowing true).core 0).streams.get Stream.closed 0 = ⟨true, false, true, 0, 0, 0, 8192, 4096, 64, 0, 16, []⟩
    ∧ windowByte streamCmd.agent.die (wordAt streamCmd.desc 0) + 64 ≤ scratchAddr 0 8192
    ∧ 0 < Nat.min 8 (Nat.min (64 - 0) (4096 - (0 - 0))) ∧ 0 < Nat.min 8 (Nat.min (64 - 0) (16 - 0))
    ∧ after (exec (.streamInboundFill 0 0 8) (flowing false)) (fun t => t.readNum (scratchAddr 0 8192) 8 == 0x1122334455667788
        && ((t.core 0).streams.get Stream.closed 0).moved == 8 && ((t.core 0).streams.get Stream.closed 0).count == 8) = true
    ∧ after (exec (.streamOutboundDrain 0 0 8) (flowing true)) (fun t => t.readNum (scratchAddr 0 4096) 8 == 0x1122334455667788
        && ((t.core 0).streams.get Stream.closed 0).moved == 8) = true := by decide +kernel

/-! ### The array -/

/-- A run in mitten 1 of stack 0 over row 0, and its launch in flight. -/
def runOp : RunOp := ⟨0, 3, ⟨loadBase + 4096, 0⟩, 0x10000000000, 32768, 0, 1⟩
def theRun : Run := { newRun 7 0 1 [runOp] with
  stage := .running, b := [], rows := [(1008, some 5), (1009, some 6), (1010, some 3), (1020, some rowOnes), (1021, some rowOnes)] }
def theLaunch (r : Run) : Launch :=
  { newLaunch 7 0 ((running id).agentOf 0) .die false false [0x10000000000, BitVec.ofNat 64 (1 + 2 ^ 51), BitVec.ofNat 64 (2 ^ 40 + 2 ^ 38), 0, 0, 0, window 128,
      window 0x8000]
      (window 0) (List.replicate 16 9) [] [] with accepted := true, mprog := [0x50000000], runs := [r] }
def inRun (r : Run) : State :=
  { running fun x => { x with posted := 1 } with curRun := 1, dies := [(0, { DieState.reset with launches := [theLaunch r] })] }

theorem runs_of (s : State) (l : Launch) (r : Run) (ns : Nat)
    (h : (decide (s.runAt s.curRun = some (l, r)) && decide (r.launch = l.id) && !s.stepHeld (s.curRun / 2560) r
      && decide (r.stops ns = none)) = true) : s.MayRun l r ns := by
  simp only [Bool.and_eq_true, Bool.not_eq_true', decide_eq_true_eq] at h
  exact ⟨h.1.1.1, h.1.1.2, .inr h.1.2, h.2⟩

/-- What a check of rows or lanes gives. -/
def okIs [DecidableEq α] (e : Except Nat α) (a : α) : Bool :=
  match e with
  | .ok b => decide (b = a)
  | .error _ => false

theorem ok_is [DecidableEq α] {e : Except Nat α} {a : α} (h : okIs e a = true) : e = .ok a := by
  cases e with
  | ok b => exact congrArg _ (of_decide_eq_true h)
  | error c => simp [okIs] at h

/-- A run's rows as its next micro-op finds them. -/
abbrev rowsNow (r : Run) : State := (inRun r).stepView 0 (theLaunch r) r

theorem witness_RowsWritten : (inRun theRun).Settled ∧ (inRun theRun).MayRun (theLaunch theRun) theRun 44
    ∧ theRun.rowX 1009 0 true = .ok 1009 ∧ theRun.rowX 0 0 true = .ok 0 ∧ theRun.rowY 1008 0 = .ok 1008
    ∧ (rowsNow theRun).lanes 0 theRun 1008 = .ok 5 ∧ (rowsNow theRun).lanes 0 theRun 1009 = .ok 6 ∧ (rowsNow theRun).lanes 0 theRun 1010 = .ok 3
    ∧ (rowsNow theRun).lanes 0 theRun 1020 = .ok rowOnes ∧ theRun.differs = false := by
  repeat' with_reducible apply And.intro
  all_goals first | exact runs_of _ _ _ _ (by decide +kernel) | exact ok_is (by decide +kernel) | decide +kernel

/-- Row `row` of the run after a micro-op. -/
def rowAfter (i : Instr) (row : Nat) : Option Nat :=
  match exec i (inRun theRun) with
  | .next t => (t.runAt 1).bind fun p => p.2.rows.get none row
  | _ => none

theorem witness_RowsWritten_dual : (inRun theRun).MayRun (theLaunch theRun) theRun 38 ∧ (inRun theRun).MayRun (theLaunch theRun) theRun 42
    ∧ theRun.rowX 1011 0 true = .ok 1011 ∧ rowAfter (.rnot 1011 1008 0 false) 1016 = some 5
    ∧ rowAfter (.rnot 1011 1008 0 false) 1011 = some (rowOnes - 5)
    ∧ ∀ row ∈ [1008, 1009, 1010], rowAfter (.rmaj 1011 0 0) row = some 7 :=
  ⟨runs_of _ _ _ _ (by decide +kernel), runs_of _ _ _ _ (by decide +kernel), ok_is (by decide +kernel), by decide +kernel⟩

theorem test_row_micro_ops : rowAfter (.rcopy 1009 1008 0) 1009 = some 5 ∧ rowAfter (.rmaj 1011 0 0) 1011 = some 7
    ∧ rowAfter (.rshl 1009 1008 0 0) 1009 = some 10 ∧ rowAfter (.rshr 1009 1008 0 0) 1009 = some 2 := by
  decide +kernel

/-- The same at the run's last slot of its result region, with accumulator 0 at 9. -/
def summing : Run := { theRun with acc := [(0, 9)] }

theorem witness_RunRegisters : (inRun summing).Settled ∧ (inRun summing).MayRun (theLaunch summing) summing 72
    ∧ summing.rowX 1008 0 false = .ok 1008 ∧ summing.rowY 1009 0 = .ok 1009
    ∧ (rowsNow summing).lanes 0 summing 1008 = .ok 5 ∧ (rowsNow summing).lanes 0 summing 1009 = .ok 6
    ∧ 0 ≤ (summing.b.get 0 0).toInt + (0 : Nat) ∧ summing.index * (theLaunch summing).stride + 1024 ≤ (theLaunch summing).regionLen
    ∧ isWindow (theLaunch summing).region = true ∧ objOff (theLaunch summing).region + (theLaunch summing).regionLen ≤ 2097152
    ∧ summing.differs = false
    ∧ after (exec .raclr (inRun summing)) (fun t => (t.runAt 1).any fun p => p.2.acc.get 0 0 == 0) = true := by
  repeat' with_reducible apply And.intro
  all_goals first | exact runs_of _ _ _ _ (by decide +kernel) | exact ok_is (by decide +kernel) | decide +kernel

/-- What a run leaves in mitten 1. -/
def runAfter (o : Host.Outcome State Fault Refusal) (p : Run → Bool) : Bool := after o fun t => (t.die 0).launches.any fun l => l.runs.any p
/-- A run that has written data row 0 and not sealed it, on its way, at its end, or at its start with the row poisoned or not. -/
def unsealedRun (r : Run) : State :=
  { inRun r with dies := [(0, { DieState.reset with launches := [theLaunch r], rowUnsealed := [(1, true)] })] }
def poisonedRun (r : Run) : State :=
  { inRun r with dies := [(0, { DieState.reset with launches := [theLaunch r], rowPoison := [(1, true)] })] }
def writer : Run := { theRun with written := [0] }
def sealing : Run := { writer with ending := true, todo := [.sealRow 0] }
def scrubbing : Run := { theRun with todo := [.scrub 0] }
def comparing : Run := { theRun with shadow := some 2, mismatch := true, todo := [.compare 0] }

theorem witness_RunBoundaries_ends : (unsealedRun writer).Settled ∧ (unsealedRun writer).MayRun (theLaunch writer) writer 2
    ∧ writer.broken = false ∧ 0 ∈ writer.written ∧ ((unsealedRun writer).die 0).rowUnsealed.get false (2560 * 0 + writer.mitten) = true
    ∧ (unsealedRun sealing).runAt 1 = some (theLaunch sealing, sealing) ∧ (unsealedRun sealing).stepHeld 0 sealing = false
    ∧ sealing.shadow = none ∧ sealing.ending = true ∧ sealing.todo = [0].map Chore.sealRow
    ∧ (poisonedRun scrubbing).runAt 1 = some (theLaunch scrubbing, scrubbing) ∧ scrubbing.todo = .scrub 0 :: []
    ∧ (poisonedRun scrubbing).stepHeld 0 scrubbing = false
    ∧ ((poisonedRun scrubbing).die 0).rowPoison.get false (2560 * 0 + scrubbing.mitten) = true
    ∧ (inRun comparing).runAt 1 = some (theLaunch comparing, comparing) ∧ (inRun comparing).stepHeld 0 comparing = false
    ∧ comparing.todo = .compare 0 :: [] ∧ comparing.shadow = some 2
    ∧ runAfter (exec .rend (unsealedRun writer)) (fun r => r.ending && r.todo == [.sealRow 0]) = true
    ∧ after (choreStep (unsealedRun sealing)) (fun t => !(t.die 0).rowUnsealed.get false 1) = true
    ∧ runAfter (choreStep (unsealedRun sealing)) (fun r => r.stage == .ended) = true
    ∧ runAfter (choreStep (poisonedRun scrubbing)) (fun r => r.stage == .failed) = true
    ∧ runAfter (choreStep (inRun comparing)) (fun r => r.stage == .failed) = true :=
  ⟨by decide +kernel, runs_of _ _ _ _ (by decide +kernel), by decide +kernel⟩

theorem witness_RunBoundaries : (inRun theRun).Settled ∧ (inRun theRun).MayRun (theLaunch theRun) theRun 36
    ∧ (inRun theRun).MayRun (theLaunch theRun) theRun 2 ∧ (inRun theRun).MayRun (theLaunch theRun) theRun 0
    ∧ theRun.rowRange 0 0 1 true = .ok [0] ∧ theRun.rowRange 0 0 1 false = .ok [0] ∧ ((inRun theRun).die 0).rowErrs = []
    ∧ ((inRun theRun).die 0).rowUnsealed.get false 1 = false ∧ ((inRun theRun).die 0).rowPoison.get false 1 = false
    ∧ theRun.broken = false ∧ theRun.shadow = none
    ∧ after (exec (.rraise 5) (inRun theRun)) (fun t => (t.die 0).launches.any fun l => l.runs.any fun r => r.stage == .failed) = true
    ∧ after (exec .rend (inRun theRun)) (fun t => (t.die 0).launches.any fun l => l.runs.any fun r => r.stage == .ended) = true :=
  ⟨by decide +kernel, runs_of _ _ _ _ (by decide +kernel), runs_of _ _ _ _ (by decide +kernel), runs_of _ _ _ _ (by decide +kernel),
    ok_is (by decide +kernel), ok_is (by decide +kernel), by decide +kernel⟩

/-- A launch not yet accepted: its microprogram, one rend, in the sub-tile of object 1; its operand the first sub-tile of object 2,
bit planes of T2 in rows 0 and 1 of mitten 1. -/
def planes : List Word :=
  [BitVec.ofNat 64 (2 ^ 63 + 16 * 2 ^ 17 + 2 ^ 14 + 2 * 2 ^ 12 + 0xE * 2 ^ 8 + 0xF), 262144, 0, 0, 0, 0, BitVec.ofNat 64 (loadBase + 8192), 0]
def offered : Launch :=
  { theLaunch theRun with
    accepted := false, mprog := [], runs := [], pins := [], agent := atRows.agentOf 0
    desc := [0x10000000000, 1, BitVec.ofNat 64 (2 ^ 41 + 2 ^ 38), 0, 0, 0, window 128, 0] }
def planeOp : RunOp := ⟨0, 1, ⟨loadBase + 8192, 0⟩, 0x20000000000, 65536, 0, 2⟩
def accepting : State :=
  let s := tabled (fun x => { x with g := [(4, 0x10000000000)] }) rowObject [BitVec.ofNat 64 (65536 * 2 ^ 16 + 2), 0]
  let m := putBytes (putBytes (putBytes s.mem (loadBase + 128) (ofWords planes)) (loadBase + 8192) (ofWords rowEntry)) 65536
    (toBytes 4 0xA8000000)
  { s with mem := m, dies := [(0, { DieState.reset with launches := [offered] })] }
def ready : Launch := { theLaunch { theRun with stage := .waiting, rows := [] } with mprog := [0xA8000000] }
def starting : State := { running id with dies := [(0, { DieState.reset with launches := [ready] })] }

/-- The same with a word that is no micro-op. -/
def refusing : State := { accepting with mem := putBytes accepting.mem 65536 (toBytes 4 0xFFFFFFFF) }
/-- What acceptance supposes of the words it scans. -/
def scans (s : State) (w : Code) : Bool :=
  let r := s.scanMicro offered 0 offered.words
  r.2.isNone && !s.piecesWait r.1.flatten none && r.1.all (fun ps => !(s.eccPieces r.1.flatten).piecesPoisoned ps)
    && (r.1.map fun ps => BitVec.ofNat 32 ((s.eccPieces r.1.flatten).readPieces ps)) == [w]

theorem witness_ArrayEvents : accepting.Settled ∧ (accepting.die 0).launches.find? (fun l => !l.accepted) = some offered
    ∧ accepting.launchMayRead 0 offered = true ∧ scans accepting 0xA8000000 = true
    ∧ microOk offered.words 0xA8000000 = true ∧ accepting.acceptPool 0 offered = none
    ∧ accepting.acceptRuns 0 offered 0 1 = .ok [newRun 7 0 1 [planeOp]]
    ∧ refusing.Settled ∧ scans refusing 0xFFFFFFFF = true ∧ microOk offered.words 0xFFFFFFFF = false
    ∧ starting.Settled ∧ starting.nextRun 0 = some (ready, { theRun with stage := .waiting, rows := [] })
    ∧ (starting.die 0).duplicates ready = false ∧ (theRun.ops.map RunOp.num).Nodup
    ∧ runAfter (exec (.runStart 0 7 0) starting) (fun r => r.stage == .running && r.todo == [.scrub 0]) = true
    ∧ after (exec (.launchAcceptance 0) refusing) (fun t => (t.die 0).launches.any fun l => l.accepted && l.failed && l.runs.isEmpty) = true
    ∧ after (exec (.launchAcceptance 0) accepting)
        (fun t => (t.die 0).launches.any fun l => l.accepted && l.mprog == [0xA8000000] && l.runs.length == 1) = true := by
  decide +kernel

/-- A launch that asks for a duplicated run, with bank 1 of the pool in force. -/
def doubledLaunch : Launch :=
  { ready with desc := [0x10000000000, BitVec.ofNat 64 (1 + 2 ^ 28 + 2 ^ 51), BitVec.ofNat 64 (2 ^ 40 + 2 ^ 38), 0, 0, 0, window 128, window 0x8000] }
def doubling : State := { running id with dies := [(0, { DieState.reset with launches := [doubledLaunch], duppool := 2 })] }

theorem witness_ArrayEvents_shadow : (doubling.die 0).duplicates doubledLaunch = true
    ∧ doubling.nextRun 0 = some (doubledLaunch, { theRun with stage := .waiting, rows := [] })
    ∧ runAfter (exec (.runStart 0 7 0) doubling)
        (fun r => r.shadow == (doubling.die 0).freeShadow 1 && r.shadow.isSome && r.todo == [.scrub 0, .copy 0]) = true := by decide +kernel

/-- A run at the step limit, one at the run limit, and a launch whose run has ended. -/
def late : Run := { theRun with stepNs := 1000 }
def long : Run := { theRun with count := 16777216 }
def finishedRun : Run := { theRun with stage := .ended, sent := 1024 }
/-- Its barrier word, which 1,024 bytes come to. -/
def performing : State := withPad (inRun finishedRun) 128 (toBytes 64 (Bar.word ⟨1, 0, false, 0, 0, 0⟩))
/-- Row 0 of mitten 1 locked by the run, and waited for since clock 0. -/
def waited : State :=
  { inRun theRun with now := 20000000, dies := [(0, { DieState.reset with launches := [theLaunch theRun], lockWait := [(1, some 0)] })] }

theorem witness_ArrayEvents_limits : (inRun late).runAt 1 = some (theLaunch late, late) ∧ (theLaunch late).mprog[late.pc]? = some 0x50000000
    ∧ 1000 < late.stepNs + microNs 0x50000000 ∧ (inRun long).runAt 1 = some (theLaunch long, long)
    ∧ long.pc < (theLaunch long).mprog.length ∧ 16777216 ≤ long.count
    ∧ ((inRun finishedRun).die 0).launches.find? (fun x => x.id == 7) = some (theLaunch finishedRun) ∧ Launch.over (theLaunch finishedRun) = true
    ∧ ((inRun theRun).die 0).bankQuiet 0 = true
    ∧ ((inRun { theRun with midStep := true }).die 0).bankQuiet 0 = false
    ∧ waited.Settled ∧ (waited.die 0).lockWait.get none (2560 * 0 + 1) = some 0 ∧ 0 + (waited.die 0).lockClocks ≤ waited.now
    ∧ waited.rowLocked (rowAddr 0 1 0) none = true
    ∧ performing.chkWaits (performing.walkBarrier (theLaunch finishedRun).agent (theLaunch finishedRun).holds (window 128)) = false
    ∧ after (exec (.launchPerformed 0 7) performing) (fun t => t.me.posted == 0 && (t.die 0).launches.isEmpty
        && parseBar (t.readNum (scratchAddr 0 128) 64) == ⟨1, 1, false, 0, 0, 1024⟩) = true
    ∧ after (exec (.lockTimeout 0 1 0) waited) (fun t => (t.die 0).launches.any fun l => l.runs.any fun r => r.broken) = true
    ∧ after (exec (.stepOverrun 0 1) (inRun late)) (fun t => (t.die 0).launches.any fun l => l.runs.any fun r => r.stage == .failed) = true := by decide +kernel

/-! ### Collectives' and translation agents' steps -/

/-- The collective of one value, its own contribution 1.0 sent, changed by `f`. -/
def contributed (f : Coll → Coll) : Coll := f { inFlight with sent := true, got := [⟨0, 0, [(0, toBytes 4 0x3F800000)], false⟩] }
/-- Member 1's 2.0 has come too. -/
def complete : Coll := contributed fun c => { c with got := ⟨1, 0, [(0, toBytes 4 0x40000000)], false⟩ :: c.got }
def reducing (c : Coll) (now : Nat) : State :=
  { running id with
    now := now
    dies := [(0, { DieState.reset with
      colls := [c], rosters := [(0, some { pair with issued := 1, total := 1 })]
      port := { Port.reset with pers := 2, state := .isOpen, cfgNow := 0x0A } })] }

theorem witness_CollectiveEvents : (reducing complete 0).Settled ∧ (reducing complete 0).coll 0 0 = some complete
    ∧ (parseColl complete.desc).op = 0 ∧ (parseColl complete.desc).df = 8 ∧ complete.cause = 0
    ∧ complete.chunk < (parseColl complete.desc).chunks ∧ complete.after = [] ∧ complete.sent = true ∧ complete.missing = []
    ∧ complete.values ≠ []
    ∧ isWindow (parseColl complete.desc).dst = true ∧ objOff (parseColl complete.desc).dst + 4 ≤ 2097152
    ∧ isWindow (parseColl complete.desc).crec = true ∧ objOff (parseColl complete.desc).crec + 80 ≤ 2097152
    ∧ (parseColl complete.desc).recordBytes 2 = 80
    ∧ windowByte complete.agent.die (parseColl complete.desc).dst + 4 ≤ windowByte complete.agent.die (parseColl complete.desc).crec
    ∧ after (exec (.collectiveChunk 0 0) (reducing complete 0)) (fun t => t.readNum (scratchAddr 0 0x2000) 4 == 0x40400000
        && t.readNum (scratchAddr 0 (0x3000 + 64)) 8 == 2 && (t.coll 0 0).any fun y => y.chunk == 1 && y.wrote == 4) = true := by
  decide +kernel

/-- Only the module's own contribution, before and after the deadline of 10 ms, and the collective ended, with a barrier word or
not. -/
def partly : Coll := contributed id
def ended (bar : Word) : Coll := contributed fun c => { c with chunk := 1, wrote := 4, desc := c.desc.set 3 bar }
/-- Member 1's 2.0 behind a UALink header, and the collective it is for. -/
def wireBytes2 : List Byte := [0, 0] ++ toBytes 4 0x40000000
def theName : CollName := ⟨5, 0⟩
def fromOne : WirePart := ⟨1, 0, 0, 8⟩

theorem witness_CollectiveEvents_arrivals : (reducing partly 0).Settled ∧ (reducing partly 0).coll 0 0 = some partly
    ∧ (reducing partly 0).deadlinePassed 0 partly = false ∧ 2 ≤ ((reducing partly 0).die 0).port.pers
    ∧ (let q := ((reducing partly 0).die 0).port
       ((q.recv.get Chan.reset 1).receive q.pers (q.codes 0 1) 0 ⟨5, 0, 1, 0, 0, 8⟩ wireBytes2).1
         = [(0, ⟨5, 0, 1, 0, 0, 8⟩, toBytes 4 0x40000000)])
    ∧ (reducing partly 0).matching 0 ⟨5, 0, 1, 0, 0, 8⟩ = some partly ∧ partly.expects 1 0 = true ∧ partly.have 1 0 = none
    ∧ 4096 * 0 + 4 ≤ (parseColl partly.desc).wireBytes ((parseColl partly.desc).count 0) ∧ partly.whole 1 0 = false
    ∧ (reducing partly 0).matching 0 ⟨5, 0, 1, 0, 0, 0⟩ = some partly ∧ (reducing partly 0).matching 0 ⟨5, 1, 1, 0, 0, 0⟩ = none
    ∧ ((reducing partly 0).die 0).rosterOf 5 = some (0, { pair with issued := 1, total := 1 })
    ∧ (reducing partly 30000000).deadlinePassed 0 partly = true ∧ partly.missing = [1]
    ∧ after (exec (.wireBlockReceive 0 theName fromOne 0 1 wireBytes2) (reducing partly 0))
        (fun t => (t.coll 0 0).any fun y => y.missing.isEmpty) = true
    ∧ after (exec (.poisonNotice 0 theName 1 0) (reducing partly 0)) (fun t => (t.coll 0 0).any fun y => y.have 1 0 == some ⟨1, 0, [], true⟩) = true
    ∧ after (exec (.poisonNotice 0 ⟨5, 1⟩ 1 0) (reducing partly 0)) (fun t => (t.die 0).early == [⟨⟨5, 1, 1, 0, 0, 0⟩, [], true⟩]) = true
    ∧ ((reducing partly 0).die 0).rosterOf 6 = none
    ∧ after (exec (.poisonNotice 0 ⟨6, 0⟩ 1 0) (reducing partly 0)) (fun t => (t.die 0).early == [⟨⟨6, 0, 1, 0, 0, 0⟩, [], true⟩]) = true
    ∧ after (exec (.chunkDeadline 0 0) (reducing partly 30000000))
        (fun t => (t.coll 0 0).any fun y => y.lost == [1] && y.excluded == [(0, 1)]) = true := by decide +kernel

theorem witness_CollectiveEvents_end : (reducing (ended 0) 0).coll 0 0 = some (ended 0) ∧ (parseColl (ended 0).desc).chunks ≤ (ended 0).chunk
    ∧ (parseColl (ended 0).desc).bar = 0 ∧ (reducing (ended (window 128)) 0).coll 0 0 = some (ended (window 128))
    ∧ (let c := ended (window 128)
       let p := parseColl c.desc
       let s := reducing c 0
       p.bar = window 128 ∧ s.chkWaits (s.walk c.agent .engWrite (c.pins.map (·.entry)) p.crec 1 0 512) = false
       ∧ s.chkWaits (s.walkBarrier c.agent (c.pins.map (·.entry)) p.bar) = false ∧ c.excluded = [] ∧ c.cause = 0)
    ∧ after (exec (.collectiveComplete 0 0) (reducing (ended 0) 0)) (fun t => (t.coll 0 0).isNone
        && t.readNum (scratchAddr 0 0x3000) 8 == 1 + 2 ^ 32 && t.readNum (scratchAddr 0 0x3010) 8 == 5) = true
    ∧ after (exec (.collectiveComplete 0 0) (reducing (ended (window 128)) 0)) (fun t => (t.coll 0 0).isNone
        && parseBar (t.readNum (scratchAddr 0 128) 64) == ⟨0, 1, false, 0, 0, 4⟩) = true := by decide +kernel

/-- A command of die 0's translation agent on the first sub-tile of `twoTiles`. -/
def tableBase : Word := BitVec.ofNat 64 (4 * 2 ^ 56 + loadBase)
def command (op tstate loc n : Nat) : List Word :=
  [BitVec.ofNat 64 (op + 256 * tstate), if op = 6 then 0 else 1, BitVec.ofNat 64 (n * 2 ^ 32), BitVec.ofNat 64 loc, 0, 0, 0, 0]
def translating (started : Bool) (ws es : List Word) (ms : List Reloc) : State :=
  let s := tabled id twoTiles es
  let m := putBytes (putBytes s.mem (loadBase + 0x8000) (ofWords [tableBase])) (loadBase + 0x10000) (ofWords ws)
  { s with mem := m, dies := [(0, { DieState.reset with
      astab := BitVec.ofNat 64 (loadBase + 0x8000), relocs := ms
      tcmds := [⟨loadBase + 0x10000, if started then ws else [], started, 0, 0, if started then tableBase else 0, none⟩] })] }
def resident : List Word := [BitVec.ofNat 64 (32768 * 2 ^ 16 + 2), 0, 0, 0]

theorem witness_TranslationEvents_begin : (translating false (command 1 2 32768 2) [] []).Settled
    ∧ (translating false (command 1 2 32768 2) [] []).tUnread (loadBase + 0x10000) = 0
    ∧ command 1 2 32768 2 = toWords 8 ((translating false (command 1 2 32768 2) [] []).readBytes (loadBase + 0x10000) 64)
    ∧ (translating false (command 1 2 32768 2) [] []).tStart (parseTDesc (command 1 2 32768 2))
        ((translating false (command 1 2 32768 2) [] []).astabBase 0 0) = 0
    ∧ after (exec (.install 0) (translating false (command 1 2 32768 2) [] [])) (fun t => (t.die 0).tcmds.any fun c => c.started) = true := by
  decide +kernel

theorem witness_TranslationEvents_healthy (b : Bool) (ws es : List Word) (ms : List Reloc) : (translating b ws es ms).Healthy :=
  healthy_die _ _ rfl rfl rfl rfl

theorem witness_TranslationEvents_tables (s : State) : (∀ i, i < 16 → s.region (loadBase + 4096 + i) ≠ none)
    ∧ ∀ i, i < 64 → s.region (loadBase + 64 + i) ≠ none :=
  ⟨fun i hi => lpddr_region _ _ (by simp [loadBase]; omega) (by simp [loadBase]; omega),
    fun i hi => lpddr_region _ _ (by simp [loadBase]; omega) (by simp [loadBase]; omega)⟩

/-- A command that has begun, on entries in the states it accepts. -/
abbrev turns (ws es : List Word) (st : Nat) : Prop :=
  let s := translating true ws es []
  let ea := loadBase + 4096
  let r := s.recAt (loadBase + 64)
  (parseTDesc ws).record tableBase = some (loadBase + 64) ∧ s.windowRefused (loadBase + 64) = false ∧ s.windowRefused ea = false
    ∧ s.recValid r = true ∧ r.kind < 2 ∧ r.rta = ea ∧ 0 < r.subCount ∧ s.entValid r (s.readEnt ea) = true ∧ s.pinned ea = false
    ∧ 1 < (parseTDesc ws).n ∧ (s.readEnt ea).state = st

theorem witness_TranslationEvents : turns (command 1 2 32768 2) [] 0 ∧ turns (command 3 0 0 2) resident 2
    ∧ turns (command 4 0 0 2) resident 2 ∧ turns (command 2 0 (loadBase + 0x100000) 2) resident 2
    ∧ (let s := translating true (command 1 2 32768 2) [] []
       let q := parseTDesc (command 1 2 32768 2)
       q.place (s.recAt (loadBase + 64)) 0 = some 32768 ∧ s.badPlace q (s.recAt (loadBase + 64)) 0 = false ∧ q.zf = false)
    ∧ (let s := translating true (command 3 0 0 2) resident []
       let q := parseTDesc (command 3 0 0 2)
       q.place (s.recAt (loadBase + 64)) 0 = some 0 ∧ s.badPlace q (s.recAt (loadBase + 64)) 0 = false)
    ∧ (let s := translating true (command 2 0 (loadBase + 0x100000) 2) resident []
       let q := parseTDesc (command 2 0 (loadBase + 0x100000) 2)
       let r := s.recAt (loadBase + 64)
       let dst := loadBase + 0x100000
       r.relst ≠ 1 ∧ q.target r 0 = some dst ∧ s.locFits r dst (s.locTier dst) = true ∧ s.locRefused r dst = false)
    ∧ (parseTDesc (command 5 0 0 0)).record tableBase = some (loadBase + 64) ∧ (parseTDesc (command 5 0 0 0)).useBar = 0
    ∧ (parseTDesc (command 6 0 0 0)).op = 6 ∧ (translating true (command 6 0 0 0) [] []).allPins = [] := by decide +kernel

theorem witness_TranslationEvents_clear : let s := translating true (command 3 0 0 2) resident []
    (s.die 0).relocs = [] ∧ (∀ a ∈ ([loadBase + 0x10000, s.astabAddr 0 0, loadBase + 64, loadBase + 4096] : List Nat), s.rowWaits a none = false)
    ∧ (∀ a ∈ (parseTDesc (command 3 0 0 2)).record (s.astabBase 0 0), s.rowWaits a none = false) := by decide +kernel

theorem test_translation_events :
    after (exec (.install 0) (translating true (command 1 2 32768 2) [] []))
      (fun t => (t.readEnt (loadBase + 4096)).state == 2 && (t.readEnt (loadBase + 4096)).loc0 == 32768) = true
    ∧ after (exec (.evict 0) (translating true (command 3 0 0 2) resident [])) (fun t => (t.readEnt (loadBase + 4096)).state == 0) = true
    ∧ after (exec (.markp 0) (translating true (command 4 0 0 2) resident [])) (fun t => (t.readEnt (loadBase + 4096)).state == 6) = true
    ∧ after (exec (.reloc 0) (translating true (command 2 0 (loadBase + 0x100000) 2) resident []))
        (fun t => (t.readEnt (loadBase + 4096)).state == 5 && (t.die 0).relocs.length == 1) = true
    ∧ after (exec (.count 0) (translating true (command 5 0 0 0) [] []))
        (fun t => t.readNum (loadBase + 64 + 6) 1 == 1 && (t.die 0).tcmds.isEmpty) = true
    ∧ after (exec (.flush 0) (translating true (command 6 0 0 0) [] [])) (fun t => (t.die 0).tcmds.isEmpty) = true := by decide +kernel

/-- The first sub-tile under way to LPDDR-6: its bytes still to be copied, copied, or lost on the way. -/
def moved (swap fail : Bool) : State :=
  translating true (command 2 0 (loadBase + 0x100000) 2)
    [BitVec.ofNat 64 (32768 * 2 ^ 16 + 5), BitVec.ofNat 64 (loadBase + 0x100000), 0, 0]
    [⟨0, loadBase + 4096, loadBase + 64, 0, 32768, loadBase + 0x100000, 4096, swap, fail⟩]

theorem witness_TranslationEvents_relocation : (moved false false).Settled ∧ (moved false false).destGone ⟨0, loadBase + 4096, loadBase + 64, 0, 32768, loadBase + 0x100000, 4096, false, false⟩ = false
    ∧ (∀ a ∈ ((moved false false).recAt (loadBase + 64)).rowsAt 32768 ++ ((moved false false).recAt (loadBase + 64)).rowsAt (loadBase + 0x100000),
        (moved false false).rowWaits a none = false)
    ∧ ((moved false false).recAt (loadBase + 64)).layout < 2 ∧ ((moved false false).recAt (loadBase + 64)).subSize = 4096
    ∧ (∀ i, i < 4096 → (moved false false).region (loadBase + 0x100000 + i) ≠ none)
    ∧ (moved true false).otherPins (loadBase + 4096) = 0 ∧ (moved true false).rowWaits (loadBase + 4096) none = false
    ∧ (moved false true).destGone ⟨0, loadBase + 4096, loadBase + 64, 0, 32768, loadBase + 0x100000, 4096, false, true⟩ = true
    ∧ (moved true false).destGone ⟨0, loadBase + 4096, loadBase + 64, 0, 32768, loadBase + 0x100000, 4096, true, false⟩ = false
    ∧ (moved true false).hostHolds ((moved true false).recAt (loadBase + 64)) 32768 = false
    ∧ (parseTDesc (command 2 0 (loadBase + 0x100000) 2)).n = 2 ∧ (parseTDesc (command 2 0 (loadBase + 0x100000) 2)).useBar = 0
    ∧ (parseTDesc (command 2 0 (loadBase + 0x100000) 2)).useCrec = 0
    ∧ after (exec (.relocDestWriteFail 0 0) (moved false true)) (fun t => (t.readEnt (loadBase + 4096)).state == 2
        && (t.readEnt (loadBase + 4096)).loc0 == 32768) = true :=
  ⟨by decide +kernel, by decide +kernel, by decide +kernel, by decide +kernel, by decide +kernel,
    fun i hi => lpddr_region _ _ (by simp [loadBase]; omega) (by simp [loadBase]; omega), by decide +kernel⟩

/-- A request of the command has failed in flight before the swap. -/
def movedLate : State :=
  let s := moved true false
  { s with dies := s.dies.map fun p => (p.1, { p.2 with tcmds := p.2.tcmds.map fun c => { c with late := some 64 } }) }

theorem witness_TranslationEvents_late : (movedLate.die 0).tcmds.map TCmd.late = [some 64] ∧ movedLate.otherPins (loadBase + 4096) = 0
    ∧ movedLate.hostHolds (movedLate.recAt (loadBase + 64)) 32768 = false
    ∧ (match movedLate.tAdvance 0 (movedLate.movingCmd 0) 4096 with
        | t => (t.die 0).tcmds.isEmpty && (t.die 0).norep) = true := by decide +kernel

/-- The command on the object's last sub-tile, or in a state it does not take, with a completion record or a barrier word in
LPDDR-6; and one whose object has no valid record. -/
def recorder (op n use : Nat) : List Word :=
  [BitVec.ofNat 64 op, 1, BitVec.ofNat 64 (n * 2 ^ 32), 0, BitVec.ofNat 64 (if use = 0 then 0 else loadBase + 0x40000),
    BitVec.ofNat 64 (if use = 0 then loadBase + 0x40000 else 0), 0, 0]
def endsWith (s : State) (i : Instr) (crec : Bool) (status : Nat) (b : Bar) : Bool :=
  after (exec i s) fun t => (t.die 0).tcmds.isEmpty
    && if crec then t.readNum (loadBase + 0x40000) 8 == status else parseBar (t.readNum (loadBase + 0x40000) 64) == b
def gone : List Word := [BitVec.ofNat 64 (32768 * 2 ^ 16 + 6), 0, 0, 0]

theorem witness_TranslationEvents_ends :
    let s (op n use : Nat) (es : List Word) := translating true (recorder op n use) es []
    let q := parseTDesc (recorder 1 2 0)
    turns (recorder 1 2 0) resident 2 ∧ tAccepts 1 2 = false ∧ (s 1 2 0 resident).piecesWait q.endPieces none = false
    ∧ (parseTDesc (recorder 4 1 0)).n = 0 + 1 ∧ ((s 4 1 0 gone).readEnt (loadBase + 4096)).state = 6
    ∧ (s 4 1 0 gone).pinned (loadBase + 4096) = false
    ∧ q.useBar = 0 ∧ q.useCrec = loadBase + 0x40000
    ∧ (parseTDesc (recorder 4 1 1)).useCrec = 0 ∧ (parseTDesc (recorder 4 1 1)).useBar = loadBase + 0x40000
    ∧ endsWith (s 1 2 0 resident) (.install 0) true 0x802 ⟨0, 0, false, 0, 0, 0⟩ = true
    ∧ endsWith (s 4 1 1 gone) (.markp 0) false 0 ⟨0, 1, false, 0, 0, 0⟩ = true := by
  decide +kernel

theorem witness_TranslationEvents_refused : (translating false (command 9 0 0 0) [] []).tUnread (loadBase + 0x10000) = 0
    ∧ (translating false (command 9 0 0 0) [] []).tStart (parseTDesc (command 9 0 0 0))
        ((translating false (command 9 0 0 0) [] []).astabBase 0 0) ≠ 0
    ∧ after (exec (.flush 0) (translating false (command 9 0 0 0) [] [])) (fun t => (t.die 0).tcmds.isEmpty && (t.die 0).norep) = true := by
  decide +kernel

/-! ### Port groups, the host, boot -/

/-- Die 0's port group as `f` makes it. -/
def ported (f : Port → Port) : State := { running id with dies := [(0, { DieState.reset with port := f Port.reset })] }
def portOf (i : Instr) (s : State) : Port :=
  match exec i s with
  | .next t => (t.die 0).port
  | _ => (s.die 0).port

/-- A block sent on channel 1, and groups whose draining has lasted 100 us: of memory personality with a read of strand 0 that R363
refuses and two accesses through residency entries in flight, and of UALink personality with that block. -/
def sentBlock : Block := ⟨1, some 0, false, 1, 1, ⟨5, 0, 0, 0, 0, 8⟩, [1, 2, 3, 4]⟩
def lateOf (elem : Option Nat) : State :=
  let s := ported fun p => { p with state := .drain, pers := 1, refused := 4096, infl := 2, lateReqs := [⟨.strand 0 elem, 64, false⟩] }
  { s with now := 190000, strands := s.strands.map fun p => (p.1, { p.2 with held := true }) }
def lateMemory : State := lateOf none
def lateBlocks : State := { ported fun p => { p with state := .drain, pers := 2, flight := [sentBlock] } with now := 190000 }
/-- A connection of an open Ultra Ethernet group with one block sent and one that has still to go. -/
def connected : State :=
  ported fun p => { p with state := .isOpen, pers := 3, cfgNow := 0x0A, flight := [{ sentBlock with chan := 4 }, { sentBlock with chan := 4, seq := none }] }
theorem witness_PortEvents_late : (lateOf (some 3)).piecesWait ((lateOf (some 3)).latePieces ((lateOf (some 3)).die 0).port.lateReqs) none = false
    ∧ ((lateOf (some 3)).strand 0).failAt = none ∧ ((lateOf (some 3)).strand 0).st = .run
    ∧ after (exec (.drainTimeout 0) (lateOf (some 3))) (fun t => t.me.failAt == some 3 && t.agenda == [.strand 0]) = true
    ∧ inWindow 0 (windowBase 0 + 64) = true ∧ lateMemory.issuer = none ∧ lateMemory.windowRefused (windowBase 0 + 64) = true
    ∧ (lateMemory.issuing (some (.strand 0 none))).issuer = some (.strand 0 none)
    ∧ (lateMemory.die 0).port.passes (.strand 0 none) = true
    ∧ (lateMemory.issuing (some (.strand 0 none))).windowRefused (windowBase 0 + 64) = false := by decide +kernel

/-- Two expanders of 4,096 bytes, interleaved by 256, with a byte left behind at the first byte of the second. -/
def expanded (st : PortState) : State :=
  ported fun p => { p with state := st, tgt := 1, cfgNow := 1, expanders := [4096, 4096], store := [(281474976710656, 0x77)] }

theorem witness_PortEvents_blocks : ((connected.die 0).port.pers = 3)
    ∧ (let q := portOf (.connectionAbandoned 0 4) connected
       q.failed = 1 ∧ q.flight.map Block.seq = [some 0, some 1] ∧ q.state = .isOpen) := by decide +kernel

theorem witness_PortEvents_window : ((expanded .map).die 0).port.tgt = 1 ∧ ((expanded .map).die 0).port.capacity ≠ 0
    ∧ Sparse.wf memDefault ((expanded .map).die 0).port.store = true
    ∧ ((expanded .map).die 0).port.expanderKey ((expanded .map).die 0).port.gran = 281474976710656
    ∧ after (exec (.mapComplete 0) (expanded .map)) (fun t => (t.die 0).port.state == .isOpen
        && t.readByte (windowBase 0 + (t.die 0).port.gran) == 0x77) = true := by decide +kernel

theorem witness_PortEvents : (ported id).Settled ∧ ((ported id).die 0).port.state = .off ∧ wbits (0x22 : Word) 0 3 = 2
    ∧ wbits (0x22 : Word) 4 3 = 2 ∧ (ported fun p => { p with state := .train }).Settled
    ∧ ((ported fun p => { p with state := .train }).die 0).port.trainSince + 1900000000 ≤ ({ ported id with now := 1900000000 } : State).now
    ∧ (ported fun p => { p with state := .map, tgt := 3, cntNow := 0 }).readPeers 3 0 0 none = some []
    ∧ rowsOf 0 0 = []
    ∧ ((ported fun p => { p with state := .drain, flight := [sentBlock] }).die 0).port.drainSince + usClocks 100 ≤ 190000
    ∧ (portOf (.don 0 0x22) (ported id)).state = .train ∧ (portOf (.don 0 0x12) (ported fun p => { p with pcfg := 3 })).fcause = 4
    ∧ (portOf (.doff 0) (ported id)).fcause = 4 ∧ (portOf (.doff 0) (ported fun p => { p with state := .isOpen })).state = .stop
    ∧ (portOf (.linksTrained 0 5) (ported fun p => { p with state := .train })).state = .map
    ∧ portOf (.mapComplete 0) (ported fun p => { p with state := .map, tgt := 3, cntNow := 4097 })
        = { Port.reset with state := .fault, fcause := 1, tgt := 3, cntNow := 4097 }
    ∧ (portOf (.ualinkPortLost 0 1) (ported fun p => { p with state := .isOpen, pers := 2, up := 3 })).up = 1
    ∧ (portOf (.ualinkPortLost 0 0) (ported fun p => { p with state := .isOpen, pers := 2, up := 1 })).state = .fault
    ∧ (portOf (.drainComplete 0) (ported fun p => { p with state := .stop, pers := 1 })).state = .evac
    ∧ (portOf (.evacComplete 0) (ported fun p => { p with state := .evac, pers := 1 })).state = .unmap
    ∧ (portOf (.unmapComplete 0) (ported fun p => { p with state := .unmap, pers := 1 })).state = .off
    ∧ (portOf (.linkLost ⟨0, 2⟩) (ported fun p => { p with state := .isOpen, pers := 1, up := 7 })).up = 3
    ∧ (portOf (.drainTimeout 0) lateMemory).state = .evac ∧ (lateMemory.strand 0).st = .run ∧ (lateMemory.strand 0).held = true
    ∧ lateMemory.piecesWait (lateMemory.latePieces (lateMemory.die 0).port.lateReqs) none = false ∧ lateMemory.forwards 0 7 = false
    ∧ after (exec (.drainTimeout 0) lateMemory) (fun t => t.me.tcause == 7 && t.me.tval == 64 && (t.die 0).port.infl == 2) = true
    ∧ (portOf (.drainTimeout 0) lateBlocks).failed = 1 ∧ (portOf (.drainTimeout 0) lateBlocks).flight = []
    ∧ (portOf (.ualinkPortLost 0 1) (ported fun p => { p with state := .isOpen, pers := 2, up := 3, cfgNow := 0x0A, flight := [sentBlock] })).failed = 1
    ∧ (0x20000000000 / 64 ∈ ({ running id with badLines := [0x20000000000 / 64] } : State).badLines)
    ∧ after (exec (.lpddrPatrolScrub 0x20000000000) { running id with badLines := [0x20000000000 / 64] })
        (fun t => t.poisoned 0x20000000000 && t.badLines.isEmpty) = true := by decide +kernel

/-- A byte of LPDDR-6, and queue 2 enabled. -/
def hosted : State :=
  { queued farmPacket [(2, some (queueWith false false))] with mem := putBytes [] loadBase (toBytes 8 0x77) }

theorem witness_HostEvents : hosted.Settled ∧ hosted.boot ≠ .failed ∧ (hosted.region loadBase).isSome = true
    ∧ hosted.hdmFail loadBase = none ∧ hosted.rowWaits loadBase none = false ∧ (hosted.die 0).queue 2 = some (queueWith false false)
    ∧ (hosted.strand 2).st = .idle ∧ (hosted.strand 3).st = .idle
    ∧ after (exec (.hostSnoop ⟨BitVec.ofNat 48 loadBase, none⟩) hosted) (fun t => match t.out with
        | .snoop a bs p :: _ => a == loadBase && bs.headD 0 == 0x77 && !p
        | _ => false) = true
    ∧ after (exec (.hostHdmAccess (BitVec.ofNat 48 loadBase) (some [1, 2])) hosted) (fun t => t.readNum loadBase 8 == 0x201) = true
    ∧ isHost (2 ^ 47 + 8) = true ∧ hosted.hdmFail (2 ^ 47) = some 6
    ∧ after (exec (.hostSnoop ⟨BitVec.ofNat 48 (2 ^ 47 + 8), some [3, 4]⟩) hosted) (fun t => t.readNum (2 ^ 47 + 8) 2 == 0x403) = true
    ∧ after (exec (.hostBar0Access 0x130000 8 (some 7)) hosted) (fun t => (t.die 1).qage == 7) = true
    ∧ after (exec (.hostBar0Access 0x120000 8 none) hosted) (fun t => t.out == [.bar0 0x120000 560]) = true
    ∧ after (exec (.hostBar0Access 0x120000 4 none) hosted) (fun t => t.out == [.abort 0x120000]) = true
    ∧ after (exec .hostLinkDown hosted) (fun t => !t.hostUp && ((t.die 0).queue 2).any fun x => x.err && x.errc == 0x12) = true
    ∧ after (exec (.clusterPowerGate 1) hosted) (fun t => (t.core 1).gated) = true := by decide +kernel

theorem witness_HostEvents_healthy : hosted.Healthy := healthy_die _ _ rfl rfl rfl rfl

/-- A verified image of entry 64, and a roster of device 9 at the start of LPDDR-6. -/
def verified : State := { State.reset with boot := .verified 64 }
def rosterAt : State := { running id with mem := putBytes [] loadBase (toBytes 4 1 ++ toBytes 4 9) }
/-- Roster 5 in slot 0, no collective on it. -/
def installed : State := { running id with dies := [(0, { DieState.reset with rosters := [(0, some pair)] })] }

theorem witness_BootAndManagement : State.reset.bootImage = none ∧ verified.Settled ∧ verified.boot = .verified 64
    ∧ rosterAt.Settled ∧ rosterAt.rosterBody (wbits (BitVec.ofNat 64 loadBase : Word) 6 42 * 64) = some [9]
    ∧ (rosterAt.die 0).rosters = [] ∧ (installed.die 0).rosterOf 5 = some (0, pair) ∧ pair.retiring = false
    ∧ mctpReads 0x60000 = true ∧ (List.replicate 48 (0 : Byte)).length = 48 ∧ (List.replicate 128 (0 : Byte)).length = 128
    ∧ 2 ≤ ((reducing partly 0).die 0).port.pers ∧ ((reducing partly 0).die 0).port.state = .isOpen
    ∧ after (exec .moduleReset State.reset) (fun t => t.boot == .failed) = true
    ∧ after (exec .firmwareStart verified) (fun t => (t.strand 64).st == .run && (t.strand 64).pc == 64 && (t.strand 1).st == .idle) = true
    ∧ after (exec (.rosterRetire 0 5) installed) (fun t => (t.die 0).crstatus == 1 && ((t.die 0).rosters.get none 0).isNone) = true
    ∧ after (exec (.lpartWrite 0 0x0F) (running id)) (fun t => (t.core 0).lpreq == 0x0F) = true
    ∧ after (exec (.dmbaseWrite 0 0x20000000000) (running id)) (fun t => wbits (t.die 0).dmbase 12 36 == 0x20000000) = true
    ∧ after (exec (.controlRegisterWrite 0 0x10028 (BitVec.ofNat 64 loadBase)) (running id))
        (fun t => (t.die 0).tcmds == [⟨loadBase, [], false, 0, 0, 0, none⟩]) = true
    ∧ after (exec (.mctpReadRegister 0 0x60000) (running id)) (fun t => t.out.length == 1) = true := by decide +kernel

/-- RFC 5639: the base point lies on the curve. -/
theorem test_curve_base_point : onCurve curveX curveY = true := by decide

/-- A launch message for queue `q` of die 0 with request number 7, and what is answered with its queue as `x`. -/
def message (q : Nat) : List Byte := List.replicate 64 1 ++ toBytes 8 q ++ [7] ++ List.replicate 55 0
def messaged (x : Queue) : State :=
  let s := queued farmPacket [(2, some x)]
  { s with dies := s.dies.map fun p => (p.1, { p.2 with port := { Port.reset with pers := 2, state := .isOpen } }) }
def answered (q : Nat) (x : Queue) (status : Nat) : Bool :=
  after (exec (.launchMessage ⟨0, 1, 1⟩ (message q)) (messaged x)) fun t => match t.out with
    | .report 0 1 r :: _ => ofBytes (r.take 8) == 7 && ofBytes ((r.drop 8).take 8) == status && r.length == 128
    | _ => false

theorem witness_BootAndManagement_messages : (message 2).length = 128
    ∧ (messaged (queueWith false false)).piecesWait ((messaged (queueWith false false)).messagePlaces (toWords 16 (message 2))) none = false
    ∧ 2 ≤ ((messaged (queueWith false false)).die 0).port.pers ∧ ((messaged (queueWith false false)).die 0).port.state = .isOpen
    ∧ (messaged (queueWith false false)).physLost ((queueWith false false).slot 1) = none
    ∧ (messaged (queueWith false false)).physLost (queueWith false false).taila = none
    ∧ answered 2 (queueWith false false) (1 + 1 * 65536) = true ∧ answered 2 { queueWith false false with tail := 16 } 2 = true
    ∧ answered 2 { queueWith false false with err := true } 3 = true ∧ answered 3 (queueWith false false) 3 = true
    ∧ answered 131072 (queueWith false false) 4 = true
    ∧ after (exec (.launchMessage ⟨0, 1, 1⟩ (message 2)) (messaged (queueWith false false))) (fun t =>
        t.readBytes (queueBase + 0x20000 + 64) 64 == List.replicate 64 1 && t.readNum (queueBase + 0x10000) 8 == 2) = true
    ∧ after (exec (.mctpWriteCapw ⟨0, 0x60020, 9⟩) (running id)) (fun t => t.out == [.mctp true []] && (t.die 0).pcap == 9) = true
    ∧ after (exec (.mctpWriteCapw ⟨0, 0x60000, 9⟩) (running id)) (fun t => t.out == [.mctp false []]) = true := by decide +kernel

/-! ### The whole machine -/

/-- The turn of strand 0 with `addi 3, 4, 5` at its pc, the first byte of an object in LPDDR-6. -/
def codeBase : Nat := loadBase + 0x100000
def turning : State :=
  let s := tabled (fun x => { x with pc := 0x10000000000, g := [(4, 7)] }) rowObject [BitVec.ofNat 64 (codeBase * 2 ^ 16 + 3), 0]
  { s with mem := putBytes s.mem codeBase (toBytes 4 0x08320005), agenda := [.strand 0] }
/-- The same strand in the middle of that word. -/
def holding : State := { turning with strands := turning.strands.map fun p => (p.1, { p.2 with held := true, iw := 0x08320005 }) }

theorem witness_StepRunsDecoded : turning.Settled ∧ turning.agenda = [.strand 0] ∧ turning.me.st = .run ∧ turning.me.pend = none
    ∧ turning.me.held = false ∧ turning.freed = none
    ∧ (match turning.walk (turning.agentOf 0) .fetch turning.myHolds turning.me.pc 4 0 32 with
        | .ok h => decide (h.reach = .bytes (bytePieces codeBase 4))
        | _ => false) = true
    ∧ turning.piecesWait (bytePieces codeBase 4) (some 0) = false
    ∧ (turning.eccPieces (bytePieces codeBase 4)).piecesPoisoned (bytePieces codeBase 4) = false
    ∧ (∀ i, i < 4 → (turning.core 0).icache.get [] ((codeBase + i) / 64) = [] ∧ turning.dirtyInL1 ((codeBase + i) / 64) = false)
    ∧ BitVec.ofNat 32 (turning.readNum codeBase 4) = 0x08320005 ∧ holding.me.held = true
    ∧ (inRun theRun).runAt 1 = some (theLaunch theRun, theRun) ∧ (theLaunch theRun).mprog[theRun.pc]? = some 0x50000000
    ∧ after (step turning) (fun t => t.me.getG 3 == 12 && t.me.pc == 0x10000000004) = true := by decide +kernel

/-- A word that reads a register with an error, one whose trap comes first, a decided trap, and a step of the sequencer's own. -/
def turned (w : Code) (f : Strand → Strand) : State :=
  { turning with mem := putBytes turning.mem codeBase (toBytes 4 w.toNat), strands := turning.strands.map fun p => (p.1, f p.2) }
def decided : State := turned 0 fun x => { x with pend := some ⟨6, 7, 4096, 0x14, false, false⟩, tvec := 0x8000 }
def choring : State := { unsealedRun sealing with agenda := [.run 1] }
def acking : State := { plain with agenda := [.ack 0 4 9] }

theorem witness_StepRunsDecoded_others : (turned 0x08320005 fun x => { x with badRegs := [.g 4] }).badRead (.addi 3 4 5) = some (.g 4)
    ∧ after (step (turned 0x08320005 fun x => { x with badRegs := [.g 4] })) (fun t => t.me.tcause == 9 && t.me.getG 4 == 0) = true
    ∧ (turned 0 fun x => { x with badRegs := [.g 4], sstat := 0 }).earlyTrap (.g 4) (exec (.sret 4)) = true
    ∧ after (step (turned (BitVec.ofNat 32 ((encodeNat (.sret 4)).getD 0)) fun x => { x with badRegs := [.g 4], sstat := 0 }))
        (fun t => t.me.tcause == 3 && t.me.getG 4 == 7) = true
    ∧ decided.me.st = .run ∧ decided.me.pend = some ⟨6, 7, 4096, 0x14, false, false⟩
    ∧ after (step decided) (fun t => t.me.tcause == 6 && t.me.pc == 0x8000) = true
    ∧ choring.runAt 1 = some (theLaunch sealing, sealing) ∧ sealing.todo ≠ []
    ∧ runAfter (step choring) (fun r => r.stage == .ended) = true
    ∧ after (step acking) (fun t => t.agenda.isEmpty) = true := by decide +kernel

/-- A write of the host in a row that strand 2's alock holds (R107), put off, and its turn once the lock is gone; and an error of a
fixed memory of die 0. -/
def rowTurn (held : Option Nat) : State :=
  { atRows with
    dies := [(0, { DieState.reset with alocks := [(0, ⟨1, held, 0, [(1, 0)], []⟩)] })]
    agenda := [.event (.hostHdmAccess 32768 (some [7]))] }
def setAside : State := { rowTurn none with waiting := [(.event (.hostHdmAccess 32768 (some [7])), [32768])], agenda := [.flaw (.fixed 0)] }

theorem witness_StepRunsDecoded_waits : (rowTurn (some 2)).freed = none
    ∧ after (step (rowTurn (some 2))) (fun t => t.waiting.length == 1 && t.agenda.isEmpty && t.noted.isEmpty) = true
    ∧ setAside.freed = some 0
    ∧ after (step setAside) (fun t => t.waiting.isEmpty && t.agenda.length == 1 && t.readByte 32768 == 7) = true
    ∧ (Flaw.fixed 0).ok = true
    ∧ after (step { setAside with waiting := [] }) (fun t => (t.die 0).memerrC == 1 && t.agenda.isEmpty) = true := by decide +kernel

theorem witness_StepRunsDecoded_words : decode 0x08320005 = .ok (.addi 3 4 5) ∧ decode 0x00000000 = .error .illegal
    ∧ decode 0x60C20004 = .error .reserved ∧ decodeMicro 0x50000000 = some .raclr ∧ encodeNat (.hostLinkUp) = none := by
  refine ⟨rfl, rfl, rfl, rfl, rfl⟩

theorem witness_EncodedWordsDecode : (Instr.addi 3 4 5).wellFormed = true ∧ encodeNat (.addi 3 4 5) = some 0x08320005
    ∧ Instr.raclr.wellFormed = true ∧ encodeNat .raclr = some 0x50000000 := by
  refine ⟨rfl, rfl, rfl, rfl⟩

theorem witness_DecodedWordsEncode : (0x08320005 : Nat) < 4294967296 ∧ decodeNat 0x08320005 = .ok (.addi 3 4 5)
    ∧ decodeMicroNat 0x50000000 = some .raclr := by
  refine ⟨by decide, rfl, rfl⟩

theorem witness_SettledKept : State.reset.Settled ∧ after (step State.reset) (fun _ => true) = true ∧ turning.Settled
    ∧ after (step turning) (fun _ => true) = true := by decide +kernel
end Sys2Proof.Tests
end

section
/-! SUPPORT. Elements of vector registers: what an element reads as after elements are written (R22, R43, R162). -/

namespace Sys2Proof.Machine

/-! ## Numbers as bytes -/

theorem ofBytes_lt (bs : List Byte) : ofBytes bs < 2 ^ (8 * bs.length) := by
  induction bs with
  | nil => exact Nat.one_pos
  | cons b r ih =>
    have hb := b.isLt
    simp only [ofBytes, List.length_cons, Nat.mul_add, Nat.pow_add]
    omega

/-- Bytes cut from a number one after the other give the number back, modulo their width. -/
theorem ofBytes_bytesOf (n v : Nat) :
    ofBytes ((List.range n).map fun j => BitVec.ofNat 8 (v / 2 ^ (8 * j))) = v % 2 ^ (8 * n) := by
  induction n generalizing v with
  | zero => simp [ofBytes, Nat.mod_one]
  | succ n ih =>
    have tail : ∀ j, v / 2 ^ (8 * (j + 1)) = v / 256 / 2 ^ (8 * j) := fun j => by
      rw [Nat.div_div_eq_div_mul, Nat.mul_add, Nat.pow_add, Nat.mul_comm]
    simp only [List.range_succ_eq_map, List.map_cons, List.map_map, Function.comp_def, Nat.succ_eq_add_one, tail, ofBytes, ih,
      Nat.mul_zero, Nat.pow_zero, Nat.div_one, BitVec.toNat_ofNat]
    rw [Nat.mul_add, Nat.pow_add, Nat.mul_comm (2 ^ (8 * n)), Nat.mod_mul]

/-! ## One element -/

/-- An element is narrower than a byte, or whole bytes (R42). -/
theorem fmtBits_cases (f : Nat) : fmtBits f ∈ [0, 2, 4] ∨ 8 ≤ fmtBits f ∧ 8 ∣ fmtBits f := by
  unfold fmtBits
  split <;> decide

theorem elemAt_lt (m : Sparse Byte) (base f i : Nat) : elemAt m base (fmtBits f) i < 2 ^ fmtBits f := by
  unfold elemAt
  split
  next => exact Nat.mod_lt _ (Nat.two_pow_pos _)
  next h =>
    have hd : 8 * (fmtBits f / 8) = fmtBits f := Nat.mul_div_cancel' ((fmtBits_cases f).resolve_left (by grind)).2
    simpa [hd] using ofBytes_lt ((List.range (fmtBits f / 8)).map fun j => m.get 0 (base + i * (fmtBits f / 8) + j))

/-- Bytes written at consecutive keys. -/
theorem Sparse.get_putBytes (m : Sparse Byte) (a n k : Nat) (b : Nat → Byte) :
    ((List.range n).foldl (fun m j => m.put 0 (a + j) (b j)) m).get 0 k =
      if a ≤ k ∧ k < a + n then b (k - a) else m.get 0 k := by
  induction n with
  | zero => simp only [List.range_zero, List.foldl_nil]; rw [if_neg (by omega)]
  | succ n ih =>
    rw [List.range_succ, List.foldl_append, List.foldl_cons, List.foldl_nil, Sparse.get_put, ih]
    grind

/-- Two bits or four of a byte replaced: field `j` of `w` bits of byte `old` when field `i` is written. -/
theorem field_replaced (w : Nat) (hw : w ∈ [2, 4]) (old v i j : Nat) (ho : old < 256) (hb : j * w / 8 = i * w / 8) :
    (old - old / 2 ^ (i * w % 8) % 2 ^ w * 2 ^ (i * w % 8) + v % 2 ^ w * 2 ^ (i * w % 8)) % 2 ^ 8 / 2 ^ (j * w % 8) % 2 ^ w
      = if j = i then v % 2 ^ w else old / 2 ^ (j * w % 8) % 2 ^ w := by
  obtain rfl | rfl : w = 2 ∨ w = 4 := by simpa using hw
  · have place : ∀ n, n * 2 % 8 = 0 ∨ n * 2 % 8 = 2 ∨ n * 2 % 8 = 4 ∨ n * 2 % 8 = 6 := by omega
    rcases place i with hi | hi | hi | hi <;> rcases place j with hj | hj | hj | hj <;> rw [hi, hj] <;> split <;> omega
  · have place : ∀ n, n * 4 % 8 = 0 ∨ n * 4 % 8 = 4 := by omega
    rcases place i with hi | hi <;> rcases place j with hj | hj <;> rw [hi, hj] <;> split <;> omega

theorem elemAt_putElem_narrow (w : Nat) (hw : w ∈ [2, 4]) (m : Sparse Byte) (base i j v : Nat) :
    elemAt (putElem m base w i v) base w j = if j = i then v % 2 ^ w else elemAt m base w j := by
  have h8 : w < 8 := by grind
  simp only [elemAt, putElem, if_pos h8, Sparse.get_put]
  by_cases hb : j * w / 8 = i * w / 8
  · rw [if_pos (by omega), BitVec.toNat_ofNat, field_replaced w hw _ v i j (BitVec.isLt _) hb, hb]
  · rw [if_neg (by omega), if_neg (by rintro rfl; exact hb rfl)]

theorem elemAt_putElem_bytes (n : Nat) (hn : 0 < n) (m : Sparse Byte) (base i j v : Nat) :
    elemAt (putElem m base (8 * n) i v) base (8 * n) j = if j = i then v % 2 ^ (8 * n) else elemAt m base (8 * n) j := by
  have h8 : ¬ 8 * n < 8 := by omega
  simp only [elemAt, putElem, if_neg h8, Nat.mul_div_cancel_left n (by decide : 0 < 8), Sparse.get_putBytes]
  split
  next h =>
    subst h
    rw [← ofBytes_bytesOf]
    congr 1
    refine List.map_congr_left fun t ht => ?_
    rw [List.mem_range] at ht
    rw [if_pos (by omega), Nat.add_sub_cancel_left]
  next h =>
    congr 1
    refine List.map_congr_left fun t ht => ?_
    rw [List.mem_range] at ht
    have apart : j * n + n ≤ i * n ∨ i * n + n ≤ j * n := by
      rw [← Nat.succ_mul, ← Nat.succ_mul]
      exact (Nat.lt_or_gt_of_ne h).imp (Nat.mul_le_mul_right n) (Nat.mul_le_mul_right n)
    rw [if_neg (by omega)]

/-- An element written reads as the low bits of what was written, and every other element of the register as before, in whichever
format its instruction writes (R42). -/
theorem elemAt_putElem (f : Nat) (m : Sparse Byte) (base i j v : Nat) :
    elemAt (putElem m base (fmtBits f) i v) base (fmtBits f) j =
      if j = i then v % 2 ^ fmtBits f else elemAt m base (fmtBits f) j := by
  rcases fmtBits_cases f with h | ⟨h, n, hn⟩
  · rcases List.mem_cons.mp h with h0 | h
    · have zero : ∀ m' : Sparse Byte, elemAt m' base (fmtBits f) j = 0 := fun m' => by
        have := elemAt_lt m' base f j
        rw [h0] at this ⊢
        omega
      rw [zero, zero, h0, Nat.pow_zero, Nat.mod_one, ite_self]
    · exact elemAt_putElem_narrow _ h m base i j v
  · rw [hn]
    exact elemAt_putElem_bytes n (by omega) m base i j v

/-- An element's bytes are among the 32,768 of its register (R22). -/
theorem elem_bytes_lt {f i : Nat} (hi : i < vlmax f) :
    i * fmtBits f / 8 < 32768 ∧ i * (fmtBits f / 8) + fmtBits f / 8 ≤ 32768 := by
  have hw : 0 < fmtBits f := Nat.pos_of_ne_zero fun h => by simp [vlmax, h] at hi
  have bits : (i + 1) * fmtBits f ≤ 262144 := (Nat.le_div_iff_mul_le hw).mp hi
  have bytes : (i + 1) * (fmtBits f / 8) * 8 ≤ (i + 1) * fmtBits f := by
    rw [Nat.mul_assoc]
    exact Nat.mul_le_mul_left _ (Nat.div_mul_le_self ..)
  simp only [Nat.add_one_mul] at bits bytes
  omega

/-- An element depends on its register's bytes alone. -/
theorem elemAt_congr (m m' : Sparse Byte) (base : Nat) {f i : Nat} (hi : i < vlmax f)
    (h : ∀ k, k < 32768 → m'.get 0 (base + k) = m.get 0 (base + k)) :
    elemAt m' base (fmtBits f) i = elemAt m base (fmtBits f) i := by
  obtain ⟨hn, hw⟩ := elem_bytes_lt hi
  unfold elemAt
  split
  next => rw [h _ hn]
  next =>
    congr 1
    refine List.map_congr_left fun j hj => ?_
    rw [List.mem_range] at hj
    rw [Nat.add_assoc, h _ (by omega)]

/-- A write of an element leaves every byte outside its register. -/
theorem get_putElem_outside (m : Sparse Byte) {base f i v k : Nat} (hi : i < vlmax f) (hk : k < base ∨ base + 32768 ≤ k) :
    (putElem m base (fmtBits f) i v).get 0 k = m.get 0 k := by
  obtain ⟨hn, hw⟩ := elem_bytes_lt hi
  unfold putElem
  split
  next => rw [Sparse.get_put_ne _ _ _ (by omega)]
  next => rw [Sparse.get_putBytes, if_neg (by omega)]

/-! ## Elements of a strand's registers -/

theorem Strand.elem_lt (x : Strand) (v : VReg) (f i : Nat) : x.elem v f i < 2 ^ fmtBits f := elemAt_lt ..

/-- The elements `is` written with what `r` gives each of them read so, and the others as before. -/
theorem Strand.elem_setElems (x : Strand) (v : VReg) (f : Nat) (is : List Nat) (r : Nat → Nat) (j : Nat) :
    (x.setElems v f (is.map fun i => (i, r i))).elem v f j = if j ∈ is then r j % 2 ^ fmtBits f else x.elem v f j := by
  have written : ∀ m : Sparse Byte, elemAt ((is.map fun i => (i, r i)).foldl
      (fun m p => putElem m (32768 * v.val) (fmtBits f) p.1 p.2) m) (32768 * v.val) (fmtBits f) j
        = if j ∈ is then r j % 2 ^ fmtBits f else elemAt m (32768 * v.val) (fmtBits f) j := by
    induction is with
    | nil => simp
    | cons i is ih =>
      intro m
      rw [List.map_cons, List.foldl_cons, ih, elemAt_putElem]
      grind
  exact written x.v

/-- A write of elements of one register leaves the others'. -/
theorem Strand.elem_setElems_other (x : Strand) {u v : VReg} (hu : u ≠ v) {f f' j : Nat} {ws : List (Nat × Nat)}
    (hws : ∀ p ∈ ws, p.1 < vlmax f) (hj : j < vlmax f') : (x.setElems v f ws).elem u f' j = x.elem u f' j := by
  have apart : u.val < v.val ∨ v.val < u.val := Nat.lt_or_gt_of_ne (Fin.val_ne_of_ne hu)
  refine elemAt_congr _ _ _ hj fun k hk => ?_
  refine List.foldlRecOn (motive := fun m : Sparse Byte => m.get 0 (32768 * u.val + k) = x.v.get 0 (32768 * u.val + k)) ws _ rfl
    fun m hm p hp => ?_
  rw [get_putElem_outside m (hws p hp) (by omega), hm]

theorem Sparse.get_filter_key {α : Type} (d : α) (m : Sparse α) (g : Nat → Bool) (k : Nat) :
    Sparse.get d (m.filter fun p => g p.1) k = if g k then m.get d k else d := by
  induction m with
  | nil => simp
  | cons p r ih => grind [Sparse.get]

/-- Where no group carries poison, none does after a write of elements. -/
theorem Strand.setElems_clean (x : Strand) (v : VReg) (f : Nat) (ws : List (Nat × Nat)) (k : Nat)
    (h : x.vp.get false k = false) : (x.setElems v f ws).vp.get false k = false := by
  refine (Sparse.get_filter_key false x.vp (fun n => !(n / 64 == v.val && fullEg f ws (n % 64))) k).trans ?_
  rw [h, ite_self]

end Sys2Proof.Machine
end

section
/-! SUPPORT. Computing vector instructions that run (R216, R229-R232): where nothing stops one at dispatch it retires its plan, and
what retirement leaves unchanged. -/

namespace Sys2Proof.Machine

/-! ## What stays with one strand -/

theorem State.Local.refl (s : State) : s.Local s.cur s := ⟨rfl, fun _ _ => rfl, fun _ _ => rfl, fun _ _ => rfl, fun _ => rfl⟩

theorem State.Local.cur_eq {n : Nat} {s t : State} (h : s.Local n t) : t.cur = s.cur := by rw [h.1]

theorem State.Local.upd {s t : State} (h : s.Local s.cur t) (f : Strand → Strand) : s.Local s.cur (t.upd f) := by
  have hc := h.cur_eq
  obtain ⟨he, hstrand, hcore, hdie, hmem⟩ := h
  refine ⟨?_, fun m hm => ?_, hcore, hdie, hmem⟩
  · rw [he]; rfl
  · rw [State.strand_upd, if_neg (by rwa [hc]), hstrand m hm]

theorem State.Local.updMyCore {s t : State} (h : s.Local s.cur t) (f : Core → Core) : s.Local s.cur (t.updMyCore f) := by
  have hc := h.cur_eq
  obtain ⟨he, hstrand, hcore, hdie, hmem⟩ := h
  refine ⟨?_, hstrand, fun c hm => ?_, hdie, hmem⟩
  · rw [he]; rfl
  · rw [State.updMyCore, State.core_updCore, if_neg (by rwa [hc]), hcore c hm]

theorem State.Local.updDie {s t : State} (h : s.Local s.cur t) (f : DieState → DieState) :
    s.Local s.cur (t.updDie (dieOf s.cur) f) := by
  obtain ⟨he, hstrand, hcore, hdie, hmem⟩ := h
  refine ⟨?_, hstrand, hcore, fun d hm => ?_, hmem⟩
  · rw [he]; rfl
  · rw [State.die_updDie, if_neg hm, hdie d hm]

/-- A step that stays with its strand has no stores to commit. -/
theorem State.Local.commit_eq {n : Nat} {s t : State} (h : s.Local n t) (hs : s.log = []) : commit s t = t := by
  have hl : t.log = [] := by rw [h.1]; exact hs
  have hm : t.mem = s.mem := by rw [h.1]
  rw [commit_quiet s t hl, ← hm]

/-! ## At dispatch -/

theorem Plan.poisonAt_clean (p : Plan) {x : Strand} (h : x.Clean) : p.poisonAt x = none := by
  have none_poisoned : (p.reads.filter fun r => x.elemPoison r.1 r.2.1 r.2.2) = [] := by
    rw [List.filter_eq_nil_iff]
    intro r _
    simp [Strand.elemPoison, h.1]
  rw [Plan.poisonAt, none_poisoned]
  rfl

/-- The recheck finds no second mismatch, so the plan retires; before it only the core's Y, the die's MISM and the environment's
upsets change. -/
theorem State.finishPlan_retires (s : State) (p : Plan) (h : ∀ c, s.me.mismatches c ≤ 1) :
    ∃ u, s.finishPlan p = u.retirePlan p ∧ s.Local s.cur u ∧ u.me = { s.me with upsets := u.me.upsets } := by
  unfold State.finishPlan
  split
  next =>
    have once := h (s.myCore.candidate p.cands)
    rw [if_neg (by omega)]
    exact ⟨_, rfl, (((State.Local.refl s).upd _).updDie _).updMyCore _, by simp [State.updMyCore]⟩
  next => exact ⟨s, rfl, .refl s, rfl⟩

/-- A computing instruction whose formats are legal, and which nothing stops at dispatch, retires its plan. -/
theorem State.compute_ready (s : State) {legal : Bool} {fs : List Nat} (plan : State → Plan) (hl : legal = true)
    (hr : s.VectorReady fs) : s.compute legal fs plan = s.finishPlan (plan s) := by
  obtain ⟨hlong, hstart, hclean, -⟩ := hr
  simp [State.compute, hl, hlong, Nat.not_le.mpr hstart, Plan.poisonAt_clean _ hclean]

/-! ## A vector register written -/

/-- A plan that writes elements of one vector register and no scale byte, with no random value drawn. -/
structure Plan.WritesVector (p : Plan) (v : VReg) (f : Nat) (ws : List (Nat × Nat)) : Prop where
  dest : p.dest = .vec v f ws
  scales : p.scales = []
  stoch : p.stoch = false

/-- The strand behind a computing instruction that wrote the elements `ws`. -/
def Strand.retireElems (x : Strand) (v : VReg) (f : Nat) (ws : List (Nat × Nat)) : Strand :=
  ({ x.setElems v f ws with vstart := 0 } : Strand).retire

theorem State.retirePlan_vector (s : State) {p : Plan} {v : VReg} {f : Nat} {ws : List (Nat × Nat)} (h : p.WritesVector v f ws) :
    s.retirePlan p = s.upd fun x => x.retireElems v f ws := by
  simp [State.retirePlan, Strand.retireElems, h.dest, h.scales, h.stoch]

/-- A computing instruction that nothing stops at dispatch writes its plan's elements, each as its low bits, and no other. -/
theorem State.vectorWrites_of_plan {s : State} {i : Instr} {legal : State → Bool} {fs : State → List Nat} {plan : State → Plan}
    {v : VReg} {f : Nat} {ws : List (Nat × Nat)} {r : Nat → Nat}
    (he : exec i s = run (fun s => s.compute (legal s) (fs s) plan) s) (hs : s.log = []) (hl : legal s = true)
    (hr : s.VectorReady (fs s)) (hp : (plan s).WritesVector v f ws) (hws : ∀ p ∈ ws, p.1 < vlmax f)
    (helem : ∀ j, j < vlmax f → (s.me.setElems v f ws).elem v f j = r j % 2 ^ fmtBits f) : s.VectorWrites i v f r := by
  have hready := hr
  obtain ⟨-, -, ⟨hclean, -⟩, honce⟩ := hready
  obtain ⟨u, hu, hlocal, hme⟩ := s.finishPlan_retires (plan s) honce
  generalize u.me.upsets = us at hme
  have hnext := hlocal.upd fun x => x.retireElems v f ws
  rw [run, State.compute_ready s plan hl hr, hu, State.retirePlan_vector u hp, hnext.commit_eq hs] at he
  refine ⟨_, he, ?_⟩
  rw [State.me_upd, hme]
  refine ⟨helem, fun w hw f' j hj => Strand.elem_setElems_other s.me hw hws hj, fun g hg => ?_, fun g hg => ?_,
    fun _ _ _ => rfl, fun _ => rfl, rfl, rfl, rfl, rfl, hnext⟩
  · exact absurd ((Strand.setElems_clean s.me v f ws g (hclean g)).symm.trans hg) Bool.false_ne_true
  · exact hg.elim

end Sys2Proof.Machine
end

section
/-! SUPPORT. Reductions (R69, R70, R228): the entries of one, and that it writes element 0 of its destination and no other. -/

namespace Sys2Proof.Machine

/-- A reduction's entries: the elements up to vl, absent where inactive. -/
def Strand.entries (x : Strand) (a : VReg) (k : KReg) : List (Option Nat) :=
  (List.range x.vl.toNat).map fun i => if x.getK k i then some (x.elem a x.af i) else none

theorem Strand.actives_of_vstart_zero {x : Strand} (h : x.vstart = 0) (k : KReg) :
    x.actives k = (List.range x.vl.toNat).filter (x.getK k) := by simp [Strand.actives, h]

/-- The entries that are there are the active elements in order. -/
theorem Strand.present_entries {x : Strand} (h : x.vstart = 0) (a : VReg) (k : KReg) :
    present (x.entries a k) = (x.actives k).map (x.elem a x.af) := by
  rw [x.actives_of_vstart_zero h, present, Strand.entries]
  induction List.range x.vl.toNat with
  | nil => rfl
  | cons i l ih => cases hk : x.getK k i <;> simp_all

/-- The leaves of a float reduction's tree: the entries' values (R69). -/
def Strand.leaves (x : Strand) (a : VReg) (k : KReg) : List (Option ExactNum) :=
  (List.range x.vl.toNat).map fun i => if x.getK k i then some (decodeFloat x.af (x.elem a x.af i)) else none

theorem Strand.entries_map_decode (x : Strand) (a : VReg) (k : KReg) :
    (x.entries a k).map (fun e => e.map (decodeFloat x.af)) = x.leaves a k := by
  simp only [Strand.entries, Strand.leaves, List.map_map, Function.comp_def, apply_ite (Option.map _), Option.map_some,
    Option.map_none]

/-- Element 0 alone written. -/
theorem Strand.elem_setElems_zero (x : Strand) (v : VReg) (r j : Nat) :
    (x.setElems v x.df [(0, r)]).elem v x.df j = x.first v r j % 2 ^ fmtBits x.df := by
  refine (x.elem_setElems v x.df [0] (fun _ => r) j).trans ?_
  by_cases hj : j = 0
  · simp [Strand.first, hj]
  · simp [Strand.first, hj, Nat.mod_eq_of_lt (x.elem_lt v x.df j)]

/-- A format that an instruction computes in has elements (R42). -/
theorem vlmax_pos {f : Nat} (h : isInt f = true ∨ isFloat f = true) : 0 < vlmax f := by
  simp only [isInt, isFloat, Bool.or_eq_true, Bool.and_eq_true, decide_eq_true_eq] at h
  have bounded : ∀ g, g < 14 → 0 < vlmax g := by decide
  exact bounded f (by omega)

section Writes

variable {s : State} {v a : VReg} {k : KReg} (hs : s.Settled) (h0 : s.me.vstart = 0) (hne : s.me.actives k ≠ [])
  (hr : s.VectorReady [s.me.af])

include hs h0 hne hr

/-- What a reduction does, whatever it combines: element 0 holds `r` of the initial pattern and the entries. -/
theorem reduceOp_writes {i : Instr} {legal : Strand → Bool} {r : Strand → Nat → List (Option Nat) → Nat} {c : Nat}
    (he : exec i s = reduceOp legal v a k r s) (hl : legal s.me = true) (hdf : isInt s.me.df = true ∨ isFloat s.me.df = true)
    (hc : r s.me (s.me.elem v s.me.df 0) (s.me.entries a k) = c) : s.VectorWrites i v s.me.df (s.me.first v c) := by
  refine State.vectorWrites_of_plan he hs.1 (by simp [hl, h0]) hr ⟨rfl, rfl, rfl⟩ ?_ ?_
  · simpa using vlmax_pos hdf
  · intro j _
    rw [if_neg hne]
    exact hc ▸ s.me.elem_setElems_zero v _ j

theorem intReduce_writes {i : Instr} {uns : Bool} {r : Int → Int → Int} (he : exec i s = intReduce uns v a k r s)
    (ha : isInt s.me.af = true) (hd : isInt s.me.df = true) :
    s.VectorWrites i v s.me.df (s.me.first v (putInt s.me.df s.me.sat
      (((s.me.actives k).map fun i => intRead uns s.me.af (s.me.elem a s.me.af i)).foldl r
        (intRead uns s.me.df (s.me.elem v s.me.df 0))))) :=
  reduceOp_writes hs h0 hne hr he (by simp [ha, hd]) (.inl hd) (by simp only [Strand.present_entries h0, List.foldl_map])

theorem bitsReduce_writes {i : Instr} {r : Nat → Nat → Nat} (he : exec i s = bitsReduce v a k r s)
    (ha : isInt s.me.af = true) (hd : isInt s.me.df = true) (hw : fmtBits s.me.af = fmtBits s.me.df) :
    s.VectorWrites i v s.me.df (s.me.first v
      (((s.me.actives k).map fun i => s.me.elem a s.me.af i).foldl r (s.me.elem v s.me.df 0))) :=
  reduceOp_writes hs h0 hne hr he (by simp [ha, hd, hw]) (.inl hd) (by rw [Strand.present_entries h0])

/-- A reduction of floats, its formats being legal (R213). -/
theorem floatReduce_writes {i : Instr} {r : Strand → Nat → List (Option Nat) → Nat} {c : Nat}
    (he : exec i s = reduceOp Strand.float1Formats v a k r s) (hf : s.me.float1Formats = true)
    (hc : r s.me (s.me.elem v s.me.df 0) (s.me.entries a k) = c) : s.VectorWrites i v s.me.df (s.me.first v c) :=
  reduceOp_writes hs h0 hne hr he hf (.inr (Bool.and_eq_true_iff.mp hf).2) hc

/-- A minimum or maximum of floats, where some entry is there. -/
theorem pickReduce_writes {i : Instr} {smaller : Bool} {n : ExactNum} (he : exec i s = pickReduce smaller v a k s)
    (hf : s.me.float1Formats = true) (hn : treeOf (ExactNum.pick smaller) 16 (s.me.leaves a k) = some n) :
    s.VectorWrites i v s.me.df (s.me.first v (s.me.roundDf
      (ExactNum.pick smaller (decodeFloat s.me.df (s.me.elem v s.me.df 0)) n))) :=
  floatReduce_writes hs h0 hne hr he hf (by simp only [Strand.entries_map_decode, hn])

/-- The sum by the tree, each partial sum rounded (R69), where some entry is there. -/
theorem vfrsum_writes {dt : Bool} {n : ExactNum} (hf : s.me.float1Formats = true)
    (hn : treeOf (fun p q => decodeFloat s.me.df (s.me.roundDf (ExactNum.add s.me.rm p q))) 16 (s.me.leaves a k) = some n) :
    s.VectorWrites (.vfrsum v a k dt) v s.me.df (s.me.first v (s.me.roundDf
      (ExactNum.add s.me.rm (decodeFloat s.me.df (s.me.elem v s.me.df 0)) n))) :=
  floatReduce_writes hs h0 hne hr (rfl : exec _ s = execVfrsum v a k dt s) hf (by simp only [Strand.entries_map_decode, hn])

/-- The sum in order, rounded at each addition (R70). -/
theorem vfrosum_writes {dt : Bool} (hf : s.me.float1Formats = true) :
    s.VectorWrites (.vfrosum v a k dt) v s.me.df (s.me.first v (((s.me.actives k).map fun i => s.me.elem a s.me.af i).foldl
      (fun acc c => s.me.roundDf (ExactNum.add s.me.rm (decodeFloat s.me.df acc) (decodeFloat s.me.af c)))
      (s.me.elem v s.me.df 0))) :=
  floatReduce_writes hs h0 hne hr (rfl : exec _ s = execVfrosum v a k dt s) hf (by rw [Strand.present_entries h0])

end Writes
end Sys2Proof.Machine
end

section
open Sys2Proof Sys2Proof.Machine

/-- Settles O29: each reduction is `reduceOp` of its own way to combine the entries, and `reduceOp` writes element 0 alone. -/
theorem reductions : Obligations.Reductions := by
  unfold Obligations.Reductions
  intro s v a k dt hs h0 hne x is hr si ui cs d0 u0 f0 tree rnd ints bitRows
  refine ⟨fun ha hd => ⟨fun r hrow => ?_, fun hw r hrow => ?_⟩, fun hf => ⟨fun n hn => ?_, ?_, fun n hn => ?_, fun n hn => ?_⟩⟩
  · simp only [ints, List.mem_cons, List.not_mem_nil, or_false] at hrow
    obtain rfl | rfl | rfl | rfl | rfl := hrow
    · exact intReduce_writes hs h0 hne hr (uns := false) (r := (· + ·)) rfl ha hd
    · exact intReduce_writes hs h0 hne hr (uns := false) (r := minInt) rfl ha hd
    · exact intReduce_writes hs h0 hne hr (uns := false) (r := maxInt) rfl ha hd
    · exact intReduce_writes hs h0 hne hr (uns := true) (r := minInt) rfl ha hd
    · exact intReduce_writes hs h0 hne hr (uns := true) (r := maxInt) rfl ha hd
  · simp only [bitRows, List.mem_cons, List.not_mem_nil, or_false] at hrow
    obtain rfl | rfl | rfl := hrow
    · exact bitsReduce_writes hs h0 hne hr (r := (· &&& ·)) rfl ha hd hw
    · exact bitsReduce_writes hs h0 hne hr (r := (· ||| ·)) rfl ha hd hw
    · exact bitsReduce_writes hs h0 hne hr (r := (· ^^^ ·)) rfl ha hd hw
  · exact vfrsum_writes hs h0 hne hr hf hn
  · exact vfrosum_writes hs h0 hne hr hf
  · exact pickReduce_writes hs h0 hne hr (smaller := true) rfl hf hn
  · exact pickReduce_writes hs h0 hne hr (smaller := false) rfl hf hn

end
